-- ==== Sys2Proof/Word.lean ====
section
/-!
DEFINITION. The word types of the Genrix G9 and their plainest arithmetic (spec/00_scope.md, "Notation"; R2, R3).
-/
namespace Sys2Proof

/-- A word is 64 bits (spec/00_scope.md). -/
abbrev Word := BitVec 64
abbrev Byte := BitVec 8
/-- A vector register or queue entry (R86). -/
abbrev Vec := BitVec 512
/-- An instruction word (R21). -/
abbrev IWord := BitVec 96
/-- A fetch line (R32). -/
abbrev Line := BitVec 512

/-- `bit b` is the bit `b` as a word of width `n`. -/
def bit (n : Nat) (b : Bool) : BitVec n := if b then 1 else 0

/-- Replace one element of a list; an index past its end changes nothing. -/
def setAt {α : Type} : List α → Nat → α → List α
  | [], _, _ => []
  | _ :: xs, 0, y => y :: xs
  | x :: xs, n + 1, y => x :: setAt xs n y

/-- A finite map from numbers, kept as a list in rising key order. -/
abbrev NMap (α : Type) := List (Nat × α)

/-- The value at a key, or the default. -/
def NMap.get {α : Type} (d : α) : NMap α → Nat → α
  | [], _ => d
  | (k, v) :: m, n => if k = n then v else NMap.get d m n

def NMap.find {α : Type} : NMap α → Nat → Option α
  | [], _ => none
  | (k, v) :: m, n => if k = n then some v else NMap.find m n

/-- Insert or replace, keeping the keys rising. -/
def NMap.set {α : Type} : NMap α → Nat → α → NMap α
  | [], n, x => [(n, x)]
  | (k, v) :: m, n, x =>
    if n < k then (n, x) :: (k, v) :: m
    else if n = k then (n, x) :: m
    else (k, v) :: NMap.set m n x

def NMap.erase {α : Type} (m : NMap α) (n : Nat) : NMap α := m.filter fun e => e.1 != n

/-- Apply `f 0`, then `f 1`, up to `f (n - 1)`. -/
def iter {α : Type} : Nat → (Nat → α → α) → α → α
  | 0, _, x => x
  | n + 1, f, x => f n (iter n f x)

/-- The element of a fixed-size table, or the default past its end. -/
def vget {α : Type} {n : Nat} (d : α) (v : Vector α n) (i : Nat) : α := if h : i < n then v[i] else d

/-- Replace the element of a fixed-size table; an index past its end changes nothing. -/
def vset {α : Type} {n : Nat} (v : Vector α n) (i : Nat) (x : α) : Vector α n :=
  if h : i < n then v.set i x h else v

theorem vget_vset_same {α : Type} {n : Nat} (d : α) (v : Vector α n) (i : Nat) (x : α) (h : i < n) :
    vget d (vset v i x) i = x := by simp [vget, vset, h]

theorem vget_vset_ne {α : Type} {n : Nat} (d : α) (v : Vector α n) (i j : Nat) (x : α) (h : i ≠ j) :
    vget d (vset v i x) j = vget d v j := by
  unfold vget vset
  split
  · split
    · simp [h]
    · rfl
  · rfl

end Sys2Proof
end

