-- ==== Sys2Proof/Machine/Memory.lean ====
section
/-!
DEFINITION. Memory: one list of cells in canonical form over the flat keys of every memory of the module (R17, R178, R198), its bytes
little-endian (R3).
-/
namespace Sys2Proof.Machine

/-- The bytes of the LPDDR6, the vaults and the local memories, keyed as `lpddrKey`, `vaultKey` and `localKey` say. -/
abbrev Memory := List Host.Cell

/-- What an unlisted byte reads as. Log 3 (DESIGN CHOICE: the manual gives no contents at power-on). -/
def unlisted : Byte := 0

/-- Addresses rise strictly from `lo` and no entry equals what an unlisted byte reads as. -/
def Memory.wfFrom : Nat → Memory → Bool
  | _, [] => true
  | lo, (k, v) :: m => decide (lo ≤ k) && v != unlisted && Memory.wfFrom (k + 1) m

/-- The canonical form. -/
def Memory.wf (m : Memory) : Bool := m.wfFrom 0

def Memory.read : Memory → Nat → Byte
  | [], _ => unlisted
  | (k, v) :: m, a => if k = a then v else Memory.read m a

/-- Write one byte, keeping the canonical form. -/
def Memory.write : Memory → Nat → Byte → Memory
  | [], a, b => if b = unlisted then [] else [(a, b)]
  | (k, v) :: m, a, b =>
    if a < k then (if b = unlisted then (k, v) :: m else (a, b) :: (k, v) :: m)
    else if a = k then (if b = unlisted then m else (a, b) :: m)
    else (k, v) :: Memory.write m a b

/-- `n` bytes from `a` as a number, little-endian (R3). -/
def Memory.readNat (m : Memory) (a : Nat) : Nat → Nat
  | 0 => 0
  | n + 1 => (m.read a).toNat + 256 * Memory.readNat m (a + 1) n

def Memory.readBits (m : Memory) (a n : Nat) : BitVec (8 * n) := BitVec.ofNat (8 * n) (m.readNat a n)

/-- Write the low `n` bytes of a number, little-endian (R3). -/
def Memory.writeNat (m : Memory) (a : Nat) : Nat → Nat → Memory
  | 0, _ => m
  | n + 1, x => Memory.writeNat (m.write a (BitVec.ofNat 8 x)) (a + 1) n (x / 256)

/-- Write zero to `n` bytes: unlisted bytes read as zero, so they leave the list. -/
def Memory.clear (m : Memory) (a n : Nat) : Memory := m.filter fun c => !(decide (a ≤ c.1) && decide (c.1 < a + n))

/-- An LPDDR6 byte at its physical address (R198). -/
def lpddrKey (a : Nat) : Nat := a
/-- A vault byte: position 48 y + x and offset (R198). -/
def vaultKey (pos off : Nat) : Nat := 2 ^ 48 + pos * 2 ^ 22 + off
/-- A local-memory byte (R178). -/
def localKey (pos off : Nat) : Nat := 2 ^ 49 + pos * 2 ^ 20 + off

/-- Local memory is 768 KiB, a vault 3 MiB (R14, R178, R198). -/
def localSize : Nat := 0xC0000
def vaultSize : Nat := 0x300000
def lpddrSize : Nat := 2 ^ 40

end Sys2Proof.Machine
end

