-- ==== Sys2Proof/Syntax.lean ====
section
/-!
DEFINITION. The abstract syntax: the fields of the instruction formats (R22 to R27), the arguments of the units' own steps
(spec/95_what_each_step_holds.md), and one constructor of `Instr` per row of spec/opcode_table.json.
-/
namespace Sys2Proof

/-- Format A (R23); bits 51:48 are reserved and stand in no field. -/
structure FmtA where
  fn : BitVec 6
  d : BitVec 6
  a : BitVec 6
  b : BitVec 6
  c : BitVec 6
  md : BitVec 6
  imm : BitVec 48
  deriving DecidableEq, Repr

/-- Format B (R24). -/
structure FmtB where
  fn : BitVec 6
  a : BitVec 6
  b : BitVec 6
  d : BitVec 6
  hint : BitVec 3
  off : BitVec 32
  deriving DecidableEq, Repr

/-- Format V (R25): `d`, `a`, `b`, `c` are VD, VA, VB and VC; `ty` is TYPE. -/
structure FmtV where
  fn : BitVec 6
  d : BitVec 5
  a : BitVec 5
  b : BitVec 5
  c : BitVec 5
  s : BitVec 6
  ty : BitVec 4
  rnd : BitVec 2
  p : Bool
  imm : BitVec 16
  deriving DecidableEq, Repr

/-- Format E (R26). -/
structure FmtE where
  fn : BitVec 6
  d : BitVec 6
  a : BitVec 6
  b : BitVec 6
  c : BitVec 6
  e : BitVec 6
  mode : BitVec 4
  imm : BitVec 32
  deriving DecidableEq, Repr

/-- Format P, the FMT prefix (R27, R50). -/
structure FmtF where
  ta : BitVec 4
  tb : BitVec 4
  tc : BitVec 4
  ts : BitVec 4
  slc : BitVec 3
  pset : Bool
  rnd : BitVec 4
  deriving DecidableEq, Repr

/-- Format P, the REP prefix (R27, R51). -/
structure FmtR where
  count : BitVec 8
  sd : BitVec 8
  sa : BitVec 8
  sb : BitVec 8
  sc : BitVec 8
  deriving DecidableEq, Repr

/-- One stream of one thread slot of one core (R13, R41): `core` is 48 y + x, `acc` is the access stream. -/
structure StreamId where
  core : Nat
  slot : Nat
  acc : Bool
  deriving DecidableEq, Repr

/-- Where an arriving message comes from: the mesh packet of that position, the message that stands at a core's stopped ejection port
(R132), or a welt port with the packet's global partition id and the receiver it names, or with the successor handle, its four words and
the sender's logical core (R119, R147, R348), or the answer that another module has dropped a message, whose words or handle it gives back
(R348). -/
inductive ArrivalSource where
  | mesh (k : Nat)
  | port (core : Nat)
  | welt (weltPort : Nat) (gpid : BitVec 16) (lcore : BitVec 12) (chan : BitVec 6) (words : List Word)
  | weltSuccessor (weltPort : Nat) (gpid : BitVec 16) (sender : BitVec 12) (handle : Word) (result : List Word)
  | weltMismatch (gpid : BitVec 16) (words : List Word)
  deriving DecidableEq, Repr

/-- A walker of a station, by its place among those that are busy (R202). -/
structure WalkerId where
  station : Nat
  walker : Nat
  deriving DecidableEq, Repr

/-- What another module answers to an access that left this one (R204); accesses within the module take `own`. -/
inductive RemoteReply where
  | own
  | data (words : List Word)
  | refused (cause : Byte)
  deriving DecidableEq, Repr

/-- The unit that the management complex claims (R374). -/
inductive ClaimUnit where
  | counters
  | trace
  deriving DecidableEq, Repr

/-- Module states (R392). -/
inductive ModuleState where
  | active
  | idleClocked
  | clockStopped
  | off
  deriving DecidableEq, Repr

/-- Registers that the host or the management complex writes and that have no row of their own (R4, R204, R348, R395, R396,
R363, R413, R416 to R418). Where a register is wider than a word the value's index selects the word. -/
inductive HostReg where
  | rampTime
  | tripThreshold
  | accessLimit
  | moduleId
  | submission (tag : Nat) (i : BitVec 8) (w : Nat)
  | gpidEntry (port : Nat) (gpid : BitVec 16)
  | route (module : Nat)
  | launchEntry (e : Nat) (w : Nat)
  | handler (core : Nat) (i : BitVec 6) (hw1 hw2 : Word)
  | channel (core : Nat) (ch : BitVec 6)
  | logicalTable (core : Nat)
  deriving DecidableEq, Repr

/-- How the fetch and the check of the firmware image end (R420). -/
inductive FetchResult where
  | failed
  | keyMismatch
  | badSignature
  | malformed
  | verified
  deriving DecidableEq, Repr

/-- What the management complex writes when it creates a context (R351). -/
structure NewContext where
  tickets : BitVec 16
  root : Word
  saveBase : Word
  psave : Word
  deriving DecidableEq, Repr

/-- The instructions of the Virpen ISA and the steps of the units, one constructor per row of spec/opcode_table.json. -/
inductive Instr where
  /-- Executes an all-zero instruction word that does nothing. (R28) -/
  | nop (f : FmtA)
  /-- Sets a pending format prefix that supplies types, slices, pair set and rounding to the next instruction of its stream. (R50) -/
  | fmt (f : FmtF)
  /-- Sets a pending repeat prefix that makes the next instruction run COUNT times with stepped register fields. (R51) -/
  | rep (f : FmtR)
  /-- Branches to the offset target when the condition code holds for s[A] and s[B]. (R135) -/
  | br (f : FmtB)
  /-- Branches when s[A] is zero. (R135) -/
  | brz (f : FmtB)
  /-- Branches when s[A] is non-zero. (R135) -/
  | brzNz (f : FmtB)
  /-- Jumps to the offset target. (R135) -/
  | jmp (f : FmtB)
  /-- Writes the next slot's program counter to s63 and jumps to the offset target. (R135) -/
  | jal (f : FmtB)
  /-- Jumps to the program counter held in s[A]. (R135) -/
  | jr (f : FmtB)
  /-- Jumps to s[A] and writes the next slot's program counter to s63. (R135) -/
  | jrL (f : FmtB)
  /-- Jumps to the program counter held in s63. (R135) -/
  | ret (f : FmtB)
  /-- Decrements s[A] and branches to the offset target while the result is non-zero. (R135) -/
  | loop (f : FmtB)
  /-- Ends the firing: drains the access stream, waits for scoreboards, sends successor messages, discards the taken set and frees the slot. (R128) -/
  | end_ (f : FmtB)
  /-- Stalls the execute stream until all cluster peers reach the same ALIGN or the window elapses, and writes which happened. (R136) -/
  | align (f : FmtB)
  /-- Raises software trap 0x0E with TRAPADDR set to the offset field. (R137) -/
  | trap (f : FmtB)
  /-- Raises breakpoint trap 0x0F with TRAPADDR set to the offset field. (R137) -/
  | brk (f : FmtB)
  /-- Writes the 64-bit sum of a and s[B]. (R98) -/
  | add (f : FmtA)
  /-- Writes the 64-bit sum of a and the sign-extended immediate. (R98) -/
  | addImm (f : FmtA)
  /-- Writes the 64-bit sum of a, s[B] and the sign-extended immediate. (R98) -/
  | addi (f : FmtA)
  /-- Writes the 64-bit difference of a and s[B]. (R98) -/
  | sub (f : FmtA)
  /-- Writes the 64-bit difference of a and the immediate. (R98) -/
  | subImm (f : FmtA)
  /-- Writes the low 64 bits of a times s[B]. (R98) -/
  | mul (f : FmtA)
  /-- Writes the low 64 bits of a times the immediate. (R98) -/
  | mulImm (f : FmtA)
  /-- Writes the high 64 bits of the signed product of a and s[B]. (R98) -/
  | mulh (f : FmtA)
  /-- Writes the high 64 bits of the signed product of a and the immediate. (R98) -/
  | mulhImm (f : FmtA)
  /-- Writes the high 64 bits of the unsigned product of a and s[B]. (R98) -/
  | mulhn (f : FmtA)
  /-- Writes the high 64 bits of the unsigned product of a and the zero-extended immediate. (R98) -/
  | mulhnImm (f : FmtA)
  /-- Writes the signed quotient of a by s[B], truncated, without trapping. (R99) -/
  | div (f : FmtA)
  /-- Writes the signed quotient of a by the immediate. (R99) -/
  | divImm (f : FmtA)
  /-- Writes the unsigned quotient of a by s[B]. (R99) -/
  | divn (f : FmtA)
  /-- Writes the unsigned quotient of a by the zero-extended immediate. (R99) -/
  | divnImm (f : FmtA)
  /-- Writes the signed remainder of a by s[B]. (R99) -/
  | rem (f : FmtA)
  /-- Writes the signed remainder of a by the immediate. (R99) -/
  | remImm (f : FmtA)
  /-- Writes the unsigned remainder of a by s[B]. (R99) -/
  | remn (f : FmtA)
  /-- Writes the unsigned remainder of a by the zero-extended immediate. (R99) -/
  | remnImm (f : FmtA)
  /-- Writes a AND s[B]. (R98) -/
  | and (f : FmtA)
  /-- Writes a AND the immediate. (R98) -/
  | andImm (f : FmtA)
  /-- Writes a OR s[B]. (R98) -/
  | or (f : FmtA)
  /-- Writes a OR the immediate. (R98) -/
  | orImm (f : FmtA)
  /-- Writes a XOR s[B]. (R98) -/
  | xor (f : FmtA)
  /-- Writes a XOR the immediate. (R98) -/
  | xorImm (f : FmtA)
  /-- Writes a AND NOT s[B]. (R98) -/
  | andn (f : FmtA)
  /-- Writes a AND NOT the immediate. (R98) -/
  | andnImm (f : FmtA)
  /-- Shifts a left by s[B][5:0]. (R98) -/
  | shl (f : FmtA)
  /-- Shifts a left by the immediate count. (R98) -/
  | shlImm (f : FmtA)
  /-- Shifts a right logically by s[B][5:0]. (R98) -/
  | shr (f : FmtA)
  /-- Shifts a right logically by the immediate count. (R98) -/
  | shrImm (f : FmtA)
  /-- Shifts a right arithmetically by s[B][5:0]. (R98) -/
  | sra (f : FmtA)
  /-- Shifts a right arithmetically by the immediate count. (R98) -/
  | sraImm (f : FmtA)
  /-- Rotates a right by s[B][5:0]. (R98) -/
  | rotr (f : FmtA)
  /-- Rotates a right by the immediate count. (R98) -/
  | rotrImm (f : FmtA)
  /-- Writes the count of leading zeros of a. (R98) -/
  | clz (f : FmtA)
  /-- Writes the count of trailing zeros of a. (R98) -/
  | ctz (f : FmtA)
  /-- Writes the count of one bits of a. (R98) -/
  | popc (f : FmtA)
  /-- Writes the signed smaller of a and s[B]. (R98) -/
  | min (f : FmtA)
  /-- Writes the signed smaller of a and the immediate. (R98) -/
  | minImm (f : FmtA)
  /-- Writes the signed larger of a and s[B]. (R98) -/
  | max (f : FmtA)
  /-- Writes the signed larger of a and the immediate. (R98) -/
  | maxImm (f : FmtA)
  /-- Writes the unsigned smaller of a and s[B]. (R98) -/
  | minn (f : FmtA)
  /-- Writes the unsigned smaller of a and the zero-extended immediate. (R98) -/
  | minnImm (f : FmtA)
  /-- Writes the unsigned larger of a and s[B]. (R98) -/
  | maxn (f : FmtA)
  /-- Writes the unsigned larger of a and the zero-extended immediate. (R98) -/
  | maxnImm (f : FmtA)
  /-- Writes 1 if a is signed-less than s[B], else 0. (R98) -/
  | slt (f : FmtA)
  /-- Writes 1 if a is signed-less than the immediate, else 0. (R98) -/
  | sltImm (f : FmtA)
  /-- Writes 1 if a is unsigned-less than s[B], else 0. (R98) -/
  | sltn (f : FmtA)
  /-- Writes 1 if a is unsigned-less than the zero-extended immediate, else 0. (R98) -/
  | sltnImm (f : FmtA)
  /-- Writes s[B] if a is non-zero, else s[C]. (R98) -/
  | sel (f : FmtA)
  /-- Loads the sign-extended 48-bit immediate. (R98) -/
  | li (f : FmtA)
  /-- Replaces bits 63:48 of a with a 16-bit immediate. (R98) -/
  | lih (f : FmtA)
  /-- Extracts a bit field of a and zero-extends it. (R100) -/
  | extbN64 (f : FmtA)
  /-- Extracts a bit field of a and sign-extends it. (R100) -/
  | extbI64 (f : FmtA)
  /-- Inserts the low bits of s[B] into a bit field of a. (R100) -/
  | insb (f : FmtA)
  /-- Builds a mesh-absolute address from a logical core number via the logical core table. (R104) -/
  | madr (f : FmtA)
  /-- Builds a mesh-absolute address from a physical core word. (R104) -/
  | madrPhys (f : FmtA)
  /-- Builds a mesh-relative address from signed deltas and an offset. (R105) -/
  | radr (f : FmtA)
  /-- Writes the core word of a logical core of this module's share of the partition. (R106) -/
  | lcor (f : FmtA)
  /-- Writes the logical core number of the core named by a core word. (R106) -/
  | lcorLog (f : FmtA)
  /-- Writes the issuing core's logical core number. (R106) -/
  | whoLcore (f : FmtA)
  /-- Writes the issuing core's core word with its actual module identifier. (R106) -/
  | whoCoreword (f : FmtA)
  /-- Writes the issuing core's cluster, index within the cluster and die. (R106) -/
  | whoPlace (f : FmtA)
  /-- Writes the number of the partition's cores on this module. (R106) -/
  | whoNcores (f : FmtA)
  /-- Writes the core's current stage number. (R106) -/
  | whoStage (f : FmtA)
  /-- Writes the stream and thread slot bits of STATUS. (R106) -/
  | whoSlot (f : FmtA)
  /-- Writes the fork-path hash of a parent path and child index. (R107) -/
  | phash (f : FmtA)
  /-- Writes the fork-path hash reduced modulo the partition's core count on the module. (R107) -/
  | phashPlace (f : FmtA)
  /-- Adds two scalar floating values with one rounding. (R109) -/
  | fadd (f : FmtA)
  /-- Subtracts two scalar floating values with one rounding. (R109) -/
  | fsub (f : FmtA)
  /-- Multiplies two scalar floating values with one rounding. (R109) -/
  | fmul (f : FmtA)
  /-- Computes x × y + z with one rounding. (R109) -/
  | fma (f : FmtA)
  /-- Divides two scalar floating values, correctly rounded. (R109) -/
  | fdiv (f : FmtA)
  /-- Takes the correctly rounded square root of a scalar floating value. (R109) -/
  | fsqrt (f : FmtA)
  /-- Writes the smaller of two floating values, NaN giving the canonical NaN. (R109) -/
  | fmin (f : FmtA)
  /-- Writes the larger of two floating values, NaN giving the canonical NaN. (R109) -/
  | fmax (f : FmtA)
  /-- Writes a one-hot comparison mask of less, equal, greater or unordered. (R110) -/
  | fcmp (f : FmtA)
  /-- Writes a one-hot class mask of a floating value. (R110) -/
  | fcls (f : FmtA)
  /-- Converts a scalar between integer and floating types with one rounding and saturation. (R111) -/
  | fcvt (f : FmtA)
  /-- Computes the defined EXP2 approximation of a scalar. (R79) -/
  | fexp2 (f : FmtA)
  /-- Computes the defined LOG2 approximation of a scalar. (R81) -/
  | flog2 (f : FmtA)
  /-- Copies floating bits unchanged. (R112) -/
  | fmov (f : FmtA)
  /-- Copies floating bits with the sign inverted. (R112) -/
  | fmovNeg (f : FmtA)
  /-- Copies floating bits with the sign cleared. (R112) -/
  | fmovAbs (f : FmtA)
  /-- Copies floating bits with the sign taken from s[B]. (R112) -/
  | fmovSgn (f : FmtA)
  /-- Loads an element from memory into a scalar register with extension. (R187) -/
  | ld (f : FmtA)
  /-- Stores the low bits of s[C] to memory. (R187) -/
  | st (f : FmtA)
  /-- Stores to memory only after every older access of the slot has performed, as a release. (R188) -/
  | stRel (f : FmtA)
  /-- Loads 64 bytes and pushes them as one entry into an access-to-execute queue. (R187) -/
  | ldq (f : FmtA)
  /-- Pops one entry from an execute-to-access queue and stores its 64 bytes. (R187) -/
  | stq (f : FmtA)
  /-- Pops a queue entry and stores it as a release store. (R188) -/
  | stqRel (f : FmtA)
  /-- Reads N words and delivers them as a KIND 2 message to a target. (R189) -/
  | ldr (f : FmtA)
  /-- Atomically adds to a local-memory word and returns the old value. (R190) -/
  | amadd (f : FmtA)
  /-- Atomically stores the smaller value and returns the old value. (R190) -/
  | ammin (f : FmtA)
  /-- Atomically stores the larger value and returns the old value. (R190) -/
  | ammax (f : FmtA)
  /-- Atomically swaps a local-memory word. (R190) -/
  | amswp (f : FmtA)
  /-- Atomically compares and swaps a local-memory word. (R190) -/
  | amcas (f : FmtA)
  /-- Decrements a pending task record's count and pushes its packet when it reaches zero. (R191) -/
  | amdec (f : FmtA)
  /-- Configures a circular buffer's base and size and resets its counts. (R193) -/
  | cbcfg (f : FmtA)
  /-- Writes a read window word. (R193) -/
  | cbcfgWin (f : FmtA)
  /-- Reads a read window word. (R193) -/
  | cbcfgRdwin (f : FmtA)
  /-- Takes n free units of a circular buffer for a producer, waiting unless NB. (R194) -/
  | cbtakeFree (f : FmtA)
  /-- Takes n filled units of a circular buffer for a consumer, waiting unless NB. (R194) -/
  | cbtakeFill (f : FmtA)
  /-- Gives n units back as filled. (R194) -/
  | cbgiveFill (f : FmtA)
  /-- Gives n units back as free. (R194) -/
  | cbgiveFree (f : FmtA)
  /-- The buffer unit satisfies the oldest waiting take once enough units are available. (R195) -/
  | cbtakeWaitServed (core buf : Nat) (fill : Bool)
  /-- Hands a Private region's writer capability to another core after draining its stores. (R211) -/
  | hand (f : FmtA)
  /-- Makes an Unclaimed region Private to a named core with VERSION 0. (R212) -/
  | handInit (f : FmtA)
  /-- Publishes a Private region with a declared reader count. (R213) -/
  | publ (f : FmtA)
  /-- Publishes a region with the lace-once attribute and a tile grid. (R213) -/
  | publLace (f : FmtA)
  /-- Returns a Published region to its owner, waiting for readers to drop. (R214) -/
  | recl (f : FmtA)
  /-- Reclaims a Published region or returns 0x04 at once while readers remain. (R214) -/
  | reclNb (f : FmtA)
  /-- Decreases a Published region's reader count by one. (R214) -/
  | reclDrop (f : FmtA)
  /-- A waiting RECL completes once READERS reaches zero, making the region Private and dropping cached lines. (R214) -/
  | reclReadersDone (t : StreamId)
  /-- Reads a region's record word. (R215) -/
  | capq (f : FmtA)
  /-- Reads the holder or owner of a region as a target word. (R215) -/
  | capqHold (f : FmtA)
  /-- Pairs a Published region with a Private partner as a shadow. (R216) -/
  | shad (f : FmtA)
  /-- Completes a shadow by exchanging the two regions' frames. (R217) -/
  | swapm (f : FmtA)
  /-- Abandons a shadow without exchange. (R217) -/
  | swapmAbort (f : FmtA)
  /-- Takes a tracker covering the slot's outstanding work of the named classes and returns its token. (R232) -/
  | fence (f : FmtA)
  /-- Tests whether a fence token is complete. (R233) -/
  | ftest (f : FmtA)
  /-- Tests whether every tracker of the slot is free. (R233) -/
  | ftestAll (f : FmtA)
  /-- A fence tracker frees once all conditions of its classes hold. (R232) -/
  | fenceTrackerComplete (core slot : Nat) (seq : BitVec 16)
  /-- Sends a KIND 0 message of register words to a target. (R138) -/
  | send (f : FmtA)
  /-- Sends a KIND 0 message with a reply handle appended. (R138) -/
  | sendRh (f : FmtA)
  /-- Sends a KIND 0 message whose words are read from local memory. (R138) -/
  | sendt (f : FmtA)
  /-- Sends a message from local memory whose last word is a reply handle. (R138) -/
  | sendtRh (f : FmtA)
  /-- Sends a task packet calling a handler on a logical core with a reply handle. (R148) -/
  | callat (f : FmtA)
  /-- Sends a packet image to the core that its fork path places. (R149) -/
  | spawn (f : FmtA)
  /-- Sends a packet image to a named logical core. (R149) -/
  | spawnAt (f : FmtA)
  /-- Builds a join record in local memory and returns its join handle. (R150) -/
  | join (f : FmtA)
  /-- Writes a handler-table entry if well formed. (R142) -/
  | hset (f : FmtA)
  /-- Reads one word of a handler-table entry. (R142) -/
  | hsetRd (f : FmtA)
  /-- Masks a handler entry and returns its previous MASK. (R143) -/
  | hmask (f : FmtA)
  /-- Unmasks a handler entry and returns its previous MASK. (R143) -/
  | hmaskUn (f : FmtA)
  /-- Reads a handler entry's MASK. (R143) -/
  | hmaskRd (f : FmtA)
  /-- Writes a channel's CHANCFG under the channel-state checks. (R141) -/
  | chcfg (f : FmtA)
  /-- Reads a channel's message count. (R139) -/
  | chcnt (f : FmtA)
  /-- Reads the free words of a channel's ring. (R139) -/
  | chcntFree (f : FmtA)
  /-- Reads the count of a channel's messages in the heap. (R139) -/
  | chcntHeap (f : FmtA)
  /-- Pops the next message of a taken-set input and stores it to local memory. (R140) -/
  | chpop (f : FmtA)
  /-- Pops the oldest untaken message of a channel and stores it to local memory. (R140) -/
  | chpopCh (f : FmtA)
  /-- Pops and discards the next message of a taken-set input. (R140) -/
  | chpopDrop (f : FmtA)
  /-- Pops and discards the oldest untaken message of a channel. (R140) -/
  | chpopChDrop (f : FmtA)
  /-- Waits until any or all of up to four conditions hold or the timeout passes. (R152) -/
  | wait (f : FmtE)
  /-- A waiting WAIT completes when its any-of or all-of condition set holds, writing the mask. (R152) -/
  | waitConditionMet (t : StreamId)
  /-- A waiting WAIT's deadline passes and it writes 0. (R152) -/
  | waitTimeout (t : StreamId)
  /-- Reads one field of a delay-account entry. (R153) -/
  | dacc (f : FmtA)
  /-- Reads MSGS of a delay-account entry and clears the entry. (R153) -/
  | daccClr (f : FmtA)
  /-- Loads 64 bytes of elements into a vector register or queue. (R164) -/
  | vld (f : FmtV)
  /-- Stores a vector register's elements contiguously. (R164) -/
  | vst (f : FmtV)
  /-- Loads elements at a fixed stride. (R164) -/
  | vlds (f : FmtV)
  /-- Stores elements at a fixed stride in ascending lane order. (R164) -/
  | vsts (f : FmtV)
  /-- Gathers elements at base plus shifted lane indices. (R164) -/
  | vgld (f : FmtV)
  /-- Scatters elements to base plus shifted lane indices. (R164) -/
  | vsct (f : FmtV)
  /-- Broadcasts a scalar register into every lane. (R162) -/
  | vbc (f : FmtV)
  /-- Broadcasts a sign-extended immediate into every lane. (R162) -/
  | vbcImm (f : FmtV)
  /-- Broadcasts one lane of a vector register into every lane. (R162) -/
  | vbcLane (f : FmtV)
  /-- Moves one lane of a vector register to a scalar register. (R162) -/
  | vmvs (f : FmtV)
  /-- Moves the top of the predicate stack to a scalar register. (R162) -/
  | vmvsPred (f : FmtV)
  /-- Inserts a scalar into one lane of a vector register. (R162) -/
  | vins (f : FmtV)
  /-- Adds lanes, wrapping, saturating or rounding by type. (R160) -/
  | vadd (f : FmtV)
  /-- Subtracts lanes. (R160) -/
  | vsub (f : FmtV)
  /-- Multiplies lanes. (R160) -/
  | vmul (f : FmtV)
  /-- Writes the high half of the exact integer lane product. (R160) -/
  | vmulHi (f : FmtV)
  /-- Computes a fused multiply-add per lane with one rounding. (R160) -/
  | vfma (f : FmtV)
  /-- Writes the smaller of each lane pair. (R160) -/
  | vmin (f : FmtV)
  /-- Writes the larger of each lane pair. (R160) -/
  | vmax (f : FmtV)
  /-- Writes the absolute value of each lane. (R160) -/
  | vabs (f : FmtV)
  /-- Writes the negation of each lane. (R160) -/
  | vneg (f : FmtV)
  /-- ANDs lanes. (R160) -/
  | vand (f : FmtV)
  /-- ORs lanes. (R160) -/
  | vor (f : FmtV)
  /-- XORs lanes. (R160) -/
  | vxor (f : FmtV)
  /-- Shifts lanes left. (R160) -/
  | vshl (f : FmtV)
  /-- Shifts lanes right logically. (R160) -/
  | vshr (f : FmtV)
  /-- Shifts lanes right arithmetically. (R160) -/
  | vsra (f : FmtV)
  /-- Compares lanes and pushes the result ANDed with the top onto the predicate stack. (R157) -/
  | vcmp (f : FmtV)
  /-- Inverts the predicate top within the enclosing region. (R157) -/
  | vpnot (f : FmtV)
  /-- Pops the predicate stack. (R157) -/
  | vpop (f : FmtV)
  /-- Selects lanes from two registers by the predicate top. (R158) -/
  | vsel (f : FmtV)
  /-- Compresses active lanes to the bottom and writes their count. (R158) -/
  | vcmpr (f : FmtV)
  /-- Reduces active lanes by sum in the fixed tree to a scalar. (R161) -/
  | vrsum (f : FmtV)
  /-- Reduces active lanes to their maximum. (R161) -/
  | vrmax (f : FmtV)
  /-- Reduces active lanes to their minimum. (R161) -/
  | vrmin (f : FmtV)
  /-- Permutes lanes from two registers by an index register. (R163) -/
  | vperm (f : FmtV)
  /-- Applies EXP2 to each lane. (R160) -/
  | vexp2 (f : FmtV)
  /-- Applies LOG2 to each lane. (R160) -/
  | vlog2 (f : FmtV)
  /-- Computes the correctly rounded reciprocal of each lane. (R160) -/
  | vrcp (f : FmtV)
  /-- Computes the correctly rounded reciprocal square root of each lane. (R160) -/
  | vrsq (f : FmtV)
  /-- Divides lanes, correctly rounded. (R160) -/
  | vdiv (f : FmtV)
  /-- Converts lanes between any types through a round-to-odd chain. (R167) -/
  | vcvt (f : FmtV)
  /-- Quantises a block of 32 values into a narrow type with a shared scale. (R170) -/
  | vqnt (f : FmtV)
  /-- Dequantises a narrow block by its scale into a wide type. (R171) -/
  | vdqnt (f : FmtV)
  /-- Adds two scaled narrow blocks exactly and requantises the sum. (R170) -/
  | baddq (f : FmtV)
  /-- Decodes cb2 codes with a local codebook into i8 lanes. (R172) -/
  | vcbd (f : FmtV)
  /-- A late memory fault of a vector instruction marks it faulted, cancels younger vector work and traps 0x0C at the next boundary. (R174) -/
  | vectorLateFault (t : StreamId)
  /-- Issues a linear copy or fill request to the copy engine, stalling on a full FIFO. (R253) -/
  | copy (f : FmtE)
  /-- Issues a linear copy or returns 0x01 at once when the FIFO is full. (R248) -/
  | copyb (f : FmtE)
  /-- Issues a multi-dimensional copy described by a snapshotted parameter block. (R255) -/
  | copyp (f : FmtE)
  /-- Issues a gather of indexed table rows into a packed destination. (R262) -/
  | gath (f : FmtE)
  /-- Reads the number of free command-FIFO entries. (R264) -/
  | cstat (f : FmtE)
  /-- Reads the state word of a copy request by sequence number. (R264) -/
  | cstatSeq (f : FmtE)
  /-- A copy or gather request ends and delivers its status word by register, message or trap. (R258) -/
  | copyCompletion (core : Nat) (seq : BitVec 16) (n : Nat)
  /-- Reads a lace-once tile once and starts its tour along an itinerary. (R273) -/
  | lace (f : FmtE)
  /-- Takes a held lace slot for use, waiting until it holds a tile. (R275) -/
  | ltake (f : FmtE)
  /-- Takes a held lace slot or returns 0 at once. (R275) -/
  | ltakeNb (f : FmtE)
  /-- Releases a lace slot so its tile forwards to the next stop. (R275) -/
  | lrel (f : FmtE)
  /-- Reads a lace slot's word. (R280) -/
  | lstat (f : FmtE)
  /-- Reads the elapsed hold time of a lace slot. (R280) -/
  | lstatHold (f : FmtE)
  /-- Reads the masks of a tour by sequence number. (R280) -/
  | lstatTour (f : FmtE)
  /-- The copy engine finishes reading the whole tile and sends it toward stop 0, or fails the tour. (R274) -/
  | laceTileRead (core : Nat) (seq : BitVec 16)
  /-- An outbound tile copy finds the next stop's slot Empty, reserves it and starts sending, or skips the stop. (R276) -/
  | laceOutboundStart (core : Nat) (seq : BitVec 16)
  /-- The last byte of a tile arrives and the slot becomes Held with its hold time started. (R275) -/
  | laceLastByte (core : Nat) (seq : BitVec 16)
  /-- A stop's hold limit expires and the slot starts an overrun copy. (R271) -/
  | laceHoldExpire (core slot : Nat)
  /-- An outbound copy completes and the sending slot moves on. (R275) -/
  | laceOutboundDone (core slot : Nat)
  /-- The last stop report arrives and the tour's completion message is sent. (R279) -/
  | laceTourComplete (core : Nat) (seq : BitVec 16)
  /-- Sends a matrix task record, built from a descriptor and the FMT prefix, to a half's queue. (R291) -/
  | mtask (f : FmtE)
  /-- Reads a matrix task's state word by sequence number. (R308) -/
  | mqry (f : FmtE)
  /-- Reads a logical half's state word. (R308) -/
  | mqryHalf (f : FmtE)
  /-- Reads a half counter. (R308) -/
  | mqryCtr (f : FmtE)
  /-- Reads the logical number of the n-th held half of the issuing core's cluster. (R308) -/
  | mqryNear (f : FmtE)
  /-- Queues a codebook table load for a half. (R309) -/
  | mcbl (f : FmtE)
  /-- A half applies a queued codebook table once every older record has completed. (R309) -/
  | mcblApply (half : Nat)
  /-- Reads a dispatch-ring entry by sequence number. (R310) -/
  | dseq (f : FmtE)
  /-- Reads a dispatch-ring entry by age index. (R310) -/
  | dseqIdx (f : FmtE)
  /-- A half chooses the oldest ready record, loads or reuses the B image and scans exponents. (R284) -/
  | matrixTaskStart (half : Nat)
  /-- A matrix task writes C, rounds once and delivers its status word. (R292) -/
  | matrixTaskComplete (half : Nat)
  /-- At a switch, a running task stops at its next combine point and writes its save area. (R304) -/
  | matrixPreempt (half points : Nat)
  /-- An uncorrectable error in a half fails the running task with 0x05 and drops the resident image. (R285) -/
  | halfUncorrectableError (half : Nat)
  /-- A ramp's time 1,000 × RAMPT elapses and the half reaches full issue or quiescence. (R398) -/
  | rampEnd (half : Nat)
  /-- Binds a pipeline from a chain record, sharing the longest pure prefix of a running binding. (R324) -/
  | pbind (f : FmtE)
  /-- Emits the stage firing's item to the link engine, waiting while a holding queue is full. (R332) -/
  | pstg (f : FmtE)
  /-- Detaches a binding, discarding its private items and passing shared ownership. (R333) -/
  | pdet (f : FmtE)
  /-- Reads a binding word. (R340) -/
  | pqry (f : FmtE)
  /-- Reads a binding's TIME account. (R340) -/
  | pqryTime (f : FmtE)
  /-- Reads a binding's ENERGY account. (R340) -/
  | pqryEnergy (f : FmtE)
  /-- Reads a stage word of a binding. (R340) -/
  | pqryStage (f : FmtE)
  /-- Reads one more than the highest index a stage has emitted. (R340) -/
  | ppos (f : FmtE)
  /-- Reads the number of indices whose last-stage firing has ended. (R340) -/
  | pposDone (f : FmtE)
  /-- Writes a stage's governor word. (R340) -/
  | govt (f : FmtE)
  /-- Reads a stage's governor word. (R340) -/
  | govtRd (f : FmtE)
  /-- A source reader reads the next 64-byte source item at its home and turns it into an item, or fails the instance. (R317) -/
  | sourceReaderItem (tag entry : Nat) (catchUp : Bool)
  /-- An item leaves a holding queue into its serving core's input ring once that ring has room. (R332) -/
  | itemDelivery (tag entry stage : Nat) (catchUp : Bool)
  /-- A catch-up instance retires after emitting every item below p and its cores join stage L. (R328) -/
  | catchupRetire (tag entry : Nat)
  /-- A binding's last stage has ended every index and the completion message is sent. (R330) -/
  | bindingComplete (tag entry : Nat)
  /-- Every 4,096 ticks the governor moves at most one core to the most occupied asking stage. (R338) -/
  | governorEvaluation (tag : Nat)
  /-- A moved core masks its donor handler once its donor ring is empty and no donor firing runs. (R338) -/
  | governorDonorMask (core : Nat)
  /-- Counts one execution of block n in the core's block-counter cache. (R406) -/
  | bbc (f : FmtA)
  /-- A block-counter cache entry is added into the BBCBASE array at its home. (R406) -/
  | bbcWriteback (core : Nat) (n : BitVec 24)
  /-- Reads TIMEBASE. (R411) -/
  | time (f : FmtA)
  /-- Reads the low 32 bits of TIMEBASE. (R411) -/
  | timeLo (f : FmtA)
  /-- Reads CYCLES. (R411) -/
  | cycl (f : FmtA)
  /-- Reads SCYCLES. (R411) -/
  | cyclS (f : FmtA)
  /-- Reads the context's ENERGY. (R411) -/
  | enrg (f : FmtA)
  /-- Reads the issuing firing's launch energy account. (R411) -/
  | enrgL (f : FmtA)
  /-- Reads the THROTTLE word. (R396) -/
  | thrs (f : FmtA)
  /-- Configures a performance counter with an event word and clears its count. (R403) -/
  | pmcr (f : FmtA)
  /-- Reads a performance counter with its LENT flag. (R403) -/
  | pmcrRd (f : FmtA)
  /-- Writes a type 4 mark record if tracing is enabled. (R411) -/
  | tracMark (f : FmtA)
  /-- Opens or closes a context's trace session. (R407) -/
  | tracCfg (f : FmtA)
  /-- Reads the trace session word. (R411) -/
  | tracRd (f : FmtA)
  /-- A core's eight-record trace buffer is sent to the ring, dropping records and counting LOST when full. (R407) -/
  | traceFlush (core : Nat)
  /-- At each multiple of 2^P ticks a sample record is taken for each occupied slot. (R408) -/
  | traceSample (core : Nat)
  /-- Reads a named control register. (R377) -/
  | ctlr (f : FmtA)
  /-- Writes a named control register without a row of its own. (R377) -/
  | ctlw (f : FmtA)
  /-- Writes CHANCFG under the CHCFG checks, trapping 0x04 on refusal. (R141) -/
  | ctlwChancfg (f : FmtA)
  /-- Writes LCTBASE, switching the core's logical core table and dropping its entry cache. (R349) -/
  | ctlwLctbase (f : FmtA)
  /-- Reloads the slot from its frame and resumes both streams. (R367) -/
  | eret (f : FmtA)
  /-- Enters a supervisor handler entry as a system call. (R378) -/
  | sysc (f : FmtA)
  /-- Copies a context's core save area out to a Private VA. (R379) -/
  | ctxs (f : FmtA)
  /-- Copies a core save area in from a Private VA. (R379) -/
  | ctxl (f : FmtA)
  /-- Writes a core's PARTTAG. (R380) -/
  | ptag (f : FmtA)
  /-- Writes a logical core table entry and drops every cached copy. (R381) -/
  | lctw (f : FmtA)
  /-- Requests a gang switch to a named context at time T. (R382) -/
  | gang (f : FmtA)
  /-- Requests a gang switch to the context chosen by stride scheduling at time T. (R382) -/
  | gangNext (f : FmtA)
  /-- Loads a key slot with a fresh random key. (R380) -/
  | keyi (f : FmtA)
  /-- Maps a logical half to a physical half of the partition's pool. (R383) -/
  | mhalf (f : FmtA)
  /-- Removes a logical half and clears it. (R383) -/
  | mhalfRel (f : FmtA)
  /-- Starts a new dirty-log round for a context. (R384) -/
  | dlog (f : FmtA)
  /-- Reads a context's DLOGBASE word. (R384) -/
  | dlogRd (f : FmtA)
  /-- Kills a context with a cause code. (R385) -/
  | halt (f : FmtA)
  /-- Resets a context's launch work while keeping the context. (R375) -/
  | haltQ (f : FmtA)
  /-- A fetch line is read through the cluster port from a Published region, refetching on parity loss. (R44) -/
  | instructionFetch (t : StreamId)
  /-- A message reaches its receiver and is written to its ring or heap, held in the mesh, or discarded. (R121) -/
  | messageArrival (src : ArrivalSource)
  /-- Slot 4 replays a channel's oldest heap message once its ring has room. (R131) -/
  | heapReplay (core chan : Nat)
  /-- A free general slot selects the highest-priority runnable handler, takes its messages and starts a firing. (R123) -/
  | selection (core : Nat)
  /-- A successor message decrements its pending task record and pushes the packet at zero. (R147) -/
  | successorMessage (k : Nat)
  /-- A store-buffer entry sent to its home is written there and acknowledged, leaving the buffer. (R226) -/
  | storePerform (core : Nat) (ack : Option Nat)
  /-- A home answers a store's capability probe, filling the grant cache or trapping. (R208) -/
  | grantProbeAnswer (t : StreamId)
  /-- The answer to a remote access returns and completes or traps the access. (R186) -/
  | remoteAccessAnswer (t : StreamId) (reply : RemoteReply)
  /-- A remote access or probe gets no answer within the domain access limit and fails. (R204) -/
  | remoteAccessTimeout (t : StreamId)
  /-- A station's page walk completes and answers every access that joined it. (R202) -/
  | pageWalkComplete (w : WalkerId)
  /-- After the giver's stores drain, the home makes the region Private to the new holder and the handover message is sent. (R211) -/
  | handFlip (t : StreamId)
  /-- After draining, the home exchanges the shadow's frames and invalidates translations. (R217) -/
  | swapmExchange (t : StreamId)
  /-- A late engine or store failure traps 0x0C in the issuing stream at its next boundary. (R368) -/
  | lateFaultTrap (t : StreamId)
  /-- A collector forwards a waiting report once the supervisor's channel 62 is enabled and has room. (R370) -/
  | collectorForward (row : Nat)
  /-- A supervisor writes command 1 to resume a suspended slot from its view. (R366) -/
  | slotCommandResume (core slot : Nat)
  /-- A supervisor writes command 2 to abandon a suspended firing. (R366) -/
  | slotCommandAbandon (core slot : Nat)
  /-- A control-block write sets a lace slot's BASE and SIZE while the slot is Empty. (R265) -/
  | laceslotWrite (core slot : Nat) (v : Word)
  /-- A supervisor store changes a context's TICKETS or moves STATE between ready and stopped. (R351) -/
  | contextDescriptorWrite (core ctx word : Nat) (v : Word)
  /-- At time T every unit of the partition stops, drains and captures the outgoing context and loads the next. (R353) -/
  | gangSwitch (tag : Nat)
  /-- When every unit has reported loaded, spilled packets are re-injected and all cores start together. (R353) -/
  | resumeBroadcast (tag : Nat)
  /-- A kill by management or host stops every firing, cancels work, retires launches and tears the context down. (R373) -/
  | contextKill (tag ctx : Nat) (cause : BitVec 8) (byHost : Bool)
  /-- The dispatcher reserves a launch's resources and either fails it or performs the go. (R360) -/
  | launchPlacement (tag n : Nat)
  /-- A half-placed launch releases its reservations and returns to the queue. (R361) -/
  | launchWithdraw (tag : Nat)
  /-- A launch whose work is all gone retires, zeroing its entries and reporting to REPLY. (R362) -/
  | launchRetire (tag : Nat) (launch : BitVec 16)
  /-- An uncorrectable error in unowned core state or a dead link takes a core out of service. (R372) -/
  | coreLost (core : Nat)
  /-- The management complex claims a counter bank or trace unit, freezing the supervisor's configuration in a shadow. (R374) -/
  | counterClaim (core : Nat) (unit : ClaimUnit)
  /-- The management complex releases a claimed unit and restores its shadow. (R374) -/
  | counterRelease (core : Nat) (unit : ClaimUnit)
  /-- The management complex grants or removes physical halves in a partition's half pool. (R383) -/
  | halfPoolGrant (tag half : Nat) (grant : Bool)
  /-- Trembivi maps, unmaps or remaps pages and invalidates cached translations. (R200) -/
  | mappingService (tag ctx : Nat) (va : Word) (writes : List (Nat × Word))
  /-- A host or management write to a register with no row of its own, such as RAMPT, the trip threshold or the domain access limit. (R4) -/
  | registerWrite (r : HostReg) (v : Word)
  /-- A host command moves the module between active, idle-clocked, clock-stopped and off. (R392) -/
  | moduleStateCommand (m : ModuleState)
  /-- The host sets a die's operating point and the die starts relocking its PLL. (R393) -/
  | operatingPointSet (die : Nat) (p : BitVec 3)
  /-- A die's 2,000-tick relock ends and its seam FIFOs accept flits again. (R394) -/
  | relockComplete (die : Nat)
  /-- The host sets a die's throttle step HSTEP. (R397) -/
  | hostStepSet (die : Nat) (k : BitVec 3)
  /-- A sensor passes the trip threshold and the module enters clock-stopped with a mailbox event. (R395) -/
  | thermalTrip (die sensor : Nat) (reading : Word)
  /-- A command stops a core from selecting further firings, at once or before a named handler. (R409) -/
  | debugStop (core : Nat) (before : Option (BitVec 6))
  /-- The host asserts freeze, stopping every clock on the module. (R410) -/
  | freeze
  /-- The IEEE 1149.1 BYPASS instruction. (R410) -/
  | bypass
  /-- The IEEE 1149.1 SAMPLE/PRELOAD instruction. (R410) -/
  | samplePreload
  /-- The IEEE 1149.1 EXTEST instruction. (R410) -/
  | extest
  /-- The IEEE 1149.1 IDCODE instruction returning stepping, part and manufacturer. (R410) -/
  | idcode
  /-- The host writes a submission index to a VF doorbell, holding it in order. (R414) -/
  | doorbell (tag : Nat) (i : BitVec 8)
  /-- A held doorbell's descriptor is copied into the launch queue or refused once room and reservations allow. (R414) -/
  | doorbellCopy (tag : Nat)
  /-- The host writes TAKE to consume completions, releasing reservations. (R414) -/
  | takeWrite (tag : Nat) (v : BitVec 16)
  /-- A VF reset performs HALT.q with cause 0xF0 on every context of its partition and clears its areas. (R415) -/
  | functionLevelReset (tag : Nat)
  /-- A welt port whose lane fails or retries are exhausted goes down. (R416) -/
  | weltPortDown (port : Nat)
  /-- A UDP launch packet is checked against the launch table and queued or silently dropped. (R418) -/
  | launchPacket (payload : BitVec 768)
  /-- A block arrives at a port's block queue and is delivered in index order, held or discarded. (R419) -/
  | blockArrival (port : Nat) (stream : BitVec 16) (index : BitVec 32) (scale : Byte) (block : Vec)
  /-- The management complex starts from ROM and begins the network boot. (R420) -/
  | powerOn
  /-- The DHCP step on Ethernet port 0 obtains an address or fails. (R420) -/
  | dhcpLease (ok : Bool)
  /-- The HTTPS fetch of the image ends and the key hash and signature are verified. (R420) -/
  | imageFetchComplete (image : FetchResult)
  /-- The back-off wait after a boot failure expires and the boot restarts from DHCP. (R420) -/
  | bootRetryExpire
  /-- The window of a stalled ALIGN elapses and every slot stalled at it is released with s[D] := 0. (R136) -/
  | alignWindowElapsed (core slot : Nat)
  /-- The initialising phase of boot ends, moving BOOTSTAT to PHASE 5 ready or recording CODE 6 memory training failed and restarting. (R420) -/
  | memoryTrainingComplete (ok : Bool)
  /-- The management complex creates a context, writing its descriptor, key and save areas and moving STATE from 0 (or 4) to 1 with the PASS rule of R352. (R351) -/
  | contextCreation (tag ctx : Nat) (d : NewContext)
  /-- Trembivi's gateway service binds a block stream to a gateway core, channel and first index on the supervisor's request. (R419) -/
  | blockStreamBinding (port : Nat) (stream : BitVec 16) (core chan : Nat) (first : BitVec 32)
  deriving DecidableEq, Repr

end Sys2Proof
end

