-- ==== Sys2Proof/Machine/Forms.lean ====
section
/-!
DEFINITION. The encoding tables of the spec, one line per instruction form: its OP, the fields its entry uses, and the values its
entry allows in them (R22, R28, R29 and the encoding table of each chapter). WellFormed, the decoder and the encoder read them.
-/
namespace Sys2Proof.Machine

/-- Which register fields an instruction's entry uses; an unused field is reserved (R28). In format V the field `e` stands for S. -/
structure Used where
  d : Bool
  a : Bool
  b : Bool
  c : Bool
  e : Bool
  deriving DecidableEq, Repr

/-- The form of an instruction: OP, the used fields, and whether every used field holds a value its entry defines. -/
inductive Form where
  | a (op : Byte) (u : Used) (ok : Bool) (f : FmtA)
  | b (op : Byte) (u : Used) (ok : Bool) (f : FmtB)
  | v (op : Byte) (u : Used) (ok : Bool) (f : FmtV)
  | e (op : Byte) (u : Used) (ok : Bool) (f : FmtE)
  | fmt (f : FmtF)
  | rep (f : FmtR)
  | event
  deriving DecidableEq, Repr

/-- No function, no modifier, no immediate. -/
def a0 (f : FmtA) : Bool := f.md == 0 && f.imm == 0
def b0 (f : FmtB) : Bool := f.off == 0 && f.hint == 0
def v0 (f : FmtV) : Bool := f.fn == 0 && f.ty == 0 && f.rnd == 0 && !f.p && f.imm == 0

/-- MOD of the scalar groups: bit 5 is QA, bit 4 is QD; a queue number is below 8 (R90, R97). -/
def queueFields (f : FmtA) : Bool := (!f.md.getLsbD 5 || f.a.ult 8) && (!f.md.getLsbD 4 || f.d.ult 8)
def queueMod (f : FmtA) : Bool := (f.md &&& 15) == 0 && queueFields f

/-- The position and length of EXTB and INSB (R100). -/
def bitField (imm : BitVec 48) : Bool :=
  (imm &&& 0x3F3F) == imm && (imm.extractLsb' 0 6).toNat + (imm.extractLsb' 8 6).toNat + 1 ≤ 64

/-- f16, bf16, f32, f64 (R108). -/
def fpType (t : BitVec 6) : Bool := (9#6).ule t && t.ule 12
/-- f16, bf16, f32 (R109). -/
def fpType3 (t : BitVec 6) : Bool := (9#6).ule t && t.ule 11
/-- The type codes of FCVT (R111). -/
def cvtType (t : BitVec 6) : Bool := (1#6).ule t && t.ule 12
/-- MOD of a rounding instruction of the scalar floating-point group (R108). -/
def fpMod (f : FmtA) : Bool := (f.md &&& 7).ule 4 && (f.md &&& 8) == 0 && queueFields f
def fpModExact (f : FmtA) : Bool := (f.md &&& 15) == 0 && queueFields f

def storeType (t : BitVec 6) : Bool := (5#6).ule t && t.ule 8
/-- MOD[3] is REL; MOD[5:4] must be zero (R187). -/
def relMod (m : BitVec 6) : Bool := (8#6).ule m && m.ult 16
def queueOut (q : BitVec 6) : Bool := (4#6).ule q && q.ule 7
/-- i32, i64, n32, n64 (R190). -/
def atomicType (t : BitVec 6) : Bool := t == 3 || t == 4 || t == 7 || t == 8
/-- The buffer index and count of CBTAKE and CBGIVE (R194). -/
def bufCount (f : FmtA) : Bool := f.imm.ult 0x10000 && (f.b == 0 || f.imm.ult 16)
/-- N of SEND and the registers it reads (R138). -/
def sendCount (f : FmtA) : Bool :=
  f.imm.ule 8 && (f.imm != 0 || f.b == 0) && (f.imm == 0 || f.b.toNat + f.imm.toNat ≤ 64)
/-- Channel literal of CHPOP.ch: 1..62 (R140). -/
def popChan (c : BitVec 6) : Bool := c != 0 && c != 63

/-- The control-register numbers of R95. -/
def ctlChan (n : BitVec 48) : Bool := (0x140#48).ule n && n.ule 0x17F
def ctlListed (n : BitVec 48) : Bool :=
  n.ule 7 || ((0x10#48).ule n && n.ule 0x14) || n == 0x18 || ((0x20#48).ule n && n.ule 0x23)
    || ((0x100#48).ule n && n.ule 0x11F) || ctlChan n

/-- Type sets of format V (R154). -/
def tyAny (_ : BitVec 4) : Bool := true
def tyI (t : BitVec 4) : Bool := (1#4).ule t && t.ule 8
def tyF (t : BitVec 4) : Bool := (9#4).ule t && t.ule 12
def tyG (t : BitVec 4) : Bool := (9#4).ule t && t.ule 11
def tyIF (t : BitVec 4) : Bool := (1#4).ule t && t.ule 12
/-- Every type but the 4-bit ones. -/
def tyWide (t : BitVec 4) : Bool := t != 0 && t != 15

/-- log2 of the width in bits of the element type (R59, R61). -/
def lgWidth (t : BitVec 4) : Nat :=
  match t.toNat with
  | 0 => 2 | 1 => 3 | 2 => 4 | 3 => 5 | 4 => 6 | 5 => 3 | 6 => 4 | 7 => 5 | 8 => 6
  | 9 => 4 | 10 => 4 | 11 => 5 | 12 => 6 | 13 => 3 | 14 => 3 | _ => 2
def tyWidth (t : BitVec 4) : Nat := 2 ^ lgWidth t
/-- Lanes of a 512-bit register (R154). -/
def lanes (t : BitVec 4) : Nat := 512 / tyWidth t

/-- FN[5] is QA and FN[4] is QD: the queue number is below 8 (R159). -/
def queueVec (f : FmtV) : Bool := (!f.fn.getLsbD 5 || f.a.ult 8) && (!f.fn.getLsbD 4 || f.d.ult 8)
/-- BS takes operand b from s[S]: VB must be zero, and without BS the field S is unused (R159). -/
def bsVec (f : FmtV) : Bool := if f.fn.getLsbD 1 then f.b == 0 else f.s == 0
/-- SAT is a reserved value with an F type (R159). -/
def satInt (f : FmtV) : Bool := !f.fn.getLsbD 0 || tyI f.ty
/-- RND is zero for an integer type; codes 0 to 3 otherwise (R159). -/
def rndF (f : FmtV) : Bool := f.rnd == 0 || tyF f.ty
/-- The shifts: with VAR the count is IMM16[5:0] below the width, VB and BS are zero (R160). -/
def shiftVec (f : FmtV) : Bool :=
  bsVec f &&
  if f.fn.getLsbD 2 then f.imm.toNat < tyWidth f.ty && f.b == 0 && !f.fn.getLsbD 1
  else f.imm == 0
/-- A lane number below L (R162). -/
def laneNo (f : FmtV) : Bool := f.imm.toNat < lanes f.ty
/-- VCVT: p below the ratio of the widths (R167). -/
def cvtPart (f : FmtV) : Bool :=
  let ws := tyWidth (f.imm.extractLsb' 0 4)
  let wd := tyWidth f.ty
  f.imm.ult 256 && (f.imm.extractLsb' 4 4).toNat < max ws wd / min ws wd
/-- The narrow types of the block instructions (R169). -/
def tyNarrow (t : BitVec 4) : Bool := t == 13 || t == 14 || t == 15 || t == 1 || t == 0
def scaleKind (imm : BitVec 16) : Bool := let k := imm.extractLsb' 4 2; k == 1 || k == 2
def blockNo (imm : BitVec 16) (t : BitVec 4) : Bool := (imm.extractLsb' 6 2).toNat < 16 / tyWidth t
def qntFields (f : FmtV) : Bool :=
  let src := f.imm.extractLsb' 0 4
  tyNarrow f.ty && tyG src && scaleKind f.imm && blockNo f.imm f.ty && f.imm.ult 256 && (src == 11 || f.b == 0)
def dqntFields (f : FmtV) : Bool :=
  let src := f.imm.extractLsb' 0 4
  tyG f.ty && tyNarrow src && scaleKind f.imm && blockNo f.imm src && f.imm.ult 512 && (f.imm.ult 256 || f.ty == 11)
def baddqFields (f : FmtV) : Bool :=
  tyNarrow f.ty && f.imm.extractLsb' 0 4 == 0 && scaleKind f.imm && blockNo f.imm f.ty && f.imm.ult 256 && f.s != 0

/-- The form of each constructor. -/
def form : Instr → Form
  | .nop f => .a 0x00 ⟨false, false, false, false, false⟩ (f.fn == 0 && a0 f) f
  | .fmt f => .fmt f
  | .rep f => .rep f
  | .br f => .b 0x10 ⟨false, true, true, false, false⟩ (f.fn.ule 6 && f.hint.ule 2) f
  | .brz f => .b 0x11 ⟨false, true, false, false, false⟩ (f.fn == 0 && f.hint.ule 2) f
  | .brzNz f => .b 0x11 ⟨false, true, false, false, false⟩ (f.fn == 1 && f.hint.ule 2) f
  | .jmp f => .b 0x12 ⟨false, false, false, false, false⟩ (f.fn == 0 && f.hint == 0) f
  | .jal f => .b 0x13 ⟨false, false, false, false, false⟩ (f.fn == 0 && f.hint == 0) f
  | .jr f => .b 0x14 ⟨false, true, false, false, false⟩ (f.fn == 0 && b0 f) f
  | .jrL f => .b 0x14 ⟨false, true, false, false, false⟩ (f.fn == 1 && b0 f) f
  | .ret f => .b 0x15 ⟨false, false, false, false, false⟩ (f.fn == 0 && b0 f) f
  | .loop f => .b 0x16 ⟨false, true, false, false, false⟩ (f.fn == 0 && f.hint.ule 2 && f.a != 0) f
  | .end_ f => .b 0x17 ⟨false, false, false, false, false⟩ (f.fn == 0 && b0 f) f
  | .align f => .b 0x18 ⟨true, false, false, false, false⟩ (f.fn == 0 && f.hint == 0 && f.off.ult 0x10000) f
  | .trap f => .b 0x19 ⟨false, false, false, false, false⟩ (f.fn == 0 && f.hint == 0) f
  | .brk f => .b 0x1A ⟨false, false, false, false, false⟩ (f.fn == 0 && f.hint == 0) f
  | .add f => .a 0x20 ⟨true, true, true, false, false⟩ (f.fn == 0 && f.imm == 0 && queueMod f) f
  | .addImm f => .a 0x20 ⟨true, true, false, false, false⟩ (f.fn == 1 && queueMod f) f
  | .addi f => .a 0x21 ⟨true, true, true, false, false⟩ (f.fn == 0 && queueMod f) f
  | .sub f => .a 0x22 ⟨true, true, true, false, false⟩ (f.fn == 0 && f.imm == 0 && queueMod f) f
  | .subImm f => .a 0x22 ⟨true, true, false, false, false⟩ (f.fn == 1 && queueMod f) f
  | .mul f => .a 0x23 ⟨true, true, true, false, false⟩ (f.fn == 0 && f.imm == 0 && queueMod f) f
  | .mulImm f => .a 0x23 ⟨true, true, false, false, false⟩ (f.fn == 1 && queueMod f) f
  | .mulh f => .a 0x24 ⟨true, true, true, false, false⟩ (f.fn == 0 && f.imm == 0 && queueMod f) f
  | .mulhImm f => .a 0x24 ⟨true, true, false, false, false⟩ (f.fn == 1 && queueMod f) f
  | .mulhn f => .a 0x25 ⟨true, true, true, false, false⟩ (f.fn == 0 && f.imm == 0 && queueMod f) f
  | .mulhnImm f => .a 0x25 ⟨true, true, false, false, false⟩ (f.fn == 1 && queueMod f) f
  | .div f => .a 0x26 ⟨true, true, true, false, false⟩ (f.fn == 0 && f.imm == 0 && queueMod f) f
  | .divImm f => .a 0x26 ⟨true, true, false, false, false⟩ (f.fn == 1 && queueMod f) f
  | .divn f => .a 0x27 ⟨true, true, true, false, false⟩ (f.fn == 0 && f.imm == 0 && queueMod f) f
  | .divnImm f => .a 0x27 ⟨true, true, false, false, false⟩ (f.fn == 1 && queueMod f) f
  | .rem f => .a 0x28 ⟨true, true, true, false, false⟩ (f.fn == 0 && f.imm == 0 && queueMod f) f
  | .remImm f => .a 0x28 ⟨true, true, false, false, false⟩ (f.fn == 1 && queueMod f) f
  | .remn f => .a 0x29 ⟨true, true, true, false, false⟩ (f.fn == 0 && f.imm == 0 && queueMod f) f
  | .remnImm f => .a 0x29 ⟨true, true, false, false, false⟩ (f.fn == 1 && queueMod f) f
  | .and f => .a 0x2A ⟨true, true, true, false, false⟩ (f.fn == 0 && f.imm == 0 && queueMod f) f
  | .andImm f => .a 0x2A ⟨true, true, false, false, false⟩ (f.fn == 1 && queueMod f) f
  | .or f => .a 0x2B ⟨true, true, true, false, false⟩ (f.fn == 0 && f.imm == 0 && queueMod f) f
  | .orImm f => .a 0x2B ⟨true, true, false, false, false⟩ (f.fn == 1 && queueMod f) f
  | .xor f => .a 0x2C ⟨true, true, true, false, false⟩ (f.fn == 0 && f.imm == 0 && queueMod f) f
  | .xorImm f => .a 0x2C ⟨true, true, false, false, false⟩ (f.fn == 1 && queueMod f) f
  | .andn f => .a 0x2D ⟨true, true, true, false, false⟩ (f.fn == 0 && f.imm == 0 && queueMod f) f
  | .andnImm f => .a 0x2D ⟨true, true, false, false, false⟩ (f.fn == 1 && queueMod f) f
  | .shl f => .a 0x2E ⟨true, true, true, false, false⟩ (f.fn == 0 && f.imm == 0 && queueMod f) f
  | .shlImm f => .a 0x2E ⟨true, true, false, false, false⟩ (f.fn == 1 && queueMod f && f.imm.ult 64) f
  | .shr f => .a 0x2F ⟨true, true, true, false, false⟩ (f.fn == 0 && f.imm == 0 && queueMod f) f
  | .shrImm f => .a 0x2F ⟨true, true, false, false, false⟩ (f.fn == 1 && queueMod f && f.imm.ult 64) f
  | .sra f => .a 0x30 ⟨true, true, true, false, false⟩ (f.fn == 0 && f.imm == 0 && queueMod f) f
  | .sraImm f => .a 0x30 ⟨true, true, false, false, false⟩ (f.fn == 1 && queueMod f && f.imm.ult 64) f
  | .rotr f => .a 0x31 ⟨true, true, true, false, false⟩ (f.fn == 0 && f.imm == 0 && queueMod f) f
  | .rotrImm f => .a 0x31 ⟨true, true, false, false, false⟩ (f.fn == 1 && queueMod f && f.imm.ult 64) f
  | .clz f => .a 0x32 ⟨true, true, false, false, false⟩ (f.fn == 0 && f.imm == 0 && queueMod f) f
  | .ctz f => .a 0x33 ⟨true, true, false, false, false⟩ (f.fn == 0 && f.imm == 0 && queueMod f) f
  | .popc f => .a 0x34 ⟨true, true, false, false, false⟩ (f.fn == 0 && f.imm == 0 && queueMod f) f
  | .min f => .a 0x35 ⟨true, true, true, false, false⟩ (f.fn == 0 && f.imm == 0 && queueMod f) f
  | .minImm f => .a 0x35 ⟨true, true, false, false, false⟩ (f.fn == 1 && queueMod f) f
  | .max f => .a 0x36 ⟨true, true, true, false, false⟩ (f.fn == 0 && f.imm == 0 && queueMod f) f
  | .maxImm f => .a 0x36 ⟨true, true, false, false, false⟩ (f.fn == 1 && queueMod f) f
  | .minn f => .a 0x37 ⟨true, true, true, false, false⟩ (f.fn == 0 && f.imm == 0 && queueMod f) f
  | .minnImm f => .a 0x37 ⟨true, true, false, false, false⟩ (f.fn == 1 && queueMod f) f
  | .maxn f => .a 0x38 ⟨true, true, true, false, false⟩ (f.fn == 0 && f.imm == 0 && queueMod f) f
  | .maxnImm f => .a 0x38 ⟨true, true, false, false, false⟩ (f.fn == 1 && queueMod f) f
  | .slt f => .a 0x39 ⟨true, true, true, false, false⟩ (f.fn == 0 && f.imm == 0 && queueMod f) f
  | .sltImm f => .a 0x39 ⟨true, true, false, false, false⟩ (f.fn == 1 && queueMod f) f
  | .sltn f => .a 0x3A ⟨true, true, true, false, false⟩ (f.fn == 0 && f.imm == 0 && queueMod f) f
  | .sltnImm f => .a 0x3A ⟨true, true, false, false, false⟩ (f.fn == 1 && queueMod f) f
  | .sel f => .a 0x3B ⟨true, true, true, true, false⟩ (f.fn == 0 && f.imm == 0 && queueMod f) f
  | .li f => .a 0x3C ⟨true, false, false, false, false⟩ (f.fn == 0 && queueMod f) f
  | .lih f => .a 0x3D ⟨true, true, false, false, false⟩ (f.fn == 0 && f.imm.ult 0x10000 && queueMod f) f
  | .extbN64 f => .a 0x3E ⟨true, true, false, false, false⟩ (f.fn == 0 && bitField f.imm && queueMod f) f
  | .extbI64 f => .a 0x3E ⟨true, true, false, false, false⟩ (f.fn == 1 && bitField f.imm && queueMod f) f
  | .insb f => .a 0x3F ⟨true, true, true, false, false⟩ (f.fn == 0 && bitField f.imm && queueMod f) f
  | .madr f => .a 0x40 ⟨true, true, true, false, false⟩ (f.fn.ule 2 && f.md == 0) f
  | .madrPhys f => .a 0x40 ⟨true, true, true, false, false⟩ ((f.fn == 4 || f.fn == 5 || f.fn == 6) && f.md == 0) f
  | .radr f => .a 0x41 ⟨true, true, true, true, false⟩ (f.fn.ule 2 && f.md == 0) f
  | .lcor f => .a 0x42 ⟨true, true, false, false, false⟩ (f.fn == 0 && a0 f) f
  | .lcorLog f => .a 0x42 ⟨true, true, false, false, false⟩ (f.fn == 1 && a0 f) f
  | .whoLcore f => .a 0x43 ⟨true, false, false, false, false⟩ (f.fn == 0 && a0 f) f
  | .whoCoreword f => .a 0x43 ⟨true, false, false, false, false⟩ (f.fn == 1 && a0 f) f
  | .whoPlace f => .a 0x43 ⟨true, false, false, false, false⟩ (f.fn == 2 && a0 f) f
  | .whoNcores f => .a 0x43 ⟨true, false, false, false, false⟩ (f.fn == 3 && a0 f) f
  | .whoStage f => .a 0x43 ⟨true, false, false, false, false⟩ (f.fn == 4 && a0 f) f
  | .whoSlot f => .a 0x43 ⟨true, false, false, false, false⟩ (f.fn == 5 && a0 f) f
  | .phash f => .a 0x44 ⟨true, true, true, false, false⟩ (f.fn == 0 && a0 f) f
  | .phashPlace f => .a 0x44 ⟨true, true, true, false, false⟩ (f.fn == 1 && a0 f) f
  | .fadd f => .a 0x48 ⟨true, true, true, false, false⟩ (fpType f.fn && f.imm == 0 && fpMod f) f
  | .fsub f => .a 0x49 ⟨true, true, true, false, false⟩ (fpType f.fn && f.imm == 0 && fpMod f) f
  | .fmul f => .a 0x4A ⟨true, true, true, false, false⟩ (fpType f.fn && f.imm == 0 && fpMod f) f
  | .fma f => .a 0x4B ⟨true, true, true, true, false⟩ (fpType f.fn && f.imm == 0 && fpMod f) f
  | .fdiv f => .a 0x4C ⟨true, true, true, false, false⟩ (fpType f.fn && f.imm == 0 && fpMod f) f
  | .fsqrt f => .a 0x4D ⟨true, true, false, false, false⟩ (fpType f.fn && f.imm == 0 && fpMod f) f
  | .fmin f => .a 0x4E ⟨true, true, true, false, false⟩ (fpType f.fn && f.imm == 0 && fpModExact f) f
  | .fmax f => .a 0x4F ⟨true, true, true, false, false⟩ (fpType f.fn && f.imm == 0 && fpModExact f) f
  | .fcmp f => .a 0x50 ⟨true, true, true, false, false⟩ (fpType f.fn && f.imm == 0 && fpModExact f) f
  | .fcls f => .a 0x51 ⟨true, true, false, false, false⟩ (fpType f.fn && f.imm == 0 && fpModExact f) f
  | .fcvt f => .a 0x52 ⟨true, true, false, true, false⟩ (cvtType f.fn && cvtType f.c && f.imm == 0 && fpMod f) f
  | .fexp2 f => .a 0x53 ⟨true, true, false, false, false⟩ (fpType3 f.fn && f.imm == 0 && fpMod f) f
  | .flog2 f => .a 0x54 ⟨true, true, false, false, false⟩ (fpType3 f.fn && f.imm == 0 && fpMod f) f
  | .fmov f => .a 0x55 ⟨true, true, false, false, false⟩ (fpType f.fn && f.imm == 0 && fpModExact f) f
  | .fmovNeg f => .a 0x55 ⟨true, true, false, false, false⟩ (fpType f.fn && f.imm == 1 && fpModExact f) f
  | .fmovAbs f => .a 0x55 ⟨true, true, false, false, false⟩ (fpType f.fn && f.imm == 2 && fpModExact f) f
  | .fmovSgn f => .a 0x55 ⟨true, true, true, false, false⟩ (fpType f.fn && f.imm == 3 && fpModExact f) f
  | .ld f => .a 0x58 ⟨true, true, true, false, false⟩ ((1#6).ule f.fn && f.fn.ule 0xC && f.md.ult 8) f
  | .st f => .a 0x59 ⟨false, true, true, true, false⟩ (storeType f.fn && f.md.ult 8) f
  | .stRel f => .a 0x59 ⟨false, true, true, true, false⟩ (storeType f.fn && relMod f.md) f
  | .ldq f => .a 0x5A ⟨true, true, true, false, false⟩ (f.fn == 0 && f.d.ult 4 && f.md.ult 8) f
  | .stq f => .a 0x5B ⟨false, true, true, true, false⟩ (f.fn == 0 && queueOut f.c && f.md.ult 8) f
  | .stqRel f => .a 0x5B ⟨false, true, true, true, false⟩ (f.fn == 0 && queueOut f.c && relMod f.md) f
  | .ldr f => .a 0x5C ⟨true, true, true, true, false⟩ (f.fn == 0 && f.d != 0 && f.d.ule 30 && f.md.ult 8) f
  | .amadd f => .a 0x5D ⟨true, true, true, false, false⟩ (atomicType f.fn && f.md == 0) f
  | .ammin f => .a 0x5E ⟨true, true, true, false, false⟩ (atomicType f.fn && f.md == 0) f
  | .ammax f => .a 0x5F ⟨true, true, true, false, false⟩ (atomicType f.fn && f.md == 0) f
  | .amswp f => .a 0x60 ⟨true, true, true, false, false⟩ (atomicType f.fn && f.md == 0) f
  | .amcas f => .a 0x61 ⟨true, true, true, true, false⟩ (atomicType f.fn && f.md == 0) f
  | .amdec f => .a 0x62 ⟨true, true, false, false, false⟩ (f.fn == 0 && f.md == 0) f
  | .cbcfg f => .a 0x63 ⟨true, true, false, false, false⟩ (f.fn == 0 && f.md == 0 && f.imm.ult 16) f
  | .cbcfgWin f => .a 0x63 ⟨true, true, false, false, false⟩ (f.fn == 1 && f.md == 0 && f.imm.ult 4) f
  | .cbcfgRdwin f => .a 0x63 ⟨true, false, false, false, false⟩ (f.fn == 2 && f.md == 0 && f.imm.ult 4) f
  | .cbtakeFree f => .a 0x64 ⟨true, false, true, false, false⟩ (f.fn == 0 && bufCount f && (f.md == 0 || f.md == 8)) f
  | .cbtakeFill f => .a 0x64 ⟨true, false, true, false, false⟩ (f.fn == 1 && bufCount f && (f.md == 0 || f.md == 8)) f
  | .cbgiveFill f => .a 0x65 ⟨false, false, true, false, false⟩ (f.fn == 0 && bufCount f && f.md == 0) f
  | .cbgiveFree f => .a 0x65 ⟨false, false, true, false, false⟩ (f.fn == 1 && bufCount f && f.md == 0) f
  | .cbtakeWaitServed _ _ _ => .event
  | .hand f => .a 0x68 ⟨true, true, true, true, false⟩ (f.fn == 0 && f.md == 0 && f.imm == 0) f
  | .handInit f => .a 0x68 ⟨true, true, true, false, false⟩ (f.fn == 1 && f.md == 0 && f.imm == 0) f
  | .publ f => .a 0x69 ⟨true, true, true, false, false⟩ (f.fn == 0 && f.md == 0 && f.imm == 0) f
  | .publLace f => .a 0x69 ⟨true, true, true, true, false⟩ (f.fn == 1 && f.md == 0 && f.imm == 0) f
  | .recl f => .a 0x6A ⟨true, true, false, false, false⟩ (f.fn == 0 && f.md == 0 && f.imm == 0) f
  | .reclNb f => .a 0x6A ⟨true, true, false, false, false⟩ (f.fn == 0 && f.md == 8 && f.imm == 0) f
  | .reclDrop f => .a 0x6A ⟨true, true, false, false, false⟩ (f.fn == 1 && f.md == 0 && f.imm == 0) f
  | .reclReadersDone _ => .event
  | .capq f => .a 0x6B ⟨true, true, false, false, false⟩ (f.fn == 0 && f.md == 0 && f.imm == 0) f
  | .capqHold f => .a 0x6B ⟨true, true, false, false, false⟩ (f.fn == 1 && f.md == 0 && f.imm == 0) f
  | .shad f => .a 0x6C ⟨true, true, true, false, false⟩ (f.fn == 0 && f.md == 0 && f.imm == 0) f
  | .swapm f => .a 0x6D ⟨true, true, true, false, false⟩ (f.fn == 0 && f.md == 0 && f.imm == 0) f
  | .swapmAbort f => .a 0x6D ⟨true, true, false, false, false⟩ (f.fn == 1 && f.md == 0 && f.imm == 0) f
  | .fence f => .a 0x6E ⟨true, false, false, false, false⟩ (f.fn == 0 && f.md == 0 && f.imm != 0 && f.imm.ult 128) f
  | .ftest f => .a 0x6F ⟨true, true, false, false, false⟩ (f.fn == 0 && f.md == 0 && f.imm == 0) f
  | .ftestAll f => .a 0x6F ⟨true, false, false, false, false⟩ (f.fn == 1 && f.md == 0 && f.imm == 0) f
  | .fenceTrackerComplete _ _ _ => .event
  | .send f => .a 0x70 ⟨false, true, true, false, false⟩ (f.fn == 0 && f.md == 0 && sendCount f) f
  | .sendRh f => .a 0x70 ⟨false, true, true, true, false⟩ (f.fn == 1 && f.md == 0 && sendCount f) f
  | .sendt f => .a 0x71 ⟨true, true, false, true, false⟩ (f.fn == 0 && f.md == 0 && f.d.ult 32) f
  | .sendtRh f => .a 0x71 ⟨true, true, false, true, false⟩ (f.fn == 1 && f.md == 0 && f.d.ult 32 && f.d != 0) f
  | .callat f => .a 0x72 ⟨true, true, true, true, false⟩ (f.fn == 0 && f.md == 0 && f.imm.ult 64 && f.b.ule 60) f
  | .spawn f => .a 0x73 ⟨true, true, false, true, false⟩ ((f.fn == 0 || f.fn == 2) && a0 f) f
  | .spawnAt f => .a 0x73 ⟨true, true, true, true, false⟩ ((f.fn == 1 || f.fn == 3) && a0 f) f
  | .join f => .a 0x74 ⟨true, true, true, true, false⟩ (f.fn == 0 && f.md == 0 && f.imm.ult 64) f
  | .hset f => .a 0x75 ⟨true, true, true, true, false⟩ (f.fn == 0 && f.md == 0 && f.imm.ult 64) f
  | .hsetRd f => .a 0x75 ⟨true, false, false, false, false⟩ (f.fn == 1 && f.md == 0 && f.imm.ult 192) f
  | .hmask f => .a 0x76 ⟨true, false, false, false, false⟩ (f.fn == 0 && f.md == 0 && f.imm.ult 64) f
  | .hmaskUn f => .a 0x76 ⟨true, false, false, false, false⟩ (f.fn == 1 && f.md == 0 && f.imm.ult 64) f
  | .hmaskRd f => .a 0x76 ⟨true, false, false, false, false⟩ (f.fn == 2 && f.md == 0 && f.imm.ult 64) f
  | .chcfg f => .a 0x77 ⟨true, true, false, false, false⟩ (f.fn == 0 && f.md == 0 && f.imm.ult 64) f
  | .chcnt f => .a 0x78 ⟨true, false, false, false, false⟩ (f.fn == 0 && f.md == 0 && f.imm.ult 64) f
  | .chcntFree f => .a 0x78 ⟨true, false, false, false, false⟩ (f.fn == 1 && f.md == 0 && f.imm.ult 64) f
  | .chcntHeap f => .a 0x78 ⟨true, false, false, false, false⟩ (f.fn == 2 && f.md == 0 && f.imm.ult 64) f
  | .chpop f => .a 0x79 ⟨true, true, true, false, false⟩ (f.fn == 0 && f.md.ult 32) f
  | .chpopCh f => .a 0x79 ⟨true, true, true, true, false⟩ (f.fn == 1 && f.md.ult 8 && popChan f.c) f
  | .chpopDrop f => .a 0x79 ⟨true, false, false, false, false⟩ (f.fn == 0 && (32#6).ule f.md && (f.md &&& 7) == 0 && f.imm == 0) f
  | .chpopChDrop f => .a 0x79 ⟨true, false, false, true, false⟩ (f.fn == 1 && f.md == 32 && f.imm == 0 && popChan f.c) f
  | .wait f => .e 0x7A ⟨true, true, true, true, true⟩ (f.fn == 0 && (f.mode == 0 || f.mode == 8)) f
  | .waitConditionMet _ => .event
  | .waitTimeout _ => .event
  | .dacc f => .a 0x7B ⟨true, true, false, false, false⟩ (f.fn == 0 && f.md == 0 && f.imm.ult 4) f
  | .daccClr f => .a 0x7B ⟨true, true, false, false, false⟩ (f.fn == 1 && f.md == 0 && f.imm == 0) f
  | .vld f => .v 0x80 ⟨true, false, false, false, true⟩ (tyAny f.ty && (f.fn &&& 47) == 0 && queueVec f && f.rnd == 0 && true) f
  | .vst f => .v 0x81 ⟨false, true, false, false, true⟩ (tyAny f.ty && (f.fn &&& 31) == 0 && queueVec f && f.rnd == 0 && true) f
  | .vlds f => .v 0x82 ⟨true, false, false, false, true⟩ (tyWide f.ty && (f.fn &&& 47) == 0 && queueVec f && f.rnd == 0 && true) f
  | .vsts f => .v 0x83 ⟨false, true, false, false, true⟩ (tyWide f.ty && (f.fn &&& 31) == 0 && queueVec f && f.rnd == 0 && true) f
  | .vgld f => .v 0x84 ⟨true, false, true, false, true⟩ (tyWide f.ty && (f.fn &&& 47) == 0 && queueVec f && f.rnd == 0 && f.imm.ule 6) f
  | .vsct f => .v 0x85 ⟨false, true, true, false, true⟩ (tyWide f.ty && (f.fn &&& 31) == 0 && queueVec f && f.rnd == 0 && f.imm.ule 6) f
  | .vbc f => .v 0x86 ⟨true, false, false, false, true⟩ ((f.fn &&& 47) == 0 && queueVec f && f.rnd == 0 && f.imm == 0) f
  | .vbcImm f => .v 0x86 ⟨true, false, false, false, false⟩ ((f.fn &&& 47) == 1 && queueVec f && f.rnd == 0 && (tyI f.ty || f.ty == 0)) f
  | .vbcLane f => .v 0x86 ⟨true, true, false, false, false⟩ ((f.fn &&& 47) == 4 && queueVec f && f.rnd == 0 && laneNo f) f
  | .vmvs f => .v 0x87 ⟨false, true, false, false, true⟩ (f.fn == 0 && f.rnd == 0 && !f.p && laneNo f) f
  | .vmvsPred f => .v 0x87 ⟨false, false, false, false, true⟩ (f.fn == 1 && f.rnd == 0 && !f.p && f.imm == 0 && f.ty == 0) f
  | .vins f => .v 0x88 ⟨true, false, false, false, true⟩ (f.fn == 0 && f.rnd == 0 && !f.p && laneNo f) f
  | .vadd f => .v 0x89 ⟨true, true, true, false, true⟩ (tyIF f.ty && (f.fn &&& 12) == 0 && queueVec f && rndF f && f.imm == 0 && bsVec f && satInt f) f
  | .vsub f => .v 0x8A ⟨true, true, true, false, true⟩ (tyIF f.ty && (f.fn &&& 12) == 0 && queueVec f && rndF f && f.imm == 0 && bsVec f && satInt f) f
  | .vmul f => .v 0x8B ⟨true, true, true, false, true⟩ (tyIF f.ty && (f.fn &&& 12) == 0 && queueVec f && rndF f && f.imm == 0 && bsVec f && satInt f) f
  | .vmulHi f => .v 0x8B ⟨true, true, true, false, true⟩ (tyI f.ty && (f.fn &&& 9) == 0 && queueVec f && f.rnd == 0 && f.imm == 0 && bsVec f && (f.fn &&& 4) != 0) f
  | .vfma f => .v 0x8C ⟨true, true, true, true, true⟩ (tyF f.ty && (f.fn &&& 13) == 0 && queueVec f && rndF f && f.imm == 0 && bsVec f) f
  | .vmin f => .v 0x8D ⟨true, true, true, false, true⟩ (tyIF f.ty && (f.fn &&& 13) == 0 && queueVec f && f.rnd == 0 && f.imm == 0 && bsVec f) f
  | .vmax f => .v 0x8E ⟨true, true, true, false, true⟩ (tyIF f.ty && (f.fn &&& 13) == 0 && queueVec f && f.rnd == 0 && f.imm == 0 && bsVec f) f
  | .vabs f => .v 0x8F ⟨true, true, false, false, false⟩ (tyIF f.ty && (f.fn &&& 14) == 0 && queueVec f && f.rnd == 0 && f.imm == 0 && satInt f) f
  | .vneg f => .v 0x90 ⟨true, true, false, false, false⟩ (tyIF f.ty && (f.fn &&& 14) == 0 && queueVec f && f.rnd == 0 && f.imm == 0 && satInt f) f
  | .vand f => .v 0x91 ⟨true, true, true, false, true⟩ (tyI f.ty && (f.fn &&& 13) == 0 && queueVec f && f.rnd == 0 && f.imm == 0 && bsVec f) f
  | .vor f => .v 0x92 ⟨true, true, true, false, true⟩ (tyI f.ty && (f.fn &&& 13) == 0 && queueVec f && f.rnd == 0 && f.imm == 0 && bsVec f) f
  | .vxor f => .v 0x93 ⟨true, true, true, false, true⟩ (tyI f.ty && (f.fn &&& 13) == 0 && queueVec f && f.rnd == 0 && f.imm == 0 && bsVec f) f
  | .vshl f => .v 0x94 ⟨true, true, true, false, true⟩ (tyI f.ty && (f.fn &&& 8) == 0 && queueVec f && f.rnd == 0 && true && shiftVec f) f
  | .vshr f => .v 0x95 ⟨true, true, true, false, true⟩ (tyI f.ty && (f.fn &&& 9) == 0 && queueVec f && f.rnd == 0 && true && shiftVec f) f
  | .vsra f => .v 0x96 ⟨true, true, true, false, true⟩ (tyI f.ty && (f.fn &&& 9) == 0 && queueVec f && f.rnd == 0 && true && shiftVec f) f
  | .vcmp f => .v 0x97 ⟨false, true, true, false, true⟩ (tyIF f.ty && (f.fn &&& 29) == 0 && queueVec f && f.rnd == 0 && f.imm.ult 8 && !f.p && bsVec f) f
  | .vpnot f => .v 0x98 ⟨false, false, false, false, false⟩ (v0 f) f
  | .vpop f => .v 0x99 ⟨false, false, false, false, false⟩ (v0 f) f
  | .vsel f => .v 0x9A ⟨true, true, true, false, false⟩ (f.fn == 0 && tyWide f.ty && f.rnd == 0 && f.imm == 0 && !f.p) f
  | .vcmpr f => .v 0x9F ⟨true, true, false, false, true⟩ (f.fn == 0 && tyWide f.ty && f.rnd == 0 && f.imm == 0 && !f.p) f
  | .vrsum f => .v 0x9B ⟨false, true, false, false, true⟩ (tyIF f.ty && (f.fn &&& 31) == 0 && queueVec f && rndF f && f.imm == 0) f
  | .vrmax f => .v 0x9C ⟨false, true, false, false, true⟩ (tyIF f.ty && (f.fn &&& 31) == 0 && queueVec f && f.rnd == 0 && f.imm == 0) f
  | .vrmin f => .v 0x9D ⟨false, true, false, false, true⟩ (tyIF f.ty && (f.fn &&& 31) == 0 && queueVec f && f.rnd == 0 && f.imm == 0) f
  | .vperm f => .v 0x9E ⟨true, true, true, true, false⟩ (f.fn == 0 && tyWide f.ty && f.rnd == 0 && f.imm == 0) f
  | .vexp2 f => .v 0xA0 ⟨true, true, false, false, false⟩ (tyG f.ty && (f.fn &&& 15) == 0 && queueVec f && rndF f && f.imm == 0) f
  | .vlog2 f => .v 0xA1 ⟨true, true, false, false, false⟩ (tyG f.ty && (f.fn &&& 15) == 0 && queueVec f && rndF f && f.imm == 0) f
  | .vrcp f => .v 0xA2 ⟨true, true, false, false, false⟩ (tyF f.ty && (f.fn &&& 15) == 0 && queueVec f && rndF f && f.imm == 0) f
  | .vrsq f => .v 0xA3 ⟨true, true, false, false, false⟩ (tyF f.ty && (f.fn &&& 15) == 0 && queueVec f && rndF f && f.imm == 0) f
  | .vdiv f => .v 0xA4 ⟨true, true, true, false, true⟩ (tyF f.ty && (f.fn &&& 13) == 0 && queueVec f && rndF f && f.imm == 0 && bsVec f) f
  | .vcvt f => .v 0xA5 ⟨true, true, false, false, false⟩ ((f.fn &&& 15) == 0 && queueVec f && cvtPart f) f
  | .vqnt f => .v 0xA6 ⟨true, true, true, false, true⟩ (f.fn == 0 && !f.p && qntFields f) f
  | .vdqnt f => .v 0xA7 ⟨true, true, false, false, true⟩ ((f.fn &&& 15) == 0 && queueVec f && dqntFields f) f
  | .baddq f => .v 0xA8 ⟨true, true, true, false, true⟩ (f.fn == 0 && !f.p && baddqFields f) f
  | .vcbd f => .v 0xA9 ⟨true, true, false, false, true⟩ (f.fn == 0 && f.ty == 1 && f.rnd == 0 && f.imm.ult 4) f
  | .vectorLateFault _ => .event
  | .copy f => .e 0xC0 ⟨true, true, true, true, true⟩ (f.fn == 0 && f.mode == 0 && f.imm == 0) f
  | .copyb f => .e 0xC1 ⟨true, true, true, true, true⟩ (f.fn == 0 && f.mode == 0 && f.imm == 0 && f.d != 0) f
  | .copyp f => .e 0xC2 ⟨true, true, true, true, true⟩ (f.fn == 0 && f.mode == 0 && f.imm == 0) f
  | .gath f => .e 0xC3 ⟨true, true, true, true, true⟩ (f.fn == 0 && f.mode.ult 2 && f.imm.ult 0x100000 && f.imm != 0) f
  | .cstat f => .e 0xC4 ⟨true, false, false, false, false⟩ (f.fn == 0 && f.mode == 0 && f.imm == 0) f
  | .cstatSeq f => .e 0xC4 ⟨true, true, false, false, false⟩ (f.fn == 1 && f.mode == 0 && f.imm == 0) f
  | .copyCompletion _ _ _ => .event
  | .lace f => .e 0xC8 ⟨true, true, true, true, false⟩ (f.fn == 0 && f.mode == 0 && f.imm == 0) f
  | .ltake f => .e 0xC9 ⟨true, false, false, false, false⟩ (f.fn == 0 && f.mode == 0 && f.imm.ult 16) f
  | .ltakeNb f => .e 0xC9 ⟨true, false, false, false, false⟩ (f.fn == 1 && f.mode == 0 && f.imm.ult 16) f
  | .lrel f => .e 0xCA ⟨true, false, false, false, false⟩ (f.fn == 0 && f.mode == 0 && f.imm.ult 16) f
  | .lstat f => .e 0xCB ⟨true, false, false, false, false⟩ (f.fn == 0 && f.mode == 0 && f.imm.ult 16) f
  | .lstatHold f => .e 0xCB ⟨true, false, false, false, false⟩ (f.fn == 1 && f.mode == 0 && f.imm.ult 16) f
  | .lstatTour f => .e 0xCB ⟨true, true, false, false, false⟩ (f.fn == 2 && f.mode == 0 && f.imm == 0) f
  | .laceTileRead _ _ => .event
  | .laceOutboundStart _ _ => .event
  | .laceLastByte _ _ => .event
  | .laceHoldExpire _ _ => .event
  | .laceOutboundDone _ _ => .event
  | .laceTourComplete _ _ => .event
  | .mtask f => .e 0xD0 ⟨true, true, true, true, false⟩ (f.fn == 0 && f.mode == 0 && f.imm == 0) f
  | .mqry f => .e 0xD1 ⟨true, true, false, false, false⟩ (f.fn == 0 && f.mode == 0 && f.imm == 0) f
  | .mqryHalf f => .e 0xD1 ⟨true, true, false, false, false⟩ (f.fn == 1 && f.mode == 0 && f.imm == 0) f
  | .mqryCtr f => .e 0xD1 ⟨true, true, false, false, false⟩ (f.fn == 2 && f.mode == 0 && f.imm.ule 6) f
  | .mqryNear f => .e 0xD1 ⟨true, false, false, false, false⟩ (f.fn == 3 && f.mode == 0 && f.imm.ult 4) f
  | .mcbl f => .e 0xD2 ⟨true, true, true, false, false⟩ (f.fn == 0 && f.mode == 0 && f.imm == 0) f
  | .mcblApply _ => .event
  | .dseq f => .e 0xD3 ⟨true, true, false, false, false⟩ (f.fn == 0 && f.mode == 0 && f.imm.ult 4) f
  | .dseqIdx f => .e 0xD3 ⟨true, true, false, false, false⟩ (f.fn == 1 && f.mode == 0 && f.imm.ult 4) f
  | .matrixTaskStart _ => .event
  | .matrixTaskComplete _ => .event
  | .matrixPreempt _ _ => .event
  | .halfUncorrectableError _ => .event
  | .rampEnd _ => .event
  | .pbind f => .e 0xE0 ⟨true, true, false, false, false⟩ (f.fn == 0 && f.mode == 0 && f.imm == 0) f
  | .pstg f => .e 0xE1 ⟨true, true, false, false, false⟩ (f.fn == 0 && f.mode == 0 && f.imm.ule 30 && (f.imm != 0 || f.a == 0)) f
  | .pdet f => .e 0xE2 ⟨true, true, false, false, false⟩ (f.fn == 0 && f.mode == 0 && f.imm == 0) f
  | .pqry f => .e 0xE3 ⟨true, true, false, false, false⟩ (f.fn == 0 && f.mode == 0 && f.imm == 0) f
  | .pqryTime f => .e 0xE3 ⟨true, true, false, false, false⟩ (f.fn == 1 && f.mode == 0 && f.imm == 0) f
  | .pqryEnergy f => .e 0xE3 ⟨true, true, false, false, false⟩ (f.fn == 2 && f.mode == 0 && f.imm == 0) f
  | .pqryStage f => .e 0xE3 ⟨true, true, false, false, false⟩ (f.fn == 3 && f.mode == 0 && f.imm.ult 8) f
  | .ppos f => .e 0xE4 ⟨true, true, false, false, false⟩ (f.fn == 0 && f.mode == 0 && f.imm.ult 8) f
  | .pposDone f => .e 0xE4 ⟨true, true, false, false, false⟩ (f.fn == 1 && f.mode == 0 && f.imm == 0) f
  | .govt f => .e 0xE5 ⟨true, true, true, false, false⟩ (f.fn == 0 && f.mode == 0 && f.imm.ult 8) f
  | .govtRd f => .e 0xE5 ⟨true, true, false, false, false⟩ (f.fn == 1 && f.mode == 0 && f.imm.ult 8) f
  | .sourceReaderItem _ _ _ => .event
  | .itemDelivery _ _ _ _ => .event
  | .catchupRetire _ _ => .event
  | .bindingComplete _ _ => .event
  | .governorEvaluation _ => .event
  | .governorDonorMask _ => .event
  | .bbc f => .a 0xE8 ⟨false, false, false, false, false⟩ (f.fn == 0 && f.md == 0 && f.imm.ult 0x1000000) f
  | .bbcWriteback _ _ => .event
  | .time f => .a 0xE9 ⟨true, false, false, false, false⟩ (f.fn == 0 && f.md == 0 && f.imm == 0) f
  | .timeLo f => .a 0xE9 ⟨true, false, false, false, false⟩ (f.fn == 1 && f.md == 0 && f.imm == 0) f
  | .cycl f => .a 0xEA ⟨true, false, false, false, false⟩ (f.fn == 0 && f.md == 0 && f.imm == 0) f
  | .cyclS f => .a 0xEA ⟨true, false, false, false, false⟩ (f.fn == 1 && f.md == 0 && f.imm == 0) f
  | .enrg f => .a 0xEB ⟨true, false, false, false, false⟩ (f.fn == 0 && f.md == 0 && f.imm == 0) f
  | .enrgL f => .a 0xEB ⟨true, false, false, false, false⟩ (f.fn == 1 && f.md == 0 && f.imm == 0) f
  | .thrs f => .a 0xEC ⟨true, false, false, false, false⟩ (f.fn == 0 && f.md == 0 && f.imm == 0) f
  | .pmcr f => .a 0xED ⟨true, true, false, false, false⟩ (f.fn == 0 && f.md == 0 && f.imm.ult 8) f
  | .pmcrRd f => .a 0xED ⟨true, false, false, false, false⟩ (f.fn == 1 && f.md == 0 && f.imm.ult 8) f
  | .tracMark f => .a 0xEE ⟨false, true, false, false, false⟩ (f.fn == 0 && f.md == 0 && f.imm == 0) f
  | .tracCfg f => .a 0xEE ⟨true, true, true, false, false⟩ (f.fn == 1 && f.md == 0 && f.imm == 0) f
  | .tracRd f => .a 0xEE ⟨true, false, false, false, false⟩ (f.fn == 2 && f.md == 0 && f.imm == 0) f
  | .traceFlush _ => .event
  | .traceSample _ => .event
  | .ctlr f => .a 0xF0 ⟨true, false, false, false, false⟩ (f.fn == 0 && f.md == 0 && ctlListed f.imm) f
  | .ctlw f => .a 0xF1 ⟨false, true, false, false, false⟩ (f.fn == 0 && f.md == 0 && ctlListed f.imm && f.imm != 0x21 && !ctlChan f.imm) f
  | .ctlwChancfg f => .a 0xF1 ⟨false, true, false, false, false⟩ (f.fn == 0 && f.md == 0 && ctlChan f.imm) f
  | .ctlwLctbase f => .a 0xF1 ⟨false, true, false, false, false⟩ (f.fn == 0 && f.md == 0 && f.imm == 0x21) f
  | .eret f => .a 0xF2 ⟨false, false, false, false, false⟩ (f.fn == 0 && f.md == 0 && f.imm == 0) f
  | .sysc f => .a 0xF3 ⟨false, false, false, false, false⟩ (f.fn == 0 && f.md == 0 && f.imm.ult 64) f
  | .ctxs f => .a 0xF4 ⟨true, true, true, false, false⟩ (f.fn == 0 && f.md == 0 && f.imm == 0) f
  | .ctxl f => .a 0xF5 ⟨true, true, true, false, false⟩ (f.fn == 0 && f.md == 0 && f.imm == 0) f
  | .ptag f => .a 0xF6 ⟨true, true, true, false, false⟩ (f.fn == 0 && f.md == 0 && f.imm == 0) f
  | .lctw f => .a 0xF7 ⟨true, true, true, false, false⟩ (f.fn == 0 && f.md == 0 && f.imm == 0) f
  | .gang f => .a 0xF8 ⟨true, true, true, false, false⟩ (f.fn == 0 && f.md == 0 && f.imm == 0) f
  | .gangNext f => .a 0xF8 ⟨true, false, true, false, false⟩ (f.fn == 1 && f.md == 0 && f.imm == 0) f
  | .keyi f => .a 0xF9 ⟨true, true, false, false, false⟩ (f.fn == 0 && f.md == 0 && f.imm == 0) f
  | .mhalf f => .a 0xFA ⟨true, true, true, false, false⟩ (f.fn == 0 && f.md == 0 && f.imm == 0) f
  | .mhalfRel f => .a 0xFA ⟨true, true, false, false, false⟩ (f.fn == 1 && f.md == 0 && f.imm == 0) f
  | .dlog f => .a 0xFB ⟨true, true, false, false, false⟩ (f.fn == 0 && f.md == 0 && f.imm == 0) f
  | .dlogRd f => .a 0xFB ⟨true, true, false, false, false⟩ (f.fn == 1 && f.md == 0 && f.imm == 0) f
  | .halt f => .a 0xFC ⟨true, true, true, false, false⟩ (f.fn == 0 && f.md == 0 && f.imm == 0) f
  | .haltQ f => .a 0xFC ⟨true, true, true, false, false⟩ (f.fn == 1 && f.md == 0 && f.imm == 0) f
  | .instructionFetch _ => .event
  | .messageArrival _ => .event
  | .heapReplay _ _ => .event
  | .selection _ => .event
  | .successorMessage _ => .event
  | .storePerform _ _ => .event
  | .grantProbeAnswer _ => .event
  | .remoteAccessAnswer _ _ => .event
  | .remoteAccessTimeout _ => .event
  | .pageWalkComplete _ => .event
  | .handFlip _ => .event
  | .swapmExchange _ => .event
  | .lateFaultTrap _ => .event
  | .collectorForward _ => .event
  | .slotCommandResume _ _ => .event
  | .slotCommandAbandon _ _ => .event
  | .laceslotWrite _ _ _ => .event
  | .contextDescriptorWrite _ _ _ _ => .event
  | .gangSwitch _ => .event
  | .resumeBroadcast _ => .event
  | .contextKill _ _ _ _ => .event
  | .launchPlacement _ _ => .event
  | .launchWithdraw _ => .event
  | .launchRetire _ _ => .event
  | .coreLost _ => .event
  | .counterClaim _ _ => .event
  | .counterRelease _ _ => .event
  | .halfPoolGrant _ _ _ => .event
  | .mappingService _ _ _ _ => .event
  | .registerWrite _ _ => .event
  | .moduleStateCommand _ => .event
  | .operatingPointSet _ _ => .event
  | .relockComplete _ => .event
  | .hostStepSet _ _ => .event
  | .thermalTrip _ _ _ => .event
  | .debugStop _ _ => .event
  | .freeze => .event
  | .bypass => .event
  | .samplePreload => .event
  | .extest => .event
  | .idcode => .event
  | .doorbell _ _ => .event
  | .doorbellCopy _ => .event
  | .takeWrite _ _ => .event
  | .functionLevelReset _ => .event
  | .weltPortDown _ => .event
  | .launchPacket _ => .event
  | .blockArrival _ _ _ _ _ => .event
  | .powerOn => .event
  | .dhcpLease _ => .event
  | .imageFetchComplete _ => .event
  | .bootRetryExpire => .event
  | .alignWindowElapsed _ _ => .event
  | .memoryTrainingComplete _ => .event
  | .contextCreation _ _ _ => .event
  | .blockStreamBinding _ _ _ _ _ => .event

end Sys2Proof.Machine
end

