-- ==== Sys2Proof/WellFormed.lean ====
section
/-!
DEFINITION. Well-formedness of an instruction: no unused field is non-zero and every used field holds a value its entry defines
(R28, R29). A step of a unit is no instruction of the ISA and so is not well formed here.
-/
namespace Sys2Proof

open Machine

/-- Fields that the form does not use are zero. -/
def unusedZeroA (u : Used) (f : FmtA) : Bool :=
  (u.d || f.d == 0) && (u.a || f.a == 0) && (u.b || f.b == 0) && (u.c || f.c == 0)
def unusedZeroB (u : Used) (f : FmtB) : Bool := (u.d || f.d == 0) && (u.a || f.a == 0) && (u.b || f.b == 0)
def unusedZeroV (u : Used) (f : FmtV) : Bool :=
  (u.d || f.d == 0) && (u.a || f.a == 0) && (u.b || f.b == 0) && (u.c || f.c == 0) && (u.e || f.s == 0)
def unusedZeroE (u : Used) (f : FmtE) : Bool :=
  (u.d || f.d == 0) && (u.a || f.a == 0) && (u.b || f.b == 0) && (u.c || f.c == 0) && (u.e || f.e == 0)

/-- R28, R29; for FMT the reserved codes of R50 (RND 5 to 15, TS 5 to 15). -/
def Form.wellFormed : Form → Bool
  | .a _ u ok f => ok && unusedZeroA u f
  | .b _ u ok f => ok && unusedZeroB u f
  | .v _ u ok f => ok && unusedZeroV u f
  | .e _ u ok f => ok && unusedZeroE u f
  | .fmt f => f.rnd.ule 4 && f.ts.ule 4
  | .rep _ => true
  | .event => false

def Instr.wellFormed (i : Instr) : Bool := Form.wellFormed (Machine.form i)

/-- A step of a unit (spec/95_what_each_step_holds.md), which no word encodes. -/
def Instr.isEvent (i : Instr) : Bool := Machine.form i == .event

end Sys2Proof
end

