-- ==== Sys2Proof/Machine/State.lean ====
section
/-!
DEFINITION. The state of the module as plain data: everything the manual gives the machine (INVENTORY.md, "State"), the reasons a
step can stop, and the state after reset.
-/
namespace Sys2Proof.Machine

/-- Why the machine stops. Traps, refusals by status and failed engines are next states and stand here nowhere. -/
inductive Fault where
  /-- Raised by `step` when the agenda names a core above 2303 or a slot above 4: the module has none (R10, R14). Safe. -/
  | noSuchAgent
  deriving DecidableEq, Repr

/-- Why a step has no meaning. -/
inductive Refusal where
  /-- Raised by an arm of `exec` that has no meaning yet. Safe. -/
  | notModelled (mnemonic : String)
  /-- Raised by `step` when the agenda hands a unit an instruction of the ISA, which only a stream executes. Safe. -/
  | notAnEvent
  deriving DecidableEq, Repr

/-- A program counter (R36). -/
abbrev Pc := BitVec 56

/-- How an instruction ends that does not complete: a trap with its cause and what TRAPADDR holds (`none` where the manual does not
say, log 14), the translation fault of a failed walk (R200, R370), or a state that stands as it is: the instruction waits in it, not
executed, or has set the stream itself (ERET, SYSC, END). -/
inductive Stop (σ : Type) where
  | trap (cause : Byte) (addr : Option Word)
  | walkFault (addr : Word)
  | hold (s : σ)
  deriving DecidableEq, Repr

/-- Why a stream waits in an instruction; the instruction has not completed. -/
inductive WaitKind where
  /-- a store waits for its home's answer to a probe (R208) -/
  | probe
  /-- an access waits for the answer of another core or another module (R186, R204) -/
  | remote
  /-- an access waits for a page walk (R202) -/
  | walk
  /-- HAND waits to flip, SWAPM to exchange, RECL for its readers (R211, R217, R214) -/
  | hand
  | swapm
  | recl
  /-- WAIT (R152), CBTAKE (R195) and ALIGN (R136) -/
  | wait
  | cbtake
  | align
  deriving DecidableEq, Repr

/-- A wait in progress: the instruction, its deadline (R152, R136), the answer once it is there (R186, R204), and for a fetch from
another module the line's address (R44, R201). -/
structure Wait where
  kind : WaitKind
  i : Instr
  deadline : Option Word
  reply : Option RemoteReply
  line : Option Word
  deriving DecidableEq, Repr

/-- How a late fault stands: the fault of a vector instruction on its way to its stream, while which younger vector instructions that
issue are cancelled (R174); a fault that enters at its stream's next instruction boundary (R368); one that a switch has saved, the first
event of the resumed firing (R176, R368); or a precise trap that waits for the other stream's boundary (R42). -/
inductive LateKind where
  | vector
  | due
  | saved
  | parked
  deriving DecidableEq, Repr

/-- A fault that waits for an instruction boundary (R42, R176, R348, R368), the time of its arrival, and the granule of a failed walk
(R370). -/
structure Late where
  cause : Byte
  addr : Word
  seq : BitVec 24
  kind : LateKind
  time : Word
  granule : Option Word
  deriving DecidableEq, Repr

/-- One stream of a thread slot (R41, R46, R93). -/
structure Strm where
  pc : Pc
  /-- STATUS.PL and STATUS.REPCNT; the rest of STATUS follows from the other fields (R93) -/
  pl : BitVec 2
  repcnt : Byte
  fmt : Option FmtF
  rep : Option FmtR
  pend : Option Wait
  late : List Late
  /-- the deadline of a WAIT that a trap or a switch saved as not executed (R152) -/
  deadline : Option Word
  /-- the slot's TGT bit is still to be checked: a firing's start or a trap vector (R40) -/
  entering : Bool
  /-- a line that another module refused, with the cause, until the stream traps at it (R40, R44) -/
  badLine : Option (Word × Byte)
  /-- what the instruction that waits has read already, a record or the store buffer's bytes (R225, R255, R273), and what the first of
  the places on other modules that its probe asks have answered: 0, or the cause that refuses (R251) -/
  snap : List Nat
  asked : List Byte
  /-- the line of another module that this stream has asked for a second time (R45) -/
  reread : Option Word
  deriving DecidableEq, Repr

/-- A handler-table entry with the launch number that the core holds beside it (R114, R363). -/
structure HEntry where
  hw0 : Word
  hw1 : Word
  hw2 : Word
  launch : BitVec 16
  deriving DecidableEq, Repr

/-- A message taken at selection: its input, its channel, its number and its word position in the ring (R127). -/
structure Taken where
  input : Nat
  chan : BitVec 6
  id : Nat
  pos : Nat
  deriving DecidableEq, Repr

/-- The stage instance that a core serves or a firing belongs to: its number, its stage and kind (main or catch-up), its handler,
whether the stage is pure, with its output buffer, and whether it is the last one (R19, R316, R325, R331). -/
structure Serve where
  inst : Nat
  stage : Nat
  catchUp : Bool
  hidx : BitVec 6
  pure : Bool
  ob : Nat
  last : Bool
  deriving DecidableEq, Repr

/-- A fence tracker (R231, R232): its number, its mask, and the covered work that is outstanding: store-buffer entries by number,
engine requests and tasks by sequence number, and whether the block counters are still to be written back. -/
structure Tracker where
  seq : BitVec 16
  /-- the firing that the FENCE belongs to -/
  fseq : BitVec 32
  mask : BitVec 7
  stores : List Nat
  reads : List Nat
  copies : List (BitVec 16)
  tasks : List (BitVec 16)
  laces : List (BitVec 16)
  bbc : List Nat
  deriving DecidableEq, Repr

/-- What a slot keeps of the trapping firing besides its frame while a handler runs: the outcomes that the access stream has still to
follow (R41), the late faults of both streams and their saved deadlines, of each of which the frame holds one (R96, R357; logs 12, 47). -/
structure Kept where
  resolved : List Pc
  xLate : List Late
  aLate : List Late
  xDeadline : Option Word
  aDeadline : Option Word
  deriving DecidableEq, Repr

def Kept.none : Kept := ⟨[], [], [], Option.none, Option.none⟩

/-- One thread slot (R86, R96, R364, R366). -/
structure Slot where
  /-- 0 free, 1 running, 2 suspended, 3 in a trap handler, 4 in a system-call handler (R366) -/
  st : BitVec 3
  /-- the state in which the slot was suspended, to which a resume returns it (R366, R367) -/
  susp : BitVec 3
  s : Vector Word 64
  v : Vector Vec 32
  q : Vector (List Vec) 8
  /-- the predicate stack, top first (R155) -/
  preds : List Word
  x : Strm
  a : Strm
  /-- control-flow outcomes of the execute stream that the access stream has not followed yet (R41) -/
  resolved : List Pc
  /-- what a handler's entry found, for its return -/
  outer : Kept
  /-- words of the slot's view that have been stored and that its depths, fill counts and valid flags do not cover yet (R350) -/
  view : List (Nat × Word)
  /-- scalar registers whose writing instruction a vector fault has cancelled, until its trap (R174) -/
  lost : Word
  trapCause : Byte
  trapPc : Pc
  trapAddr : Word
  trapSeq : BitVec 24
  firing : Word
  path : BitVec 32
  child : Byte
  item : BitVec 40
  /-- the stage firing has emitted its item, to the bindings with these numbers, the owner first (R332, R335) -/
  emitted : Option (List Nat)
  /-- the scoreboard: bit n for s[n] (R88) -/
  board : Word
  taken : List Taken
  /-- the handler entry as it stood at the selection (R140) -/
  entry : HEntry
  launch : BitVec 16
  trackers : List Tracker
  fenceNo : BitVec 16
  /-- TIMEBASE at the firing's start, and the delay-account entries its run time is charged to (R134) -/
  started : Word
  charges : List Nat
  /-- successor handles of the packet (R128) -/
  succ : List Word
  /-- the stage instance of a stage firing (R316, R331) -/
  stageOf : Option Serve
  deriving DecidableEq, Repr

def Strm.reset : Strm := ⟨0, 0, 0, none, none, none, [], none, false, none, [], [], none⟩
def HEntry.zero : HEntry := ⟨0, 0, 0, 0⟩

/-- A free slot (R86, R364). Log 2 (DESIGN CHOICE: no value is given for the registers before any firing). -/
def Slot.reset : Slot where
  st := 0
  susp := 0
  s := Vector.replicate 64 0
  v := Vector.replicate 32 0
  q := Vector.replicate 8 []
  preds := []
  x := Strm.reset
  a := Strm.reset
  resolved := []
  outer := Kept.none
  view := []
  lost := 0
  trapCause := 0
  trapPc := 0
  trapAddr := 0
  trapSeq := 0
  firing := 0
  path := 0
  child := 0
  item := 0
  emitted := none
  board := 0
  taken := []
  entry := HEntry.zero
  launch := 0
  trackers := []
  fenceNo := 0
  started := 0
  charges := []
  succ := []
  stageOf := none

/-- A message that holds space in a ring: its number, its first word's place in the ring, its words, its arrival time, whether a
firing has taken it, and whether its space has been given back while an older message still holds space (R117, R127). -/
structure RingMsg where
  id : Nat
  pos : Nat
  len : Nat
  arrival : Word
  taken : Bool
  freed : Bool
  deriving DecidableEq, Repr

/-- A ring: its write position in words and the messages that hold space, in ring order (R117). -/
structure Ring where
  w : Nat
  msgs : List RingMsg
  deriving DecidableEq, Repr

/-- A message in the overflow heap (R130). -/
structure HeapMsg where
  chan : BitVec 6
  words : List Word
  arrival : Word
  deriving DecidableEq, Repr

/-- A delay account (R133). -/
structure Account where
  msgs : Word
  transit : Word
  queue : Word
  run : Word
  deriving DecidableEq, Repr

/-- The channel unit of a core (R114, R117, R125, R130, R133). `cfg` holds EN, CAP and BASE; COUNT and HEAP follow from the rings. -/
structure Channels where
  cfg : Vector Word 64
  rings : NMap Ring
  heap : List HeapMsg
  nextId : Nat
  handlers : Vector HEntry 64
  /-- entries in the order of their last firings' starts, the latest first (R123) -/
  fired : List Nat
  accounts : NMap Account
  deriving DecidableEq, Repr

/-- A circular buffer (R192). -/
structure CBuf where
  fill : BitVec 12
  free : BitVec 12
  ppos : BitVec 11
  cpos : BitVec 11
  lsize : BitVec 4
  base : BitVec 14
  deriving DecidableEq, Repr

/-- A take that waits (R195): its stream's slot and stream, its buffer and side, and its count. -/
structure TakeWait where
  slot : Nat
  acc : Bool
  buf : Nat
  fill : Bool
  n : Nat
  deriving DecidableEq, Repr

/-- A store-buffer entry (R208, R224): its number, the slot and stream that stored, its line's place and the home of its page, the bytes
it holds, whether it is a release, when it was sent, and the page it lies in, for the dirty log and the report of a failure. -/
structure SBEntry where
  id : Nat
  slot : Nat
  acc : Bool
  fseq : BitVec 32
  /-- flat key of the line; for another module's line the key there -/
  line : Nat
  rkey : Nat
  module : BitVec 13
  home : Nat
  mask : Word
  data : Vec
  release : Bool
  sent : Option Word
  va : Word
  /-- the sequence number of the vector store that wrote to it, for which younger accesses of the slot wait until it has performed, and the
  address of the lowest lane that did (R166, R174) -/
  vec : Option (BitVec 16 × Word)
  deriving DecidableEq, Repr

/-- What became of an operation in the dispatch ring (R173). -/
inductive DState where
  | issued
  | completed
  | faulted
  | cancelled
  deriving DecidableEq, Repr

/-- An entry of the dispatch ring (R173). -/
structure DEntry where
  seq : BitVec 16
  pc : Pc
  word : IWord
  slot : Nat
  st : DState
  status : Byte
  /-- elements or rows written, and whether the operation was resumed (R264, R308) -/
  done : BitVec 32
  res : Bool
  deriving DecidableEq, Repr

/-- Who issued an engine request or a matrix task, where it stood, its sequence number and status register, and its firing's launch
(R249, R287, R363). -/
structure Ticket where
  slot : Nat
  acc : Bool
  fseq : BitVec 32
  pc : Pc
  seq : BitVec 16
  d : BitVec 6
  launch : BitVec 16
  deriving DecidableEq, Repr

/-- The rows of a GATH: their length, ZPAD, the index size and the list (R262, R263). -/
structure Gather where
  row : Nat
  zpad : Bool
  wide : Bool
  off : Nat
  deriving DecidableEq, Repr

/-- A copy or gather request in the command FIFO (R248, R249): `dims` are the dimensions with their strides, the fastest first (R255);
`total` elements or rows, the first `done` of them written. Beyond them `early` are those that a load may see new already, with what they
replaced and what they wrote, and `ahead` what elements not yet in turn have been read to deliver (R256). -/
structure Req where
  tk : Ticket
  ctl : Word
  src : Word
  dst : Word
  dims : List (Nat × Int × Int)
  gather : Option Gather
  total : Nat
  done : Nat
  early : List (Nat × Nat × Nat)
  ahead : List (Nat × Nat)
  resumed : Bool
  deriving DecidableEq, Repr

/-- A stop of an itinerary (R270). -/
structure TourStop where
  lcore : BitVec 12
  slot : Nat
  hold : Byte
  deriving DecidableEq, Repr

/-- A tour (R273, R274, R278): the tile's place, its size, its bytes as the home held them when it accepted the request (none for another
module's until they are read), whether they have been read, whether its status is written, and its masks, reports and end. -/
structure Tour where
  tk : Ticket
  ctl : Word
  tile : Word
  tsz : Nat
  stops : List TourStop
  data : Option Nat
  read : Bool
  told : Bool
  visited : BitVec 16
  overrun : BitVec 16
  skipped : BitVec 16
  poisoned : BitVec 16
  reports : Nat
  ended : Bool
  deriving DecidableEq, Repr

/-- An outbound copy (R276): the tour, the sending stop (none: the issuer's copy engine), the stop it goes to with its position and slot,
whether it waits, sends or has arrived, the 8-byte granules that have been sent and whether one of them was poisoned (R277), and the tile
with its poisoned granules as LREL left it, once the sender has been released. -/
inductive OutPhase where
  | waiting
  | sending
  | arrived
  deriving DecidableEq, Repr

structure Outbound where
  issuer : Nat
  seq : BitVec 16
  sender : Option (Nat × Nat)
  stop : Nat
  pos : Nat
  slot : Nat
  phase : OutPhase
  sent : Nat
  pois : Bool
  frozen : Option (Nat × List Nat)
  deriving DecidableEq, Repr

/-- A record in the queue of a half-array: a task, or the table of an MCBL (R284, R291, R309), with its place in the order of issue. -/
structure MRec where
  order : Nat
  core : Nat
  tk : Ticket
  tag : BitVec 6
  ctx : BitVec 3
  fmt : FmtF
  desc : List Word
  save : Word
  table : Option (List Word)
  /-- the task runs and was stopped at a gang switch: its state stands in its save area until the half goes on; how often it has resumed
  (R304) -/
  saved : Bool
  resumes : Nat
  deriving DecidableEq, Repr

/-- A cell: W-accumulator, sticky bit and class flags (R297, R301). -/
structure MCell where
  w : Int
  st : Bool
  pn : Bool
  pp : Bool
  pm : Bool
  deriving DecidableEq, Repr

/-- The running task of a half (R294 to R298, R304): the pieces of the B image that it has loaded (R293), and its position. -/
structure MRun where
  r : MRec
  loaded : Nat
  phase : Nat
  cls : Bool
  accd : Bool
  pidx : Nat
  kpos : Nat
  done : Nat
  eA : List Int
  eB : List Int
  /-- the anchors of the cells, which the scan fixes (R297) -/
  lams : List Int
  cells : List MCell
  deriving DecidableEq, Repr

/-- The resident B image: its key, its columns and scale columns as the bytes they hold, and whether a later task may find it (R293). -/
structure BImage where
  key : List Nat
  cols : List Nat
  scales : List Nat
  keep : Bool
  deriving DecidableEq, Repr

/-- The ramp of a half (R398), with the time from which it counts. -/
inductive Ramp where
  | quiescent
  | rising (start : Word)
  | full
  | falling (start : Word)
  deriving DecidableEq, Repr

/-- A half-array (R282, R286, R398). -/
structure Half where
  owner : Option (BitVec 6)
  ramp : Ramp
  queue : List MRec
  run : Option MRun
  image : Option BImage
  codebook : List Word
  counters : Vector Word 7
  deriving DecidableEq, Repr

/-- Log 2. -/
def Half.reset : Half := ⟨none, .quiescent, [], none, none, List.replicate 256 0, Vector.replicate 7 0⟩

/-- A stage identity (R323). -/
structure StageId where
  code : Word
  codeV : BitVec 32
  hidx : BitVec 6
  par : Word
  parV : BitVec 32
  ty : BitVec 4
  slc : BitVec 3
  deriving DecidableEq, Repr

/-- A source identity (R323). -/
structure SourceId where
  region : Word
  version : BitVec 32
  off : Nat
  len : Nat
  ty : BitVec 4
  deriving DecidableEq, Repr

/-- A stage as its binding describes it (R321, R322) and its governor word (R337). -/
structure StageDef where
  id : StageId
  pure : Bool
  ob : Nat
  chan : BitVec 6
  gov : Word
  deriving DecidableEq, Repr

/-- A source reader: the next item and the first that it does not read, where item 0 lies, and the region with its VERSION (R317,
R328). -/
structure Reader where
  next : Nat
  stop : Nat
  key : Nat
  module : BitVec 13
  rkey : Nat
  version : BitVec 32
  deriving DecidableEq, Repr

/-- An item in a holding queue: its words, and whether the source reader made it (R316, R317). -/
structure Held where
  reader : Bool
  words : List Word
  deriving DecidableEq, Repr

/-- A stage instance (R327, R332, R334): its owner's entry, its stage, the serving cores in rising logical order (number and position),
the cores that still have to mask its handler, its holding queue, one more than the highest INDEX emitted and how many items it has
emitted, whether it has failed, its binding has ended, or it drains, the first INDEX that reaches it from a shared instance (R327), and the
items in the rings of its cores, as position and message number. -/
structure Inst where
  id : Nat
  owner : Nat
  stage : Nat
  catchUp : Bool
  sd : StageDef
  last : Bool
  cores : List (Nat × Nat)
  leaving : List (Nat × Nat)
  held : List Held
  high : Nat
  count : Nat
  reader : Option Reader
  failed : Bool
  gone : Bool
  drain : Bool
  first : Nat
  items : List (Nat × Nat)
  deriving DecidableEq, Repr

/-- A binding (R324 to R336). `insts` are the instances of its stages, `cu` those of its catch-up chain; `got` the indices that its
stage L has received, `emitted` per stage one more than the highest index emitted for it, `done` the indices whose last firing ended. -/
structure Binding where
  entry : Nat
  gen : Byte
  order : Nat
  core : Nat
  tag : BitVec 6
  launch : BitVec 16
  reply : Word
  src : SourceId
  len : Nat
  stages : List StageDef
  l : Nat
  p : Nat
  parent : Option Nat
  pool : List (Nat × Nat)
  insts : List Nat
  cu : List Nat
  got : List Nat
  emitted : List Nat
  done : List Nat
  time : Word
  energy : Word
  deriving DecidableEq, Repr

/-- A context's link table (R325): its bindings and instances, the generation of each entry, and counters for the order of binding
and for instance numbers. -/
structure Links where
  binds : List Binding
  insts : List Inst
  gens : NMap Byte
  nextOrder : Nat
  nextInst : Nat
  deriving DecidableEq, Repr

def Links.reset : Links := ⟨[], [], [], 0, 0⟩

/-- The stream that sent a packet, for a late trap 0x10 (R348). -/
structure Sender where
  slot : Nat
  acc : Bool
  fseq : BitVec 32
  deriving DecidableEq, Repr

/-- A message in the mesh (R118, R120): its words with the header first. A packet that came by welt port n has `src` 2304 + n, and its
GPID as the cookie of `target` (R348). -/
structure Packet where
  src : Nat
  dst : Nat
  tag : BitVec 6
  ctx : BitVec 3
  chan : BitVec 6
  words : List Word
  target : Word
  sender : Option Sender
  deriving DecidableEq, Repr

/-- An LDR whose read is issued and not performed (R189): whether another module holds the words, which then has until the deadline
(R204), and the bytes that the store buffer held at issue (R225). -/
structure LdrReq where
  id : Nat
  slot : Nat
  acc : Bool
  fseq : BitVec 32
  target : Word
  n : Nat
  addr : Word
  away : Bool
  deadline : Word
  snap : List Nat
  deriving DecidableEq, Repr

/-- A lace slot (R265): its word, the time from which its hold counts (R271), and the position of the issuing core. -/
structure LaceSlot where
  word : Word
  since : Word
  issuer : Nat
  deriving DecidableEq, Repr

/-- A performance counter (R403): its event word and its count. -/
structure PmCtr where
  event : Word
  count : Word
  deriving DecidableEq, Repr

/-- A core: its control registers (R95, R347, R349, R364), its slots and its units. -/
structure Core where
  partTag : Word
  lctBase : Word
  trapVec : Word
  priv : Word
  stage : BitVec 16
  lost : Bool
  fseq : BitVec 32
  slots : Vector Slot 5
  ch : Channels
  cbuf : Vector CBuf 16
  takes : List TakeWait
  win : Vector Word 4
  sbuf : List SBEntry
  sbNext : Nat
  /-- the grant cache: region keys, most recently used first (R208) -/
  grants : List Nat
  dseq : BitVec 16
  ring : List DEntry
  ldrs : List LdrReq
  ldrNext : Nat
  lace : Vector LaceSlot 16
  /-- slot commands written and not yet carried out: the slot, whether it is an abandon, and when it reached the core (R366, R386) -/
  cmds : List (Nat × Bool × Word)
  /-- the message that stands at a stopped ejection port (R132) -/
  port : Option Packet
  /-- the debug stop: at once, or before a handler (R409) -/
  dbg : Option (Option (BitVec 6))
  serve : Option Serve
  reqs : List Req
  tours : List Tour
  cycles : Word
  scycles : Word
  /-- the counter bank (R403); while the management complex holds the unit the bank is the frozen shadow (R374) -/
  pm : Vector PmCtr 8
  pmLent : Bool
  /-- the management complex holds the core's trace unit (R374) -/
  traceLent : Bool
  /-- the block-counter cache, most recently used first, and the write-backs under way: number, block and count (R406) -/
  bbc : List (Nat × Nat)
  bbcOut : List (Nat × Nat × Nat)
  bbcNext : Nat
  /-- buffered trace records (R407), and the time of the last sample (R408) -/
  trace : List (List Word)
  sampledAt : Option Word
  deriving DecidableEq, Repr

def Channels.reset : Channels where
  cfg := Vector.replicate 64 0
  rings := []
  heap := []
  nextId := 0
  handlers := Vector.replicate 64 HEntry.zero
  fired := []
  accounts := []

def CBuf.reset : CBuf := ⟨0, 0, 0, 0, 0, 0⟩

/-- A core after reset (R19, R114, R117, R185, R192, R347, R349, R364). -/
def Core.reset : Core where
  partTag := 0
  lctBase := 0
  trapVec := 0
  priv := 0
  stage := 0xFFFF
  lost := false
  fseq := 0
  slots := Vector.replicate 5 Slot.reset
  ch := Channels.reset
  cbuf := Vector.replicate 16 CBuf.reset
  takes := []
  win := Vector.replicate 4 0
  sbuf := []
  sbNext := 0
  grants := []
  dseq := 0
  ring := []
  ldrs := []
  ldrNext := 0
  lace := Vector.replicate 16 ⟨0, 0, 0⟩
  cmds := []
  port := none
  dbg := none
  serve := none
  reqs := []
  tours := []
  cycles := 0
  scycles := 0
  pm := Vector.replicate 8 ⟨0, 0⟩
  pmLent := false
  traceLent := false
  bbc := []
  bbcOut := []
  bbcNext := 0
  trace := []
  sampledAt := none

/-- The states of a region (R205). -/
inductive RState where
  | unclaimed
  | priv
  | published
  | handing
  | shadowed
  deriving DecidableEq, Repr

/-- A region record (R205, R215, R222, R267, R268). The holder or owner of record is a module (0x1FFF the own one) and a logical
core; `tag` and `ctx` are the context that claimed it. -/
structure Region where
  st : RState
  size : BitVec 2
  hmod : BitVec 13
  hcore : BitVec 12
  tag : BitVec 6
  ctx : BitVec 3
  readers : BitVec 16
  version : BitVec 32
  /-- the tile grid word of a lace-once region, the tiles read, and the launch they were read in (R267, R268) -/
  lace : Option Word
  laceRead : List Nat
  laceLaunch : Option (BitVec 6 × BitVec 16)
  /-- the other region of a shadow, and this region's own page-table entry and page as SHAD found them (R216, R217) -/
  partner : Nat
  pte : Option Nat
  va : Word
  side : Bool
  dirty : Bool
  deriving DecidableEq, Repr

def Region.reset : Region := ⟨.unclaimed, 0, 0x1FFF, 0, 0, 0, 0, 0, none, [], none, 0, none, 0, false, false⟩

/-- A shadow of two regions of another module, as this module maps them: the partner's grant key, and the entry and page of each (R216,
R217). -/
structure AwayShadow where
  partner : Nat
  pte : Option Nat
  partnerPte : Option Nat
  va : Word
  partnerVa : Word
  deriving DecidableEq, Repr

/-- A page walk in progress at a station and the streams that joined it (R202). -/
structure Walk where
  tag : BitVec 6
  ctx : BitVec 3
  va : Word
  streams : List StreamId
  deriving DecidableEq, Repr

/-- A cached leaf (R202): its context, the page's base VA, its level's size and the leaf. -/
structure TlbEntry where
  tag : BitVec 6
  ctx : BitVec 3
  va : Word
  leaf : Word
  deriving DecidableEq, Repr

structure Station where
  cache : List TlbEntry
  walks : List Walk
  deriving DecidableEq, Repr

/-- A line of a cluster instruction cache (R45). -/
structure ILine where
  tag : BitVec 6
  ctx : BitVec 3
  va : Word
  line : Line
  deriving DecidableEq, Repr

/-- A successor message in the mesh (R147), with its sender's position and logical core; one that came by welt port n has `src` 2304 + n
and the GPID in `gpid` (R348). -/
structure SuccMsg where
  src : Nat
  dst : Nat
  tag : BitVec 6
  ctx : BitVec 3
  lcore : BitVec 12
  gpid : BitVec 16
  handle : Word
  result : List Word
  sender : Option Sender
  deriving DecidableEq, Repr

/-- A KIND 3 report on its way to the supervisor core, or, where it came from another module, to the channel 62 that it names (R121, R369,
R370): `granule` marks a report of a failed walk. -/
structure Report where
  src : Nat
  tag : BitVec 6
  ctx : BitVec 3
  words : List Word
  granule : Option Word
  dst : Option Nat
  deriving DecidableEq, Repr

/-- Who hears of a message that another module drops: its core and stream, and the target word or handle (R348). -/
structure WeltOrigin where
  src : Nat
  sender : Option Sender
  target : Word
  deriving DecidableEq, Repr

/-- What leaves the module by a welt port (R119, R204, R417). A message has its origin until an answer has said that it was dropped. -/
inductive WeltOut where
  | message (module : BitVec 13) (gpid : BitVec 16) (lcore : BitVec 12) (words : List Word) (origin : Option WeltOrigin)
  | successor (module : BitVec 13) (gpid : BitVec 16) (handle : Word) (result : List Word) (origin : Option WeltOrigin)
  | store (module : BitVec 13) (gpid : BitVec 16) (line : Nat) (mask : Word) (data : Vec)
  | request (module : BitVec 13) (gpid : BitVec 16) (va : Word) (i : Instr)
  /-- a block counter's write-back: its address and the count to add (R405) -/
  | blockCount (module : BitVec 13) (gpid : BitVec 16) (va : Word) (n : Nat)
  /-- the answer to a sender on another module whose message met another tag or an unknown GPID (R348) -/
  | mismatch (gpid : BitVec 16) (words : List Word)
  deriving DecidableEq, Repr

/-- A context descriptor (R351). -/
structure Ctx where
  tickets : BitVec 16
  st : BitVec 3
  pass : Word
  root : Word
  saveBase : Word
  psave : Word
  kill : List Word
  /-- DLOGBASE (R221) -/
  dlog : Word
  energy : Word
  bbcBase : Word
  /-- the trace session, and records lost that a type 6 record still has to report (R407) -/
  trace : Option (Word × Word)
  lostTrace : Nat
  deriving DecidableEq, Repr

def Ctx.reset : Ctx := ⟨0, 0, 0, 0, 0, 0, [0, 0, 0, 0], 0, 0, 0, none, 0⟩

/-- Where a launch came from: a VF's submission slot, or a launch packet (R414, R418). -/
inductive Origin where
  | host (i : Byte)
  | packet
  deriving DecidableEq, Repr

/-- A launch in the queue (R358), with its place in the order of arrival. -/
structure Launch where
  no : Nat
  prio : BitVec 2
  ctx : BitVec 3
  image : Word
  reply : Word
  origin : Origin
  deriving DecidableEq, Repr

/-- A record of a gang image at its core: handlers with their words, channels, lace slots and launch messages (R359). -/
structure GRec where
  pos : Nat
  handlers : List (BitVec 6 × Word × Word × Word)
  chans : List (BitVec 6 × Word)
  laces : List (Nat × Word)
  msgs : List (BitVec 6 × List Word)
  deriving DecidableEq, Repr

/-- The launch in placement: the records reserved, and the words of its image that are still to be read (R360, R361). -/
structure Placing where
  launch : Launch
  recs : List GRec
  rest : List Word
  deriving DecidableEq, Repr

/-- A live launch: its number, its cores and channels, and its energy account (R360, R362, R402). -/
structure Live where
  num : BitVec 16
  launch : Launch
  cores : List Nat
  chans : List (Nat × BitVec 6)
  energy : Word
  deriving DecidableEq, Repr

/-- A virtual function (R413, R414): the words of the submission slots, the doorbells written and not copied, the counts C, TAKE and of
doorbells, the completion slots, and the completions reserved for launches that are queued or live. -/
structure Vf where
  subs : NMap Word
  bells : List Byte
  c : BitVec 16
  take : BitVec 16
  count : BitVec 16
  slots : NMap Word
  pending : Nat
  deriving DecidableEq, Repr

def Vf.reset : Vf := ⟨[], [], 0, 0, 0, [], 0⟩

/-- A partition by tag (R347, R351, R358, R382, R383). -/
structure Part where
  ctxs : Vector Ctx 8
  running : Option Nat
  /-- the pending switch: its context and its time (R382) -/
  gang : Option (Nat × Word)
  /-- a context is loaded and the resume broadcast is still to come (R353) -/
  starting : Bool
  /-- the time of the governor's last evaluation (R338) -/
  evalAt : Option Word
  /-- the half pool granted and the logical halves mapped (R282, R383) -/
  pool : List Nat
  halves : NMap Nat
  /-- the dispatcher: its queue, the launch in placement, the live launches, the last number given and the count of arrivals -/
  queue : List Launch
  placing : Option Placing
  live : List Live
  lastNum : BitVec 16
  arrivals : Nat
  vf : Vf
  deriving DecidableEq, Repr

def Part.reset : Part := ⟨Vector.replicate 8 Ctx.reset, none, none, false, none, [], [], [], none, [], 0, 0, Vf.reset⟩

/-- The state of a context that does not run (R354): its cores by logical number with the cells of their local memories, its links, the
messages spilled from the mesh, its outbound copies and its halves by logical number. Times that stop with the context (the holds of lace
slots, the starts of firings) stand as spans. A spilled message stands beside the logical core whose list holds it, and keeps the positions
that it names (R355, R386). -/
structure CtxImage where
  cores : NMap Core
  mem : Memory
  bad : List Nat
  links : Links
  mesh : List (Nat × Packet)
  succs : List (Nat × SuccMsg)
  outbound : List Outbound
  halves : NMap Half
  deriving DecidableEq, Repr

/-- An entry of the launch table (R418). -/
structure LaunchEntry where
  tenant : BitVec 32
  gpid : BitVec 16
  mask : Byte
  maxPrio : BitVec 2
  key : BitVec 128
  lastSeq : Word
  refused : Nat
  deriving DecidableEq, Repr

/-- A block in a port's queue (R419). -/
structure Block where
  stream : BitVec 16
  index : BitVec 32
  scale : Byte
  data : Vec
  deriving DecidableEq, Repr

/-- A bound block stream: its port, its core and channel, and the next index (R419). -/
structure BlockStream where
  port : Nat
  stream : BitVec 16
  core : Nat
  chan : BitVec 6
  next : Nat
  deriving DecidableEq, Repr

/-- BOOTSTAT, the wait after the next failure, and the time at which a waiting boot starts again (R420). -/
structure Boot where
  code : Byte
  attempt : Byte
  phase : BitVec 4
  wait : Nat
  retry : Option Word
  deriving DecidableEq, Repr

def Boot.reset : Boot := ⟨0, 0, 0, 10 ^ 9, none⟩

/-- The instruction in the debug port's register (R410). -/
inductive Jtag where
  | bypass
  | samplePreload
  | extest
  | idcode
  deriving DecidableEq, Repr

/-- What the I/O die holds besides (R410, R416 to R420): the launch table and the packets that no entry counts, the ports that are down,
the routing table, the block queues by port with their streams and the duplicates discarded, the boot, and the debug port's instruction
with the data register that it selects. -/
structure IoDie where
  table : NMap LaunchEntry
  refused : Nat
  down : List Nat
  routes : NMap Nat
  blocks : NMap (List Block)
  streams : List BlockStream
  dups : NMap Nat
  boot : Boot
  jtag : Jtag
  jtagData : Word
  deriving DecidableEq, Repr

/-- Log 2. -/
def IoDie.reset : IoDie := ⟨[], 0, [], [], [], [], [], Boot.reset, .bypass, 0⟩

/-- What moves next (log 1): a stream, a unit's own step, the reference timer, or a management command in a core's command area
with its operand values (R376). -/
inductive Act where
  | stream (t : StreamId)
  | unit (i : Instr)
  | advance (dt : Nat)
  | command (core : Nat) (i : Instr) (a b : Word)
  deriving DecidableEq, Repr

/-- Who issues the instruction that `exec` runs. -/
inductive Issuer where
  | none
  | stream (t : StreamId)
  | command (core : Nat) (a b : Word)
  deriving DecidableEq, Repr

/-- A compute die (R393, R394, R396): its operating point, the end of a relock, the fraction of a cycle left over, and its host step. -/
structure Die where
  point : BitVec 3
  relock : Option Word
  rest : Nat
  hstep : BitVec 3
  deriving DecidableEq, Repr

structure State where
  /-- the model's own: what moves next, how often the agenda was filled, how many free values were drawn, and who issues -/
  agenda : List Act
  epoch : Nat
  free : Nat
  cur : Issuer
  time : Word
  module : BitVec 13
  /-- the domain access limit in ticks (R204) -/
  limit : Word
  mem : Memory
  /-- units of memory that hold an uncorrectable error: flat keys of 8-byte granules of local memory and of 64-byte device lines -/
  bad : List Nat
  cores : NMap Core
  parts : NMap Part
  regions : NMap Region
  /-- shadows of regions of other modules, by the grant key of the region side -/
  awayShadows : NMap AwayShadow
  stations : NMap Station
  icache : NMap (List ILine)
  mesh : List Packet
  succs : List SuccMsg
  collectors : NMap (List Report)
  weltOut : List WeltOut
  dies : Vector Die 4
  rampTime : BitVec 16
  trip : Word
  mode : ModuleState
  frozen : Bool
  /-- the trip events posted in the management mailbox: die and sensor (R395) -/
  mailbox : List (Nat × Nat)
  /-- the welt ports' tables: port × 2^16 + GPID to the local tag (R348) -/
  gpids : NMap Nat
  outbound : List Outbound
  halves : NMap Half
  links : NMap Links
  /-- the status words of management commands (R376) -/
  notices : List Word
  /-- contexts that do not run, by 8 * tag + context (R354) -/
  saved : NMap CtxImage
  /-- the key slots that hold a key, each with the number of its key (R218, R219; log 8) -/
  keys : NMap Nat
  /-- STEP and METAL of DEVID (R7) -/
  stepping : BitVec 4
  metal : BitVec 4
  io : IoDie
  deriving DecidableEq, Repr

/-- The module after reset. Logs 1 to 3. -/
def State.reset : State where
  agenda := []
  epoch := 0
  free := 0
  cur := .none
  time := 0
  module := 0
  limit := 1000000
  mem := []
  bad := []
  cores := []
  parts := []
  regions := []
  awayShadows := []
  stations := []
  icache := []
  mesh := []
  succs := []
  collectors := []
  weltOut := []
  dies := Vector.replicate 4 ⟨0, none, 0, 0⟩
  rampTime := 64
  trip := 0
  mode := .active
  frozen := false
  mailbox := []
  gpids := []
  outbound := []
  halves := []
  links := []
  notices := []
  saved := []
  keys := []
  stepping := 0
  metal := 0
  io := IoDie.reset

end Sys2Proof.Machine
end

