-- ==== Sys2Proof/Config.lean ====
section
/-!
DEFINITION. The free values: constants without a body for everything that the manual leaves open. Nothing can be proved about which
value they have; each application takes the plain counters of the state.
-/
namespace Sys2Proof.Config

open Machine

/-- What moves next once the agenda is used up: the manual orders the agents only as its rules say (log 1). -/
opaque agendaAt : Nat → List Act

/-- A byte that nothing constrains (logs 8 and 12). -/
opaque freeByte : Nat → Byte

/-- A word that nothing constrains. -/
opaque freeWord : Nat → Word

/-- Elements of a copy that a load may see new before their turn (R256). -/
opaque earlyElems : Nat → List Nat

/-- Whether another module answers (log 17). -/
opaque genuine : Nat → Bool

/-- The GMAC tag of the 80 bytes of a launch packet under a key; the manual names the code and not its nonce (R418; log 9). -/
opaque gmac : BitVec 128 → BitVec 640 → BitVec 128

/-- Krovax's manufacturer code in IDCODE, which the manual does not give (R410). -/
opaque manufacturer : BitVec 11

end Sys2Proof.Config
end

