-- ==== Sys2Proof/Decode.lean ====
section
/-!
DEFINITION. Decoding of a 96-bit word (R21 to R31): total, refusing by `none` what R29 makes illegal; then the encoder, from the same
encoding tables, and the packing of fields into the formats of R23 to R27.
-/
namespace Sys2Proof

open Machine

def opOf (w : IWord) : Byte := w.extractLsb' 88 8

/-- Format A (R23). -/
def packA (op : Byte) (f : FmtA) : IWord :=
  op ++ f.fn ++ f.d ++ f.a ++ f.b ++ f.c ++ f.md ++ 0#4 ++ f.imm
def unpackA (w : IWord) : FmtA :=
  ⟨w.extractLsb' 82 6, w.extractLsb' 76 6, w.extractLsb' 70 6, w.extractLsb' 64 6, w.extractLsb' 58 6, w.extractLsb' 52 6,
    w.extractLsb' 0 48⟩
/-- The reserved bits of the format are zero (R4, R29). -/
def reservedA (w : IWord) : Bool := w.extractLsb' 48 4 == 0

/-- Format B (R24). -/
def packB (op : Byte) (f : FmtB) : IWord := op ++ f.fn ++ f.a ++ f.b ++ f.d ++ f.hint ++ 0#29 ++ f.off
def unpackB (w : IWord) : FmtB :=
  ⟨w.extractLsb' 82 6, w.extractLsb' 76 6, w.extractLsb' 70 6, w.extractLsb' 64 6, w.extractLsb' 61 3, w.extractLsb' 0 32⟩
def reservedB (w : IWord) : Bool := w.extractLsb' 32 29 == 0

/-- Format V (R25). -/
def packV (op : Byte) (f : FmtV) : IWord :=
  op ++ f.fn ++ f.d ++ f.a ++ f.b ++ f.c ++ f.s ++ f.ty ++ f.rnd ++ bit 1 f.p ++ 0#1 ++ f.imm ++ 0#32
def unpackV (w : IWord) : FmtV :=
  ⟨w.extractLsb' 82 6, w.extractLsb' 77 5, w.extractLsb' 72 5, w.extractLsb' 67 5, w.extractLsb' 62 5, w.extractLsb' 56 6,
    w.extractLsb' 52 4, w.extractLsb' 50 2, w.getLsbD 49, w.extractLsb' 32 16⟩
def reservedV (w : IWord) : Bool := w.extractLsb' 48 1 == 0 && w.extractLsb' 0 32 == 0

/-- Format E (R26). -/
def packE (op : Byte) (f : FmtE) : IWord :=
  op ++ f.fn ++ f.d ++ f.a ++ f.b ++ f.c ++ f.e ++ f.mode ++ 0#16 ++ f.imm
def unpackE (w : IWord) : FmtE :=
  ⟨w.extractLsb' 82 6, w.extractLsb' 76 6, w.extractLsb' 70 6, w.extractLsb' 64 6, w.extractLsb' 58 6, w.extractLsb' 52 6,
    w.extractLsb' 48 4, w.extractLsb' 0 32⟩
def reservedE (w : IWord) : Bool := w.extractLsb' 32 16 == 0

/-- Format P (R27). -/
def packF (f : FmtF) : IWord :=
  0x01#8 ++ f.ta ++ f.tb ++ f.tc ++ f.ts ++ f.slc ++ bit 1 f.pset ++ f.rnd ++ 0#64
def unpackF (w : IWord) : FmtF :=
  ⟨w.extractLsb' 84 4, w.extractLsb' 80 4, w.extractLsb' 76 4, w.extractLsb' 72 4, w.extractLsb' 69 3, w.getLsbD 68,
    w.extractLsb' 64 4⟩
def reservedF (w : IWord) : Bool := w.extractLsb' 0 64 == 0
def packR (f : FmtR) : IWord := 0x02#8 ++ f.count ++ f.sd ++ f.sa ++ f.sb ++ f.sc ++ 0#48
def unpackR (w : IWord) : FmtR :=
  ⟨w.extractLsb' 80 8, w.extractLsb' 72 8, w.extractLsb' 64 8, w.extractLsb' 56 8, w.extractLsb' 48 8⟩
def reservedR (w : IWord) : Bool := w.extractLsb' 0 48 == 0

/-- The constructor that a word's OP, and where several forms share it its FN and modifier fields, select (R22, R30). -/

noncomputable def classifyA (op : Byte) (f : FmtA) : Option Instr :=
  match op.toNat with
  | 0x00 => some (.nop f)
  | 0x20 => if f.fn == 0 then some (.add f) else some (.addImm f)
  | 0x21 => some (.addi f)
  | 0x22 => if f.fn == 0 then some (.sub f) else some (.subImm f)
  | 0x23 => if f.fn == 0 then some (.mul f) else some (.mulImm f)
  | 0x24 => if f.fn == 0 then some (.mulh f) else some (.mulhImm f)
  | 0x25 => if f.fn == 0 then some (.mulhn f) else some (.mulhnImm f)
  | 0x26 => if f.fn == 0 then some (.div f) else some (.divImm f)
  | 0x27 => if f.fn == 0 then some (.divn f) else some (.divnImm f)
  | 0x28 => if f.fn == 0 then some (.rem f) else some (.remImm f)
  | 0x29 => if f.fn == 0 then some (.remn f) else some (.remnImm f)
  | 0x2A => if f.fn == 0 then some (.and f) else some (.andImm f)
  | 0x2B => if f.fn == 0 then some (.or f) else some (.orImm f)
  | 0x2C => if f.fn == 0 then some (.xor f) else some (.xorImm f)
  | 0x2D => if f.fn == 0 then some (.andn f) else some (.andnImm f)
  | 0x2E => if f.fn == 0 then some (.shl f) else some (.shlImm f)
  | 0x2F => if f.fn == 0 then some (.shr f) else some (.shrImm f)
  | 0x30 => if f.fn == 0 then some (.sra f) else some (.sraImm f)
  | 0x31 => if f.fn == 0 then some (.rotr f) else some (.rotrImm f)
  | 0x32 => some (.clz f)
  | 0x33 => some (.ctz f)
  | 0x34 => some (.popc f)
  | 0x35 => if f.fn == 0 then some (.min f) else some (.minImm f)
  | 0x36 => if f.fn == 0 then some (.max f) else some (.maxImm f)
  | 0x37 => if f.fn == 0 then some (.minn f) else some (.minnImm f)
  | 0x38 => if f.fn == 0 then some (.maxn f) else some (.maxnImm f)
  | 0x39 => if f.fn == 0 then some (.slt f) else some (.sltImm f)
  | 0x3A => if f.fn == 0 then some (.sltn f) else some (.sltnImm f)
  | 0x3B => some (.sel f)
  | 0x3C => some (.li f)
  | 0x3D => some (.lih f)
  | 0x3E => if f.fn == 0 then some (.extbN64 f) else some (.extbI64 f)
  | 0x3F => some (.insb f)
  | 0x40 => if (f.fn &&& 4) == 0 then some (.madr f) else some (.madrPhys f)
  | 0x41 => some (.radr f)
  | 0x42 => if f.fn == 0 then some (.lcor f) else some (.lcorLog f)
  | 0x43 => if f.fn == 0 then some (.whoLcore f) else if f.fn == 1 then some (.whoCoreword f) else if f.fn == 2 then some (.whoPlace f) else if f.fn == 3 then some (.whoNcores f) else if f.fn == 4 then some (.whoStage f) else some (.whoSlot f)
  | 0x44 => if f.fn == 0 then some (.phash f) else some (.phashPlace f)
  | 0x48 => some (.fadd f)
  | 0x49 => some (.fsub f)
  | 0x4A => some (.fmul f)
  | 0x4B => some (.fma f)
  | 0x4C => some (.fdiv f)
  | 0x4D => some (.fsqrt f)
  | 0x4E => some (.fmin f)
  | 0x4F => some (.fmax f)
  | 0x50 => some (.fcmp f)
  | 0x51 => some (.fcls f)
  | 0x52 => some (.fcvt f)
  | 0x53 => some (.fexp2 f)
  | 0x54 => some (.flog2 f)
  | 0x55 => if f.imm == 0 then some (.fmov f) else if f.imm == 1 then some (.fmovNeg f) else if f.imm == 2 then some (.fmovAbs f) else some (.fmovSgn f)
  | 0x58 => some (.ld f)
  | 0x59 => if (f.md &&& 8) == 0 then some (.st f) else some (.stRel f)
  | 0x5A => some (.ldq f)
  | 0x5B => if (f.md &&& 8) == 0 then some (.stq f) else some (.stqRel f)
  | 0x5C => some (.ldr f)
  | 0x5D => some (.amadd f)
  | 0x5E => some (.ammin f)
  | 0x5F => some (.ammax f)
  | 0x60 => some (.amswp f)
  | 0x61 => some (.amcas f)
  | 0x62 => some (.amdec f)
  | 0x63 => if f.fn == 0 then some (.cbcfg f) else if f.fn == 1 then some (.cbcfgWin f) else some (.cbcfgRdwin f)
  | 0x64 => if f.fn == 0 then some (.cbtakeFree f) else some (.cbtakeFill f)
  | 0x65 => if f.fn == 0 then some (.cbgiveFill f) else some (.cbgiveFree f)
  | 0x68 => if f.fn == 0 then some (.hand f) else some (.handInit f)
  | 0x69 => if f.fn == 0 then some (.publ f) else some (.publLace f)
  | 0x6A => if f.fn == 0 && f.md == 0 then some (.recl f) else if f.fn == 0 then some (.reclNb f) else some (.reclDrop f)
  | 0x6B => if f.fn == 0 then some (.capq f) else some (.capqHold f)
  | 0x6C => some (.shad f)
  | 0x6D => if f.fn == 0 then some (.swapm f) else some (.swapmAbort f)
  | 0x6E => some (.fence f)
  | 0x6F => if f.fn == 0 then some (.ftest f) else some (.ftestAll f)
  | 0x70 => if f.fn == 0 then some (.send f) else some (.sendRh f)
  | 0x71 => if f.fn == 0 then some (.sendt f) else some (.sendtRh f)
  | 0x72 => some (.callat f)
  | 0x73 => if (f.fn &&& 1) == 0 then some (.spawn f) else some (.spawnAt f)
  | 0x74 => some (.join f)
  | 0x75 => if f.fn == 0 then some (.hset f) else some (.hsetRd f)
  | 0x76 => if f.fn == 0 then some (.hmask f) else if f.fn == 1 then some (.hmaskUn f) else some (.hmaskRd f)
  | 0x77 => some (.chcfg f)
  | 0x78 => if f.fn == 0 then some (.chcnt f) else if f.fn == 1 then some (.chcntFree f) else some (.chcntHeap f)
  | 0x79 => if f.fn == 0 && (f.md &&& 32) == 0 then some (.chpop f) else if (f.md &&& 32) == 0 && f.fn != 0 then some (.chpopCh f) else if f.fn == 0 then some (.chpopDrop f) else some (.chpopChDrop f)
  | 0x7B => if f.fn == 0 then some (.dacc f) else some (.daccClr f)
  | 0xE8 => some (.bbc f)
  | 0xE9 => if f.fn == 0 then some (.time f) else some (.timeLo f)
  | 0xEA => if f.fn == 0 then some (.cycl f) else some (.cyclS f)
  | 0xEB => if f.fn == 0 then some (.enrg f) else some (.enrgL f)
  | 0xEC => some (.thrs f)
  | 0xED => if f.fn == 0 then some (.pmcr f) else some (.pmcrRd f)
  | 0xEE => if f.fn == 0 then some (.tracMark f) else if f.fn == 1 then some (.tracCfg f) else some (.tracRd f)
  | 0xF0 => some (.ctlr f)
  | 0xF1 => if ctlChan f.imm then some (.ctlwChancfg f) else if f.imm == 0x21 then some (.ctlwLctbase f) else some (.ctlw f)
  | 0xF2 => some (.eret f)
  | 0xF3 => some (.sysc f)
  | 0xF4 => some (.ctxs f)
  | 0xF5 => some (.ctxl f)
  | 0xF6 => some (.ptag f)
  | 0xF7 => some (.lctw f)
  | 0xF8 => if f.fn == 0 then some (.gang f) else some (.gangNext f)
  | 0xF9 => some (.keyi f)
  | 0xFA => if f.fn == 0 then some (.mhalf f) else some (.mhalfRel f)
  | 0xFB => if f.fn == 0 then some (.dlog f) else some (.dlogRd f)
  | 0xFC => if f.fn == 0 then some (.halt f) else some (.haltQ f)
  | _ => none

noncomputable def classifyB (op : Byte) (f : FmtB) : Option Instr :=
  match op.toNat with
  | 0x10 => some (.br f)
  | 0x11 => if f.fn == 0 then some (.brz f) else some (.brzNz f)
  | 0x12 => some (.jmp f)
  | 0x13 => some (.jal f)
  | 0x14 => if f.fn == 0 then some (.jr f) else some (.jrL f)
  | 0x15 => some (.ret f)
  | 0x16 => some (.loop f)
  | 0x17 => some (.end_ f)
  | 0x18 => some (.align f)
  | 0x19 => some (.trap f)
  | 0x1A => some (.brk f)
  | _ => none

noncomputable def classifyV (op : Byte) (f : FmtV) : Option Instr :=
  match op.toNat with
  | 0x80 => some (.vld f)
  | 0x81 => some (.vst f)
  | 0x82 => some (.vlds f)
  | 0x83 => some (.vsts f)
  | 0x84 => some (.vgld f)
  | 0x85 => some (.vsct f)
  | 0x86 => if (f.fn &&& 15) == 0 then some (.vbc f) else if (f.fn &&& 15) == 1 then some (.vbcImm f) else some (.vbcLane f)
  | 0x87 => if f.fn == 0 then some (.vmvs f) else some (.vmvsPred f)
  | 0x88 => some (.vins f)
  | 0x89 => some (.vadd f)
  | 0x8A => some (.vsub f)
  | 0x8B => if (f.fn &&& 4) == 0 then some (.vmul f) else some (.vmulHi f)
  | 0x8C => some (.vfma f)
  | 0x8D => some (.vmin f)
  | 0x8E => some (.vmax f)
  | 0x8F => some (.vabs f)
  | 0x90 => some (.vneg f)
  | 0x91 => some (.vand f)
  | 0x92 => some (.vor f)
  | 0x93 => some (.vxor f)
  | 0x94 => some (.vshl f)
  | 0x95 => some (.vshr f)
  | 0x96 => some (.vsra f)
  | 0x97 => some (.vcmp f)
  | 0x98 => some (.vpnot f)
  | 0x99 => some (.vpop f)
  | 0x9A => some (.vsel f)
  | 0x9F => some (.vcmpr f)
  | 0x9B => some (.vrsum f)
  | 0x9C => some (.vrmax f)
  | 0x9D => some (.vrmin f)
  | 0x9E => some (.vperm f)
  | 0xA0 => some (.vexp2 f)
  | 0xA1 => some (.vlog2 f)
  | 0xA2 => some (.vrcp f)
  | 0xA3 => some (.vrsq f)
  | 0xA4 => some (.vdiv f)
  | 0xA5 => some (.vcvt f)
  | 0xA6 => some (.vqnt f)
  | 0xA7 => some (.vdqnt f)
  | 0xA8 => some (.baddq f)
  | 0xA9 => some (.vcbd f)
  | _ => none

noncomputable def classifyE (op : Byte) (f : FmtE) : Option Instr :=
  match op.toNat with
  | 0x7A => some (.wait f)
  | 0xC0 => some (.copy f)
  | 0xC1 => some (.copyb f)
  | 0xC2 => some (.copyp f)
  | 0xC3 => some (.gath f)
  | 0xC4 => if f.fn == 0 then some (.cstat f) else some (.cstatSeq f)
  | 0xC8 => some (.lace f)
  | 0xC9 => if f.fn == 0 then some (.ltake f) else some (.ltakeNb f)
  | 0xCA => some (.lrel f)
  | 0xCB => if f.fn == 0 then some (.lstat f) else if f.fn == 1 then some (.lstatHold f) else some (.lstatTour f)
  | 0xD0 => some (.mtask f)
  | 0xD1 => if f.fn == 0 then some (.mqry f) else if f.fn == 1 then some (.mqryHalf f) else if f.fn == 2 then some (.mqryCtr f) else some (.mqryNear f)
  | 0xD2 => some (.mcbl f)
  | 0xD3 => if f.fn == 0 then some (.dseq f) else some (.dseqIdx f)
  | 0xE0 => some (.pbind f)
  | 0xE1 => some (.pstg f)
  | 0xE2 => some (.pdet f)
  | 0xE3 => if f.fn == 0 then some (.pqry f) else if f.fn == 1 then some (.pqryTime f) else if f.fn == 2 then some (.pqryEnergy f) else some (.pqryStage f)
  | 0xE4 => if f.fn == 0 then some (.ppos f) else some (.pposDone f)
  | 0xE5 => if f.fn == 0 then some (.govt f) else some (.govtRd f)
  | _ => none

/-- The format of each OP (R22). -/
inductive Format where
  | a | b | v | e | fmt | rep | none
  deriving DecidableEq, Repr

def formatOf (op : Byte) : Format :=
  let n := op.toNat
  if n = 0 then .a
  else if n = 1 then .fmt
  else if n = 2 then .rep
  else if 0x10 ≤ n && n ≤ 0x1A then .b
  else if n = 0x7A then .e
  else if 0x20 ≤ n && n ≤ 0x7B then .a
  else if 0x80 ≤ n && n ≤ 0xA9 then .v
  else if 0xC0 ≤ n && n ≤ 0xE5 then .e
  else if 0xE8 ≤ n && n ≤ 0xFC then .a
  else .none

/-- The instruction that a word names before its values are checked (R29: an unassigned OP or a non-zero reserved bit names none). -/
noncomputable def decodeRaw (w : IWord) : Option Instr :=
  match formatOf (opOf w) with
  | .a => if reservedA w then classifyA (opOf w) (unpackA w) else Option.none
  | .b => if reservedB w then classifyB (opOf w) (unpackB w) else Option.none
  | .v => if reservedV w then classifyV (opOf w) (unpackV w) else Option.none
  | .e => if reservedE w then classifyE (opOf w) (unpackE w) else Option.none
  | .fmt => if reservedF w then some (.fmt (unpackF w)) else Option.none
  | .rep => if reservedR w then some (.rep (unpackR w)) else Option.none
  | .none => Option.none

/-- R29: what `none` stands for raises trap 0x01. -/
noncomputable def decode (w : IWord) : Option Instr :=
  match decodeRaw w with
  | some i => if i.wellFormed then some i else Option.none
  | Option.none => Option.none

/-- The 96-bit word of a form; an event of a unit has none. -/
def Form.encode : Form → Option IWord
  | .a op _ _ f => some (packA op f)
  | .b op _ _ f => some (packB op f)
  | .v op _ _ f => some (packV op f)
  | .e op _ _ f => some (packE op f)
  | .fmt f => some (packF f)
  | .rep f => some (packR f)
  | .event => Option.none

def encode (i : Instr) : Option IWord := Form.encode (form i)

/-- Slot `k` of a fetch line: bytes 12k to 12k + 11 (R32). -/
def slotWord (l : Line) (k : Nat) : IWord := l.extractLsb' (96 * k) 96
/-- Bytes 60 to 63 of a fetch line (R32). -/
def lineWord (l : Line) : BitVec 32 := l.extractLsb' 480 32

/-- The instruction in a row's word, numbered as the opcode table numbers it: byte 0 first, the bits above `nbits` zero (R3). -/
noncomputable def decodeTableWord (nbits w : Nat) : Option Instr := decode (BitVec.ofNat 96 (w % 2 ^ nbits))

end Sys2Proof
end

