-- ==== Sys2Proof/Machine/Ops.lean ====
section
/-!
DEFINITION. The named operations that every meaning uses: cores, slots, streams and registers by name, local memory, places and
partitions, rings and messages, fault reports, and taking an exception with the return from it.
-/
namespace Sys2Proof.Machine

/-! ### Parts of the state by name -/

def State.core (s : State) (p : Nat) : Core := NMap.get Core.reset s.cores p
def State.setCore (s : State) (p : Nat) (c : Core) : State := { s with cores := NMap.set s.cores p c }
def State.modCore (s : State) (p : Nat) (f : Core → Core) : State := s.setCore p (f (s.core p))

def Core.slot (c : Core) (k : Nat) : Slot := vget Slot.reset c.slots k
def Core.setSlot (c : Core) (k : Nat) (sl : Slot) : Core := { c with slots := vset c.slots k sl }

def State.slot (s : State) (t : StreamId) : Slot := (s.core t.core).slot t.slot
def State.setSlot (s : State) (t : StreamId) (sl : Slot) : State :=
  s.setCore t.core ((s.core t.core).setSlot t.slot sl)
def State.modSlot (s : State) (t : StreamId) (f : Slot → Slot) : State := s.setSlot t (f (s.slot t))

def Slot.strm (sl : Slot) (acc : Bool) : Strm := if acc then sl.a else sl.x
def Slot.setStrm (sl : Slot) (acc : Bool) (st : Strm) : Slot := if acc then { sl with a := st } else { sl with x := st }
def State.strm (s : State) (t : StreamId) : Strm := (s.slot t).strm t.acc
def State.setStrm (s : State) (t : StreamId) (st : Strm) : State := s.setSlot t ((s.slot t).setStrm t.acc st)
def State.modStrm (s : State) (t : StreamId) (f : Strm → Strm) : State := s.setStrm t (f (s.strm t))

/-- s0 reads as zero (R87). -/
def Slot.reg (sl : Slot) (r : BitVec 6) : Word := if r = 0 then 0 else vget 0 sl.s r.toNat
/-- A write to s0 is discarded (R87). -/
def Slot.setReg (sl : Slot) (r : BitVec 6) (x : Word) : Slot := if r = 0 then sl else { sl with s := vset sl.s r.toNat x }
def State.reg (s : State) (t : StreamId) (r : BitVec 6) : Word := (s.slot t).reg r
def State.setReg (s : State) (t : StreamId) (r : BitVec 6) (x : Word) : State := s.modSlot t fun sl => sl.setReg r x

def Slot.vreg (sl : Slot) (r : BitVec 5) : Vec := vget 0 sl.v r.toNat
def Slot.setVreg (sl : Slot) (r : BitVec 5) (x : Vec) : Slot := { sl with v := vset sl.v r.toNat x }
def State.vreg (s : State) (t : StreamId) (r : BitVec 5) : Vec := (s.slot t).vreg r
def State.setVreg (s : State) (t : StreamId) (r : BitVec 5) (x : Vec) : State := s.modSlot t fun sl => sl.setVreg r x

def Slot.queue (sl : Slot) (k : Nat) : List Vec := vget [] sl.q k
def Slot.setQueue (sl : Slot) (k : Nat) (q : List Vec) : Slot := { sl with q := vset sl.q k q }
/-- The oldest entry of a queue (R89). -/
def State.queueHead (s : State) (t : StreamId) (k : Nat) : Vec := ((s.slot t).queue k).headD 0
def State.pop (s : State) (t : StreamId) (k : Nat) : State := s.modSlot t fun sl => sl.setQueue k (sl.queue k).tail
/-- A queue holds eight entries; an entry pushed into a full one is discarded, which only END's drain does (R89, R128). -/
def State.push (s : State) (t : StreamId) (k : Nat) (x : Vec) : State :=
  s.modSlot t fun sl => if (sl.queue k).length < 8 then sl.setQueue k (sl.queue k ++ [x]) else sl

def State.part (s : State) (tag : Nat) : Part := NMap.get Part.reset s.parts tag
def State.setPart (s : State) (tag : Nat) (p : Part) : State := { s with parts := NMap.set s.parts tag p }
def State.modPart (s : State) (tag : Nat) (f : Part → Part) : State := s.setPart tag (f (s.part tag))
def Part.ctx (p : Part) (c : Nat) : Ctx := vget Ctx.reset p.ctxs c
def Part.setCtx (p : Part) (c : Nat) (x : Ctx) : Part := { p with ctxs := vset p.ctxs c x }
def State.ctx (s : State) (tag c : Nat) : Ctx := (s.part tag).ctx c
def State.modCtx (s : State) (tag c : Nat) (f : Ctx → Ctx) : State := s.modPart tag fun p => p.setCtx c (f (p.ctx c))

/-- A value that nothing constrains, and the counter moved past it. -/
def State.freeWord (s : State) : Word × State := (Config.freeWord s.free, { s with free := s.free + 1 })

/-- What an instruction's body answers: the state after its effect, or how it stopped. -/
abbrev Run (α : Type) := Except (Stop State) α
/-- A trap whose TRAPADDR the manual states, and one for which it states none (log 14). -/
def trapAt {α : Type} (cause : Byte) (addr : Word) : Run α := .error (.trap cause (some addr))
def trap {α : Type} (cause : Byte) : Run α := .error (.trap cause none)

/-! ### Places (R10, R12, R347, R349) -/

def posX (p : Nat) : Nat := p % 48
def posY (p : Nat) : Nat := p / 48
def posOf (x y : Nat) : Nat := 48 * y + x
def nCorePositions : Nat := 2304
def dieOf (p : Nat) : Nat := 2 * (posY p / 24) + posX p / 24
def clusterOf (p : Nat) : Nat := 12 * (posY p / 4) + posX p / 4
def indexInCluster (p : Nat) : Nat := 4 * (posY p % 4) + posX p % 4

def Core.tag (c : Core) : BitVec 6 := c.partTag.extractLsb' 0 6
def Core.isSup (c : Core) : Bool := c.partTag.getLsbD 6
def Core.valid (c : Core) : Bool := c.partTag.getLsbD 7
def Core.ctx (c : Core) : BitVec 3 := c.partTag.extractLsb' 8 3
def Core.lcore (c : Core) : BitVec 12 := c.partTag.extractLsb' 32 12
def Core.gpid (c : Core) : BitVec 16 := c.partTag.extractLsb' 48 16
/-- The partition's cores on this module (R349). -/
def Core.nCores (c : Core) : Nat := (c.lctBase.extractLsb' 52 12).toNat

/-- The position of logical core `n` in the table of core `p`; an entry with V = 0 is none (R349). -/
def State.lct (s : State) (p n : Nat) : Option Nat :=
  let c := s.core p
  if n < c.nCores then
    let w := BitVec.ofNat 32 (s.mem.readNat (lpddrKey ((c.lctBase.extractLsb' 12 28).toNat * 4096 + 4 * n)) 4)
    let x := (w.extractLsb' 0 6).toNat
    let y := (w.extractLsb' 6 6).toNat
    if w.getLsbD 31 && decide (x < 48) && decide (y < 48) then some (posOf x y) else none
  else none

/-- 0x1FFF and the own identifier both name the own module (R102, R119). -/
def State.isOwn (s : State) (m : BitVec 13) : Bool := m == 0x1FFF || m == s.module

/-- The core word of a position with a module field (R102). -/
def coreWord (p : Nat) (m : BitVec 13) : Word :=
  0#39 ++ m ++ BitVec.ofNat 6 (posY p) ++ BitVec.ofNat 6 (posX p)

/-- The cores of a partition on this module, in rising position. -/
def State.coresOf (s : State) (tag : BitVec 6) : List Nat :=
  (s.cores.filter fun e => e.2.valid && e.2.tag == tag).map (·.1)

/-- The partition's supervisor core on this module (R347). -/
def State.supOf (s : State) (tag : BitVec 6) : Option Nat :=
  (s.cores.find? fun e => e.2.valid && e.2.tag == tag && e.2.isSup).map (·.1)

/-! ### Bytes of memory with their error marks (R181, R209) -/

/-- The protected unit that a key lies in: an 8-byte granule of local memory, a 64-byte line of device memory. -/
def errUnit (k : Nat) : Nat := if 2 ^ 49 ≤ k then 8 else 64

/-- The first unit with an uncorrectable error that the bytes touch. -/
def State.badIn (s : State) (k n : Nat) : Option Nat :=
  s.bad.find? fun b => decide (b < k + n) && decide (k < b + errUnit b)

/-- Write `n` bytes; a unit that they cover whole loses its error. -/
def State.store (s : State) (k n x : Nat) : State :=
  { s with
    mem := s.mem.writeNat k n x
    bad := s.bad.filter fun b => !(decide (k ≤ b) && decide (b + errUnit b ≤ k + n)) }

/-- The bytes written are not whole units with an error: the store meets the error (R181). -/
def State.badPartial (s : State) (k n : Nat) : Option Nat :=
  s.bad.find? fun b => decide (b < k + n) && decide (k < b + errUnit b) && !(decide (k ≤ b) && decide (b + errUnit b ≤ k + n))

def State.localWord (s : State) (p off : Nat) : Word := BitVec.ofNat 64 (s.mem.readNat (localKey p off) 8)
def State.setLocalWord (s : State) (p off : Nat) (x : Word) : State := s.store (localKey p off) 8 x.toNat
/-- `n` words from a byte offset of local memory. -/
def State.localWords (s : State) (p off n : Nat) : List Word := (List.range n).map fun i => s.localWord p (off + 8 * i)
def State.setLocalWords (s : State) (p : Nat) : Nat → List Word → State
  | _, [] => s
  | off, w :: ws => State.setLocalWords (s.setLocalWord p off w) p (off + 8) ws

/-- Write free bytes: what stands there afterwards nothing constrains. -/
def State.scribble (s : State) (k n : Nat) : State :=
  { s with
    mem := iter n (fun i m => Memory.write m (k + i) (Config.freeByte (s.free + i))) s.mem
    free := s.free + n }

/-! ### Performance counters and trace records (R403, R404, R407, R408) -/

def pmEn (w : Word) : Bool := w.getLsbD 31
def pmSlots (w : Word) : BitVec 4 := w.extractLsb' 8 4
def pmCode (w : Word) : Byte := w.extractLsb' 0 8

/-- A counter counts an event of a slot; the events of stations and homes belong to no slot (R403, R404). -/
def PmCtr.sees (x : PmCtr) (code : Byte) (slot : Option Nat) : Bool :=
  pmEn x.event && pmCode x.event == code &&
    (pmSlots x.event == 0 || (0x20#8).ule code || slot.any fun k => (pmSlots x.event).getLsbD k)

/-- `n` events at a core; while the management complex holds the bank it is frozen (R374). -/
def Core.pmCount (c : Core) (code : Byte) (slot : Option Nat) (n : Nat) : Core :=
  { c with pm := if c.pmLent then c.pm else c.pm.map fun x => if x.sees code slot then { x with count := x.count + BitVec.ofNat 64 n } else x }

/-- An instruction of a stream has completed. -/
def State.completed (s : State) (t : StreamId) : State := s.modCore t.core fun c => c.pmCount 0x02 (some t.slot) 1

def traceEn (w : Word) : Bool := w.getLsbD 63
def traceP (w : Word) : Nat := (w.extractLsb' 8 8).toNat
def traceR (w : Word) : Nat := (w.extractLsb' 16 4).toNat

/-- The trace session of a core's context takes records of a type. -/
def State.traces (s : State) (p type : Nat) : Bool :=
  let c := s.core p
  !c.traceLent && ((s.ctx c.tag.toNat c.ctx.toNat).trace).any fun w => traceEn w.1 && w.2.getLsbD (type - 1)

/-- A trace record (R408). -/
def State.traceRecord (s : State) (p k type : Nat) (w3 : Word) : List Word :=
  let sl := (s.core p).slot k
  [BitVec.ofNat 4 type ++ 0#1 ++ 0#8 ++ BitVec.ofNat 3 k ++ sl.entry.hw1.extractLsb' 8 6 ++ s.module ++ BitVec.ofNat 6 (posY p) ++
      BitVec.ofNat 6 (posX p) ++ 0#17,
    s.time, 0#2 ++ sl.firing.extractLsb' 0 6 ++ sl.entry.hw0.extractLsb' 0 56, w3]

/-- A record enters the core's buffer, if the session takes its type. -/
def State.record (s : State) (p k type : Nat) (w3 : Word) : State :=
  if s.traces p type then s.modCore p fun c => { c with trace := c.trace ++ [s.traceRecord p k type w3] } else s

/-! ### Rings (R117) -/

def cfgEn (w : Word) : Bool := w.getLsbD 31
def cfgCap (w : Word) : Nat := (w.extractLsb' 16 12).toNat
def cfgBase (w : Word) : Nat := (w.extractLsb' 0 14).toNat

def Core.cfg (c : Core) (ch : Nat) : Word := vget 0 c.ch.cfg ch
def Core.chRing (c : Core) (ch : Nat) : Ring := NMap.get ⟨0, []⟩ c.ch.rings ch
def Core.setRing (c : Core) (ch : Nat) (r : Ring) : Core := { c with ch := { c.ch with rings := NMap.set c.ch.rings ch r } }

/-- COUNT: messages in the ring that no firing has taken (R117). -/
def Ring.count (r : Ring) : Nat := (r.msgs.filter fun m => !m.taken && !m.freed).length
def Ring.used (r : Ring) : Nat := (r.msgs.map (·.len)).sum
/-- The free words from the write position (R117). -/
def Core.freeWords (c : Core) (ch : Nat) : Nat :=
  if cfgEn (c.cfg ch) then cfgCap (c.cfg ch) * 8 - (c.chRing ch).used else 0
def Core.heapCount (c : Core) (ch : Nat) : Nat := (c.ch.heap.filter fun m => m.chan.toNat = ch).length

/-- CHANCFG as it reads (R117). For channel 63 COUNT is the number of messages in the heap. -/
def Core.chanCfg (c : Core) (ch : Nat) : Word :=
  let count := if ch = 63 then c.ch.heap.length else (c.chRing ch).count
  let heap := decide (ch ≠ 63) && decide (c.heapCount ch ≠ 0)
  BitVec.ofNat 16 count ++ 0#2 ++ bit 1 heap ++ (c.cfg ch).extractLsb' 0 45

/-- Space of messages at the head that has been given back becomes free (R117). -/
def dropFreed : List RingMsg → List RingMsg
  | [] => []
  | m :: ms => if m.freed then dropFreed ms else m :: ms

def Ring.give (r : Ring) (id : Nat) : Ring :=
  { r with msgs := dropFreed (r.msgs.map fun m => if m.id = id then { m with freed := true } else m) }

/-- The byte offset of word `i` of a message that starts at word `pos` of a ring. -/
def ringOff (cfg : Word) (pos i : Nat) : Nat :=
  cfgBase cfg * 64 + 8 * ((pos + i) % (max 1 (cfgCap cfg * 8)))

/-- The words of a held message, read from local memory (R117, R179). -/
def State.ringWords (s : State) (p ch : Nat) (m : RingMsg) : List Word :=
  (List.range m.len).map fun i => s.localWord p (ringOff ((s.core p).cfg ch) m.pos i)

/-- Write a message at the write position (R117). -/
def State.ringPut (s : State) (p ch : Nat) (words : List Word) (arrival : Word) : State :=
  let c := s.core p
  let r := c.chRing ch
  let cfg := c.cfg ch
  let s := iter words.length (fun i s => s.setLocalWord p (ringOff cfg r.w i) (words.getD i 0)) s
  let msg : RingMsg := ⟨c.ch.nextId, r.w, words.length, arrival, false, false⟩
  let c := c.setRing ch ⟨(r.w + words.length) % (max 1 (cfgCap cfg * 8)), r.msgs ++ [msg]⟩
  s.setCore p { c with ch := { c.ch with nextId := c.ch.nextId + 1 } }

/-! ### Messages (R118 to R120) -/

def header (time : Word) (sender : BitVec 12) (len : BitVec 5) (chan : BitVec 6) (kind : BitVec 4) (rh rem : Bool) : Word :=
  time.extractLsb' 0 32 ++ sender ++ len ++ chan ++ kind ++ bit 1 rh ++ bit 1 rem ++ 0#3

def hdrTime (h : Word) : BitVec 32 := h.extractLsb' 32 32
def hdrSender (h : Word) : BitVec 12 := h.extractLsb' 20 12
def hdrLen (h : Word) : BitVec 5 := h.extractLsb' 15 5
def hdrChan (h : Word) : BitVec 6 := h.extractLsb' 9 6
def hdrKind (h : Word) : BitVec 4 := h.extractLsb' 5 4
def hdrRh (h : Word) : Bool := h.getLsbD 4
def hdrRem (h : Word) : Bool := h.getLsbD 3

/-- A target word (R119). -/
def tgtV (t : Word) : Bool := t.getLsbD 31
def tgtChan (t : Word) : BitVec 6 := t.extractLsb' 25 6
def tgtModule (t : Word) : BitVec 13 := t.extractLsb' 12 13
def tgtCore (t : Word) : BitVec 12 := t.extractLsb' 0 12
def tgtCookie (t : Word) : BitVec 32 := t.extractLsb' 32 32
def targetWord (chan : BitVec 6) (m : BitVec 13) (l : BitVec 12) : Word := 0#32 ++ 1#1 ++ chan ++ m ++ l

/-- Put a message into the mesh (R120). -/
def State.inject (s : State) (p : Packet) : State := { s with mesh := s.mesh ++ [p] }

/-- The firing number of a slot (R94). -/
def Slot.fseq (sl : Slot) : BitVec 32 := sl.firing.extractLsb' 32 32

/-- The stream that sends, for a late trap 0x10 (R348). -/
def State.sender (s : State) (t : StreamId) : Option Sender := some ⟨t.slot, t.acc, (s.slot t).fseq⟩

/-- R138: what SEND, LDR and HAND check of a target word. -/
def State.checkTarget (s : State) (t : StreamId) (w : Word) : Run Unit :=
  if !tgtV w || tgtChan w == 0 || tgtChan w == 63 then trap 0x04
  else if tgtChan w == 62 && (s.strm t).pl == 0 then trap 0x0D
  else if s.isOwn (tgtModule w) && (s.lct t.core (tgtCore w).toNat).isNone then trap 0x04
  else .ok ()

/-- R421: a REPLY is well formed; with V = 0 it names nothing. A number whose entry has V = 0 is refused as N or more is (R349). -/
def State.replyOk (s : State) (p : Nat) (w : Word) : Bool :=
  !tgtV w ||
    (tgtChan w != 0 && tgtChan w != 63 &&
      (if s.isOwn (tgtModule w) then (s.lct p (tgtCore w).toNat).isSome else (tgtModule w).ult 6144))

/-! ### Fault reports (R369, R370) -/

/-- Word 1 of a KIND 3 message. -/
def reportWord1 (cls : BitVec 4) (ctx : BitVec 3) (slot : Nat) (seq : BitVec 16) (code : Byte) : Word :=
  cls ++ ctx ++ BitVec.ofNat 3 slot ++ 0#6 ++ seq ++ 0#24 ++ code

/-- A report enters the collector of its core's row; reports of failed walks on one granule merge while they wait (R370). -/
def mergeReport (r : Report) (row : Nat) : List Report → List Report
  | [] => [r]
  | q :: qs =>
    if q.granule.isSome && q.granule == r.granule && q.ctx == r.ctx && q.tag == r.tag then
      let code := (q.words.getD 1 0).extractLsb' 0 8
      let bits := (q.words.getD 4 0).extractLsb' 0 48
      let old := if (q.words.getD 1 0).extractLsb' 60 4 == 4 then bits else (1#48 <<< posX q.src)
      { q with
        words := [q.words.headD 0, reportWord1 4 q.ctx 0 0 code, 0, q.granule.getD 0,
          0#10 ++ BitVec.ofNat 6 row ++ (old ||| (1#48 <<< posX r.src))] } :: qs
    else q :: mergeReport r row qs

/-- Send a KIND 3 message about core `p` to channel 62 of the partition supervisor's core (R369). -/
def State.report (s : State) (p : Nat) (cls : BitVec 4) (slot : Nat) (seq : BitVec 16) (code : Byte) (pc addr info : Word)
    (granule : Option Word) : State :=
  let c := s.core p
  let h := header s.time c.lcore 4 62 3 false false
  let r : Report := ⟨p, c.tag, c.ctx, [h, reportWord1 cls c.ctx slot seq code, pc, addr, info], granule, none⟩
  let row := posY p
  { s with collectors := NMap.set s.collectors row (mergeReport r row (NMap.get [] s.collectors row)) }

/-- R370: 64 KiB granule of a VA. -/
def granuleOf (va : Word) : Word := va &&& 0x00FFFFFFFFFF0000

/-! ### The frame of a slot (R93, R357) -/

/-- STATUS of a stream (R93, R47). -/
def Slot.status (sl : Slot) (k : Nat) (acc : Bool) : Word :=
  let st := sl.strm acc
  0#44 ++ bit 1 acc ++ BitVec.ofNat 3 k ++ st.pl ++ BitVec.ofNat 4 sl.preds.length ++ st.repcnt ++
    bit 1 st.rep.isSome ++ bit 1 (st.rep.isSome || st.fmt.isSome)

/-- The two words of a prefix holding word: its low 64 bits, then its high 32 bits with the valid flag in bit 63 (R357). -/
def holding (w : Option IWord) (second : Bool) : Word :=
  match w with
  | none => 0
  | some w => if second then 1#1 ++ 0#31 ++ w.extractLsb' 64 32 else w.extractLsb' 0 64

def strmWord (sl : Slot) (k : Nat) (acc : Bool) (i : Nat) : Word :=
  let st := sl.strm acc
  match i with
  | 0 => st.pc.setWidth 64
  | 1 => sl.status k acc
  | 2 => holding (st.fmt.map packF) false
  | 3 => holding (st.fmt.map packF) true
  | 4 => holding (st.rep.map packR) false
  | _ => holding (st.rep.map packR) true

/-- The deadline of a WAIT in progress or saved (R152). -/
def Strm.waitDeadline (st : Strm) : Option Word :=
  match st.pend with
  | some w => if w.kind = .wait then w.deadline else st.deadline
  | none => st.deadline

/-- The taken set of one input: how many messages, and where in the ring the first of them stands (R127, R357; log 12). -/
def Slot.takenWord (sl : Slot) (input : Nat) : Word :=
  let ts := sl.taken.filter fun t => t.input == input
  BitVec.ofNat 32 ts.length ++ BitVec.ofNat 32 ((ts.map (·.pos)).headD 0)

/-- FIRING with its reserved bits zero (R4, R94). -/
def firingMask : Word := 0xFFFFFFFFFFFF0E3F

/-- The saved deadlines of the two streams as one word: the execute stream's, else the access stream's (R357; log 47). -/
def Slot.deadlineWord (sl : Slot) : Word := (sl.x.waitDeadline.or sl.a.waitDeadline).getD 0

/-- Word `i` of the frame of slot `k` (R357). Log 12: which entry of the predicate stack stands first; log 47: whose late fault and whose
deadline it holds. -/
def Slot.frameWord (sl : Slot) (k i : Nat) : Word :=
  if i < 64 then sl.reg (BitVec.ofNat 6 i)
  else if i < 320 then (vget 0 sl.v ((i - 64) / 8)).extractLsb' (64 * ((i - 64) % 8)) 64
  else if i < 328 then sl.preds.reverse.getD (i - 320) 0
  else if i < 334 then strmWord sl k false (i - 328)
  else if i < 340 then strmWord sl k true (i - 334)
  else if i = 340 then sl.firing &&& firingMask
  else if i = 341 then sl.trapCause.setWidth 64
  else if i = 342 then sl.trapPc.setWidth 64
  else if i = 343 then sl.trapAddr
  else if i = 344 then sl.trapSeq.setWidth 64
  else if i = 345 then sl.board
  else if i = 346 then 0#24 ++ sl.child ++ sl.path
  else if i = 347 then sl.item.setWidth 64
  else if i = 348 then
    match sl.x.late ++ sl.a.late with
    | [] => 0
    | l :: _ => 1#1 ++ 0#39 ++ l.seq
  else if i = 349 then sl.deadlineWord
  else if i = 350 then sl.st.setWidth 64
  else if i = 352 then
    BitVec.ofNat 64 (((List.range 8).map fun j => (sl.queue j).length * 256 ^ j).sum)
  else if 384 ≤ i ∧ i < 896 then
    ((sl.queue ((i - 384) / 64)).getD ((i - 384) % 64 / 8) 0).extractLsb' (64 * ((i - 384) % 8)) 64
  else if 896 ≤ i ∧ i < 900 then sl.takenWord (i - 896)
  else 0

def holdingOf (lo hi : Word) : Option IWord :=
  if hi.getLsbD 63 then some (hi.extractLsb' 0 32 ++ lo) else none

/-- A stream from its six frame words. The valid flags of the holding words say what is pending, also where STATUS bits 1:0 disagree (R47;
the model's choice, log 97). -/
def strmOf (w : Nat → Word) (late : List Late) (dl : Option Word) : Strm where
  pc := (w 0).extractLsb' 0 56
  pl := (w 1).extractLsb' 14 2
  repcnt := (w 1).extractLsb' 2 8
  fmt := (holdingOf (w 2) (w 3)).map unpackF
  rep := (holdingOf (w 4) (w 5)).map unpackR
  pend := none
  late := late
  deadline := dl
  entering := false
  badLine := none
  snap := []
  asked := []
  reread := none

/-- The pending late faults of the execute and the access stream: the frame's word stands for the first of them and the others are as the
slot holds them; a fault that only the frame names is the execute stream's (R96, R357; log 47). -/
def Slot.latesFrom (sl : Slot) (w : Nat → Word) : List Late × List Late :=
  let seq := (w 348).extractLsb' 0 24
  match (w 348).getLsbD 63, sl.x.late, sl.a.late with
  | true, l :: ls, as => ({ l with seq := seq } :: ls, as)
  | true, [], l :: ls => ([], { l with seq := seq } :: ls)
  | true, [], [] => ([⟨0x0C, w 343, seq, .saved, 0, none⟩], [])
  | false, _ :: ls, as => (ls, as)
  | false, [], as => ([], as.tail)

/-- The saved deadlines of the two streams: the frame's word stands for the one that `deadlineWord` gives (R152, R357; log 47). -/
def Slot.deadlinesFrom (sl : Slot) (w : Nat → Word) : Option Word × Option Word :=
  let new : Option Word := if w 349 = 0 then none else some (w 349)
  if w 349 = sl.deadlineWord then (sl.x.waitDeadline, sl.a.waitDeadline)
  else if sl.x.waitDeadline.isSome || sl.a.waitDeadline.isNone then (new, sl.a.waitDeadline)
  else (none, new)

/-- The slot that a frame describes; what the layout does not hold stays as it stands in the slot (R96, R357; log 12). -/
def Slot.ofFrame (sl : Slot) (w : Nat → Word) : Slot :=
  let late := sl.latesFrom w
  let dl := sl.deadlinesFrom w
  let depth := ((w 329).extractLsb' 10 4).toNat
  { sl with
    s := Vector.ofFn fun (i : Fin 64) => if i.val = 0 then 0 else w i.val
    v := Vector.ofFn fun (r : Fin 32) =>
      BitVec.ofNat 512 (((List.range 8).map fun j => (w (64 + 8 * r.val + j)).toNat * 2 ^ (64 * j)).sum)
    preds := ((List.range (min depth 8)).map fun i => w (320 + i)).reverse
    x := strmOf (fun i => w (328 + i)) late.1 dl.1
    a := strmOf (fun i => w (334 + i)) late.2 dl.2
    firing := w 340 &&& firingMask
    trapCause := (w 341).extractLsb' 0 8
    trapPc := (w 342).extractLsb' 0 56
    trapAddr := w 343
    trapSeq := (w 344).extractLsb' 0 24
    board := w 345
    path := (w 346).extractLsb' 0 32
    child := (w 346).extractLsb' 32 8
    item := (w 347).extractLsb' 0 40
    q := Vector.ofFn fun (k : Fin 8) =>
      (List.range (min 8 ((w 352).extractLsb' (8 * k.val) 8).toNat)).map fun e =>
        BitVec.ofNat 512 (((List.range 8).map fun j => (w (384 + 64 * k.val + 8 * e + j)).toNat * 2 ^ (64 * j)).sum) }

/-- The taken set of one input that a frame describes: so many of the messages of its channel that firings hold, from the one at its ring
position on (R127, R357; log 12). -/
def Core.takenFrom (c : Core) (sl : Slot) (w : Word) (input : Nat) : List Taken :=
  let mine := sl.taken.filter fun t => t.input == input
  if w = sl.takenWord input then mine
  else
    let ch : BitVec 6 := sl.entry.hw1.extractLsb' (16 * input + 8) 6
    let held := (c.chRing ch.toNat).msgs.filter fun m => m.taken && !m.freed
    ((held.dropWhile fun m => m.pos != (w.extractLsb' 0 32).toNat).take (w.extractLsb' 32 32).toNat).map fun m => ⟨input, ch, m.id, m.pos⟩

/-- Slot `sl` of a core from a frame, its taken set among the messages of the core's rings. -/
def Core.slotFrom (c : Core) (sl : Slot) (w : Nat → Word) : Slot :=
  { sl.ofFrame w with taken := (List.range 4).flatMap fun k => c.takenFrom sl (w (896 + k)) k }

def frameWords : Nat := 1024

/-- Write the frame of a slot into local memory (R365). -/
def State.writeFrame (s : State) (p off k : Nat) (sl : Slot) : State :=
  iter frameWords (fun i s => s.setLocalWord p (off + 8 * i) (sl.frameWord k i)) s

/-- PRIV.FEN and the frame of a slot (R364, R365). -/
def Core.fen (c : Core) : Bool := c.priv.getLsbD 63
def Core.frameOff (c : Core) (k : Nat) : Nat := (c.priv.extractLsb' 0 14).toNat * 64 + 0x2000 * k

/-! ### Program counters (R36, R37) -/

/-- The line, the slot and their parts of a program counter (R36). -/
def pcLine (pc : Pc) : Word := 0#8 ++ pc.extractLsb' 6 50 ++ 0#6
def pcSlot (pc : Pc) : Nat := (pc.extractLsb' 0 3).toNat
def slotNo (pc : Pc) : Nat := (pc.extractLsb' 6 50).toNat * 5 + pcSlot pc
/-- The program counter of a slot number (R37). -/
def pcOfNo (n : Nat) : Pc := BitVec.ofNat 56 (n / 5 * 64 + n % 5)
/-- The next slot in sequence (R36, R135). -/
def nextPc (pc : Pc) : Pc := pcOfNo (slotNo pc + 1)

/-! ### Taking a trap (R42, R365, R366) -/

/-- A stream stops at its instruction boundary; an instruction that waits, or whose trap does, has not executed, and a WAIT keeps its
deadline (R42, R152). -/
def Strm.stop (st : Strm) : Strm :=
  { st with
    pend := none
    deadline := st.waitDeadline
    snap := []
    asked := []
    reread := none
    late := st.late.filter fun l => l.kind != .parked }

/-- Both streams stop; takes of the slot no longer wait (R195). -/
def State.stopStreams (s : State) (t : StreamId) : State :=
  s.modCore t.core fun c =>
    let sl := c.slot t.slot
    { c.setSlot t.slot { sl with x := sl.x.stop, a := sl.a.stop } with takes := c.takes.filter fun w => w.slot != t.slot }

/-- The trap registers as an entry or a suspension sets them (R365, R366). -/
def Slot.setTrap (sl : Slot) (acc : Bool) (cause : Byte) (addr : Word) (seq : BitVec 24) : Slot :=
  { sl with trapCause := cause, trapPc := (sl.strm acc).pc, trapAddr := addr, trapSeq := seq, lost := 0, view := [] }

/-- An instruction that issues a request to an engine: while it waits for its probe nothing has moved, and it stops as not executed (R251,
R273, R291). -/
def probing (i : Instr) : Bool :=
  match i with
  | .copy _ | .copyb _ | .copyp _ | .gath _ | .lace _ | .mtask _ => true
  | _ => false

/-- The instruction of a stream has begun something that another agent finishes, so that it has no boundary before its end (R186, R207,
R210, R211). -/
def Strm.unfinished (st : Strm) : Bool :=
  match st.pend with
  | some ⟨.remote, .nop _, _, _, _⟩ => false
  | some ⟨.remote, i, _, _, _⟩ => !probing i
  | some ⟨.hand, _, _, _, _⟩ | some ⟨.swapm, _, _, _, _⟩ => true
  | _ => false

/-- The slot's other stream has not reached an instruction boundary, which a trap waits for (R42). -/
def State.otherBusy (s : State) (t : StreamId) : Bool := ((s.slot t).strm (!t.acc)).unfinished

/-- A vector fault has reached its stream (R174). -/
def Late.arrived (l : Late) : Late := if l.kind = .vector then { l with kind := .due } else l

/-- What a handler's entry finds and its return restores besides the frame; a vector fault on its way has arrived by then. -/
def Slot.kept (sl : Slot) : Kept :=
  ⟨sl.resolved, sl.x.late.map Late.arrived, sl.a.late.map Late.arrived, sl.x.waitDeadline, sl.a.waitDeadline⟩

/-- SUSPEND: the slot's state stays in place, slot state 2, and a class 0 report goes out (R366, R369). -/
def State.suspend (s : State) (t : StreamId) (cause : Byte) (addr : Word) (seq : BitVec 24) (granule : Option Word) : State :=
  let s := s.modSlot t fun sl => { sl.setTrap t.acc cause addr seq with st := 2, susp := sl.st }
  let sl := s.slot t
  s.report t.core 0 t.slot (seq.extractLsb' 0 16) cause (sl.trapPc.setWidth 64) addr sl.firing granule

/-- A stream at the start of a handler: no prefix pending, privilege 1 (R49, R365). -/
def handlerStrm (entry : Pc) : Strm :=
  { Strm.reset with pc := entry, pl := 1, entering := true }

/-- Both streams start at a handler's entry with an empty predicate stack; the frame keeps what was (R365, R378). -/
def State.enterHandler (s : State) (t : StreamId) (st : BitVec 3) (entry : Pc) : State :=
  let c := s.core t.core
  let s := s.writeFrame t.core (c.frameOff t.slot) t.slot (c.slot t.slot)
  s.modSlot t fun sl =>
    { sl with st := st, x := handlerStrm entry, a := handlerStrm entry, preds := [], resolved := [], outer := sl.kept, lost := 0, view := [] }

/-- The instance of a stage firing that traps fails when it is shared or a catch-up instance; the link engine ends its bindings (R336). -/
def State.failStage (s : State) (t : StreamId) : State :=
  match (s.slot t).stageOf with
  | none => s
  | some v =>
    let tag := (s.core t.core).tag.toNat
    let l := NMap.get Links.reset s.links tag
    if v.catchUp || decide (1 < (l.binds.filter fun b => b.insts.contains v.inst).length) then
      let insts := l.insts.map fun x => if x.id = v.inst then { x with failed := true, reader := none } else x
      { s with links := NMap.set s.links tag { l with insts := insts } }
    else s

/-- R365: the entry itself. `granule` marks a failed walk for R370. -/
def State.enterTrap (s : State) (t : StreamId) (cause : Byte) (addr : Word) (seq : BitVec 24) (granule : Option Word) : State :=
  let s := ((s.stopStreams t).failStage t).record t.core t.slot 3 (cause.setWidth 64)
  let c := s.core t.core
  let sl := c.slot t.slot
  if (sl.strm t.acc).pl == 1 || sl.st != 1 || !c.trapVec.getLsbD 63 || !c.fen then s.suspend t cause addr seq granule
  else
    (s.modSlot t fun sl => sl.setTrap t.acc cause addr seq).enterHandler t 3 (c.trapVec.extractLsb' 0 56)

/-- A stream stands behind the other in program order: the access stream while an outcome is left to follow, otherwise the one whose slot
comes first (R41). -/
def Slot.executeBehind (sl : Slot) : Bool := sl.resolved.isEmpty && decide (slotNo sl.x.pc < slotNo sl.a.pc)
def Slot.accessBehind (sl : Slot) : Bool := !sl.resolved.isEmpty || decide (slotNo sl.a.pc < slotNo sl.x.pc)
def Slot.behind (sl : Slot) (acc : Bool) : Bool := if acc then sl.accessBehind else sl.executeBehind

/-- The slot's other stream. -/
def otherStream (t : StreamId) : StreamId := { t with acc := !t.acc }

/-- The precise trap of a stream that waits for the other stream's boundary (R42). -/
def Strm.parkedTrap (st : Strm) : Option Late := st.late.find? fun l => l.kind == .parked

/-- A trap of a stream (R42): where the other stream has not reached a boundary it waits for that; where the other stream has trapped
already, the instruction that comes first in program order is reported and the other one has not executed. -/
def State.trapEntry (s : State) (t : StreamId) (cause : Byte) (addr : Word) (seq : BitVec 24) (granule : Option Word) : State :=
  if s.otherBusy t then
    s.modStrm t fun st => { st.stop with late := ⟨cause, addr, seq, .parked, s.time, granule⟩ :: st.stop.late }
  else
    match (s.strm (otherStream t)).parkedTrap with
    | some l => if (s.slot t).behind t.acc then s.enterTrap t cause addr seq granule else s.enterTrap (otherStream t) l.cause l.addr l.seq l.granule
    | none => s.enterTrap t cause addr seq granule

/-- A late fault enters through R365 at the stream's next instruction boundary, once the other stream has one (R42, R368). -/
def State.enterLate (s : State) (t : StreamId) (l : Late) : State :=
  if s.otherBusy t then s
  else (s.modStrm t fun st => { st with late := st.late.erase l }).enterTrap t l.cause l.addr l.seq l.granule

/-- A precise trap; TRAPADDR is a free value where the manual states none (log 14). -/
def State.precise (s : State) (t : StreamId) (cause : Byte) (addr : Option Word) : State :=
  match addr with
  | some a => s.trapEntry t cause a 0 none
  | none => s.freeWord.2.trapEntry t cause s.freeWord.1 0 none

/-- The frame of a slot as a table of words. -/
def State.frameAt (s : State) (p off : Nat) : Nat → Word := fun i => s.localWord p (off + 8 * i)

/-- A stream with what a handler's entry found in it, for the frame to describe. -/
def Strm.found (st : Strm) (late : List Late) (dl : Option Word) : Strm := { st with pend := none, late := late, deadline := dl }

/-- The slot with what its handler's entry found. -/
def Slot.found (sl : Slot) : Slot :=
  { sl with
    x := sl.x.found sl.outer.xLate sl.outer.xDeadline
    a := sl.a.found sl.outer.aLate sl.outer.aDeadline
    resolved := sl.outer.resolved
    outer := Kept.none
    view := []
    lost := 0 }

/-- A stream with further late faults behind its own. -/
def Strm.alsoLate (st : Strm) (ls : List Late) : Strm := { st with late := st.late ++ ls }

/-- The return from a handler: the slot is reloaded from its frame and both streams resume; late faults that came while the handler ran
stand behind those that its entry found (R96, R367, R368). -/
def State.reloadFrame (s : State) (t : StreamId) : State :=
  let c := s.core t.core
  let f := s.frameAt t.core (c.frameOff t.slot)
  s.modSlot t fun sl =>
    let new := c.slotFrom sl.found f
    { new with st := 1, x := new.x.alsoLate sl.x.late, a := new.a.alsoLate sl.a.late }

/-! ### The end of a firing (R128, R129) -/

/-- Give back the ring space of the messages of the taken set (R127, R128). -/
def State.freeTaken (s : State) (t : StreamId) : State :=
  let sl := s.slot t
  s.modCore t.core fun c =>
    sl.taken.foldl (fun c m => c.setRing m.chan.toNat ((c.chRing m.chan.toNat).give m.id)) c

/-- The trackers of the slot's own firing complete; those that earlier firings left stay in use until their work completes (R129, R232). -/
def State.endTrackers (s : State) (t : StreamId) : State :=
  s.modSlot t fun sl => { sl with trackers := sl.trackers.filter fun x => x.fseq != sl.fseq }

/-- The slot becomes free; incomplete trackers stay in use (R232). -/
def State.freeSlot (s : State) (t : StreamId) : State :=
  let s := s.freeTaken t
  s.modSlot t fun sl => { Slot.reset with trackers := sl.trackers, fenceNo := sl.fenceNo }

/-- Whether the firing with this number still occupies the slot. -/
def State.firingRuns (s : State) (p k : Nat) (fseq : BitVec 32) : Bool :=
  let sl := (s.core p).slot k
  sl.st != 0 && sl.fseq == fseq

/-! ### Sending (R119, R348, R417, R421) -/

/-- A packet that its receiver or its port refuses is dropped, and its sender hears of it: a late trap 0x10 while its firing runs,
otherwise a class 3 report (R348, R417). -/
def State.dropped (s : State) (src : Nat) (snd : Option Sender) (target : Word) (code : Byte) : State :=
  match snd with
  | some x =>
    if s.firingRuns src x.slot x.fseq then
      s.modStrm ⟨src, x.slot, x.acc⟩ fun st => st.alsoLate [⟨0x10, target, 0, .due, s.time, none⟩]
    else s.report src 3 x.slot 0 code 0 target 0 none
  | none => s.report src 3 0 0 code 0 target 0 none

/-- The port by which packets for a module leave is down (R417). -/
def State.portDown (s : State) (m : BitVec 13) : Bool := (NMap.find s.io.routes m.toNat).any fun p => s.io.down.contains p

/-- A message that core `p` injects counts (R404). -/
def State.countSend (s : State) (p : Nat) (snd : Option Sender) : State := s.modCore p fun c => c.pmCount 0x0A (snd.map (·.slot)) 1

/-- A message with this body leaves from core `p` for a target word: through the core's own table on this module, by a welt port to
another module (R119). A number that the table does not hold is nobody's. -/
def State.route (s : State) (p : Nat) (snd : Option Sender) (t : Word) (kind : BitVec 4) (rh : Bool) (body : List Word) : State :=
  let c := s.core p
  let h (rem : Bool) := header s.time c.lcore (BitVec.ofNat 5 body.length) (tgtChan t) kind rh rem
  if s.isOwn (tgtModule t) then
    match s.lct p (tgtCore t).toNat with
    | some q => s.inject ⟨p, q, c.tag, c.ctx, tgtChan t, h false :: body, t, snd⟩
    | none => s
  else if s.portDown (tgtModule t) then s.dropped p snd t 0x03
  else { s with weltOut := s.weltOut ++ [.message (tgtModule t) c.gpid (tgtCore t) (h true :: body) (some ⟨p, snd, t⟩)] }

/-- Core `p` sends a message. -/
def State.sendTo (s : State) (p : Nat) (snd : Option Sender) (t : Word) (kind : BitVec 4) (rh : Bool) (body : List Word) : State :=
  (s.countSend p snd).route p snd t kind rh body

/-- Send to a REPLY; V = 0 sends nothing (R421). -/
def State.reply (s : State) (p : Nat) (w : Word) (body : List Word) : State :=
  if tgtV w then s.sendTo p none w 2 false body else s

/-- A late failure: pending in the stream that issued while its firing runs, otherwise a class 1 report (R174, R258, R368). -/
def State.lateFault (s : State) (t : StreamId) (fseq : BitVec 32) (seq : BitVec 16) (status : Byte) (pc addr : Word)
    (granule : Option Word) : State :=
  if s.firingRuns t.core t.slot fseq then
    s.modStrm t fun st => st.alsoLate [⟨0x0C, addr, status ++ seq, .due, s.time, none⟩]
  else s.report t.core 1 t.slot seq status pc addr 0 granule

/-- A status arrives in a register of a scoreboard (R88); a register that no request waits for any more takes none (log 13). -/
def Slot.putStatus (sl : Slot) (d : BitVec 6) (x : Word) : Slot :=
  if sl.board.getLsbD d.toNat then { sl.setReg d x with board := sl.board &&& ~~~(1#64 <<< d.toNat) } else sl

/-- The slot runs a handler, or was suspended in one: the trapping firing waits in the frame. -/
def Slot.inHandler (sl : Slot) : Bool := (3#3).ule sl.st || (sl.st == 2 && (3#3).ule sl.susp)

/-- A status arrives for a firing (R88); while its slot runs a handler it arrives in the frame too, if the frame's scoreboard holds the
register (R96; log 13). -/
def State.putStatus (s : State) (p k : Nat) (fseq : BitVec 32) (d : BitVec 6) (x : Word) : State :=
  if d = 0 || !s.firingRuns p k fseq then s
  else
    let t : StreamId := ⟨p, k, false⟩
    let s := s.modSlot t fun sl => sl.putStatus d x
    let off := (s.core p).frameOff k
    let b := s.localWord p (off + 8 * 345)
    if (s.slot t).inHandler && b.getLsbD d.toNat then
      (s.setLocalWord p (off + 8 * d.toNat) x).setLocalWord p (off + 8 * 345) (b &&& ~~~(1#64 <<< d.toNat))
    else s

/-! ### The dispatch ring (R173) -/

/-- An operation takes the next dispatch sequence number and its entry in the 64-entry ring. -/
def State.dispatch (s : State) (t : StreamId) (word : IWord) (st : DState) (status : Byte) : State :=
  s.modCore t.core fun c =>
    let e : DEntry := ⟨c.dseq, ((c.slot t.slot).strm t.acc).pc, word, t.slot, st, status, 0, false⟩
    { c with dseq := c.dseq + 1, ring := (c.ring ++ [e]).drop (c.ring.length + 1 - 64) }

/-- An operation of the ring has ended. -/
def State.dispatchEnd (s : State) (p : Nat) (seq : BitVec 16) (st : DState) (status : Byte) : State :=
  s.modCore p fun c =>
    { c with ring := c.ring.map fun e => if e.seq == seq then { e with st := st, status := status } else e }

end Sys2Proof.Machine
end

