-- ==== Sys2Proof/Machine/Device.lean ====
section
/-!
DEFINITION. Addresses and device memory: the address spaces and their checks (R101, R103), the page walk and the stations (R199 to
R202), region states (R205, R206), the store buffer (R208, R224 to R226) and the dirty log (R222).
-/
namespace Sys2Proof.Machine

/-! ### Address spaces -/

def addrTag (a : Word) : Byte := a.extractLsb' 56 8

/-- What an address names (R101). `lm`, `vault` and `ctl` are the kinds of the mesh forms. -/
inductive Space where
  | virt (va : Word)
  | lm (pos off : Nat)
  | vault (pos off : Nat)
  | ctl (pos off : Nat)
  /-- a mesh address on another module, with its position, KIND and offset -/
  | away (m : BitVec 13) (pos : Nat) (kind : BitVec 2) (off : Nat)
  deriving DecidableEq, Repr

/-- The address of byte `off` of a core's local memory, with the own module (R101). -/
def localAddr (pos off : Nat) : Word :=
  0x01#8 ++ 0x1FFF#13 ++ BitVec.ofNat 6 (posY pos) ++ BitVec.ofNat 6 (posX pos) ++ 0#2 ++ BitVec.ofNat 29 off

/-- The space by KIND at a position (R101, R103). -/
def kindSpace (pos : Nat) (kind : BitVec 2) (off : Nat) : Option Space :=
  match kind.toNat with
  | 0 => some (.lm pos off)
  | 1 => some (.vault pos off)
  | 2 => some (.ctl pos off)
  | _ => none

/-- The tag and the fields of an address used by the core at `pos`; `none` raises trap 0x04 (R103). -/
def State.space (s : State) (pos : Nat) (a : Word) : Option Space :=
  let m := a.extractLsb' 43 13
  let y := a.extractLsb' 37 6
  let x := a.extractLsb' 31 6
  let kind := a.extractLsb' 29 2
  let off := (a.extractLsb' 0 29).toNat
  match (addrTag a).toNat with
  | 0 => some (.virt a)
  | 1 =>
    if (m == 0x1FFF || m.ult 6144) && y.ult 48 && x.ult 48 && kind != 3 then
      if s.isOwn m then kindSpace (posOf x.toNat y.toNat) kind off else some (.away m (posOf x.toNat y.toNat) kind off)
    else none
  | 2 =>
    let tx := (posX pos : Int) + x.toInt
    let ty := (posY pos : Int) + y.toInt
    if s.isOwn m && decide (0 ≤ tx) && decide (tx < 48) && decide (0 ≤ ty) && decide (ty < 48) && kind != 3 then
      kindSpace (posOf tx.toNat ty.toNat) kind off
    else none
  | 3 => if a.extractLsb' 22 34 == 0 then some (.vault pos (a.extractLsb' 0 22).toNat) else none
  | _ => none

/-- The bounds of a kind for an access of `n` bytes: the trap cause of R103, if any. -/
def kindBounds (kind : BitVec 2) (off n : Nat) : Option Byte :=
  match kind.toNat with
  | 0 => if off + n ≤ localSize then none else some 0x08
  | 1 => if off + n ≤ vaultSize then none else some 0x04
  | _ => if off + n ≤ 0x10000 then none else some 0x04

def boundsCause (sp : Space) (n : Nat) : Option Byte :=
  match sp with
  | .lm _ off => kindBounds 0 off n
  | .vault _ off => kindBounds 1 off n
  | .ctl _ off => kindBounds 2 off n
  | .away _ _ kind off => kindBounds kind off n
  | .virt _ => none

/-- The space of an address that must name the issuing core's own local memory (R138, R140, R149): the byte offset. -/
def State.ownLocal (s : State) (t : StreamId) (ea : Word) : Run Nat :=
  match s.space t.core ea with
  | some (.lm p off) => if p = t.core then .ok off else trapAt 0x04 ea
  | _ => trapAt 0x04 ea

/-! ### Translation (R199, R200) -/

/-- A leaf: flat key of its first frame, SIZE, TIER, MODULE, X, the home (a station number, or 1000 + position for a vault gate), the
page's base VA and where the entry stands. -/
structure Leaf where
  key : Nat
  size : BitVec 2
  vault : Bool
  module : BitVec 13
  x : Bool
  home : Nat
  va : Word
  pte : Nat
  deriving DecidableEq, Repr

/-- The page's length in bytes: 64 KiB, 2 MiB, 1 GiB. -/
def pageBits (size : BitVec 2) : Nat := if size = 0 then 16 else if size = 1 then 21 else 30
def pageLen (size : BitVec 2) : Nat := 2 ^ pageBits size
def pageBase (va : Word) (size : BitVec 2) : Word := BitVec.ofNat 64 (va.toNat / pageLen size * pageLen size % 2 ^ 56)

/-- The leaf that an entry at `pte` describes for `va`, or none when it is malformed (R200). -/
def leafOf (va : Word) (pte : Nat) (e : Word) : Option Leaf :=
  let size := e.extractLsb' 61 2
  let frame := e.extractLsb' 0 24
  let home := (e.extractLsb' 36 7).toNat
  let m := e.extractLsb' 43 13
  let x := e.getLsbD 59
  let base := pageBase va size
  if e.getLsbD 60 then
    let vy := (frame.extractLsb' 12 6).toNat
    let vx := (frame.extractLsb' 6 6).toNat
    let i := (frame.extractLsb' 0 6).toNat
    if size = 2 || decide (47 < i) || (size == 1 && i != 0) || frame.extractLsb' 18 6 != 0 || decide (47 < vx) || decide (47 < vy)
    then none
    else some ⟨vaultKey (posOf vx vy) (i * 0x10000), size, true, m, x, 1000 + posOf vx vy, base, pte⟩
  else if frame.toNat % 2 ^ (pageBits size - 16) ≠ 0 || 96 ≤ home then none
  else some ⟨lpddrKey (frame.toNat * 0x10000), size, false, m, x, 96 * (frame.extractLsb' 22 2).toNat + home, base, pte⟩

/-- What a table entry is: none that a walk can use, a pointer to the next table, or a leaf (R199, R200). -/
inductive TableEntry where
  | bad
  | table (at_ : Nat)
  | leaf (l : Leaf)
  deriving DecidableEq, Repr

/-- Entry `i` of the table at `table`, for an address that it maps, at a level whose leaves have the size `allowed` (3: none). -/
def State.entryAt (s : State) (va : Word) (table i allowed : Nat) : TableEntry :=
  let pte := table + 8 * i
  let e : Word := BitVec.ofNat 64 (s.mem.readNat (lpddrKey pte) 8)
  let size := e.extractLsb' 61 2
  if !e.getLsbD 63 || e.extractLsb' 56 3 != 0 || e.extractLsb' 24 12 != 0 then .bad
  else if size = 3 then .table ((e.extractLsb' 36 4).toNat * 2 ^ 36 + (e.extractLsb' 0 24).toNat * 4096)
  else if size.toNat ≠ allowed then .bad
  else match leafOf va pte e with
    | some l => .leaf l
    | none => .bad

/-- The walk below a table at `table`: the remaining levels with their lowest VA bit, their entries and the leaf size they allow
(3: none). -/
def State.walkFrom (s : State) (va : Word) (fetch : Bool) : List (Nat × Nat × Nat) → Nat → Option Leaf
  | [], _ => none
  | (lo, n, allowed) :: levels, table =>
    match s.entryAt va table ((va.toNat / 2 ^ lo) % n) allowed with
    | .bad => none
    | .table next => s.walkFrom va fetch levels next
    | .leaf l => if fetch && !l.x then none else some l

/-- The entries of a table of `n` that memory lists bytes of; the others are zero. -/
def State.listedEntries (s : State) (table n : Nat) : List Nat :=
  ((s.mem.filter fun c => decide (lpddrKey table ≤ c.1) && decide (c.1 < lpddrKey table + 8 * n)).map fun c =>
    (c.1 - lpddrKey table) / 8).eraseDups

/-- Every leaf below a table that maps the addresses from `va` on. -/
def State.leavesFrom (s : State) : List (Nat × Nat × Nat) → Nat → Nat → List Leaf
  | [], _, _ => []
  | (lo, n, allowed) :: levels, table, va =>
    (s.listedEntries table n).flatMap fun i =>
      match s.entryAt (BitVec.ofNat 64 (va + i * 2 ^ lo)) table i allowed with
      | .bad => []
      | .table next => s.leavesFrom levels next (va + i * 2 ^ lo)
      | .leaf l => [l]

/-- L4 to L0 (R199). -/
def levels : List (Nat × Nat × Nat) := [(48, 256, 3), (39, 512, 3), (30, 512, 2), (21, 512, 1), (16, 32, 0)]

/-- The page table's root of a context (R351). -/
def Ctx.table (c : Ctx) : Nat := (c.root.extractLsb' 12 28).toNat * 4096

def State.walk (s : State) (tag : BitVec 6) (ctx : BitVec 3) (va : Word) (fetch : Bool) : Option Leaf :=
  s.walkFrom va fetch levels (s.ctx tag.toNat ctx.toNat).table

/-- Every leaf of a context's table. -/
def State.pagesOf (s : State) (tag : BitVec 6) (ctx : BitVec 3) : List Leaf := s.leavesFrom levels (s.ctx tag.toNat ctx.toNat).table 0

/-- The serving station of a core for a VA (R201). -/
def stationOf (pos : Nat) (va : Word) : Nat :=
  let e := if va.getLsbD 16 then 24 + posX pos % 24 else posY pos % 24
  96 * dieOf pos + 2 * e + (if va.getLsbD 17 then 1 else 0)

def State.station (s : State) (n : Nat) : Station := NMap.get ⟨[], []⟩ s.stations n
def State.setStation (s : State) (n : Nat) (st : Station) : State := { s with stations := NMap.set s.stations n st }

/-- The entry of the station's cache that serves a VA of a context (R202). -/
def Station.hit (st : Station) (tag : BitVec 6) (ctx : BitVec 3) (va : Word) : Option TlbEntry :=
  st.cache.find? fun e => e.tag == tag && e.ctx == ctx && e.va == pageBase va (e.leaf.extractLsb' 61 2)

/-- A translation enters the station's cache of 4,096 (R18, R202). -/
def Station.insert (st : Station) (e : TlbEntry) : Station :=
  { st with cache := (e :: st.cache.filter fun x => !(x.tag == e.tag && x.ctx == e.ctx && x.va == e.va)).take 4096 }

/-- The cache entry of a leaf. -/
def State.tlbOf (s : State) (tag : BitVec 6) (ctx : BitVec 3) (l : Leaf) : TlbEntry :=
  ⟨tag, ctx, l.va, BitVec.ofNat 64 (s.mem.readNat (lpddrKey l.pte) 8)⟩

/-- The page that a VA lies in, by its base; where no leaf maps it, its 64 KiB granule (R200, R202). -/
def State.pageOf (s : State) (tag : BitVec 6) (ctx : BitVec 3) (va : Word) : Word :=
  match s.walk tag ctx va false with
  | some l => l.va
  | none => granuleOf va

/-- A translation miss and a page walk for an access of a core (R404). -/
def Core.countMiss (c : Core) : Core := (c.pmCount 0x20 none 1).pmCount 0x21 none 1

/-- The translation of an access that is no scalar one: on a miss the serving station walks and keeps the leaf, and counts both (R202,
R404). -/
def State.touchPage (s : State) (p : Nat) (va : Word) : State :=
  let c := s.core p
  let n := stationOf p va
  if va.extractLsb' 56 8 != 0 || ((s.station n).hit c.tag c.ctx va).isSome then s
  else
    let s := s.modCore p Core.countMiss
    match s.walk c.tag c.ctx va false with
    | some l => s.setStation n ((s.station n).insert (s.tlbOf c.tag c.ctx l))
    | none => s

/-- Drop the cached translations of a page from every station (R200, R217). -/
def State.dropTranslations (s : State) (tag : BitVec 6) (ctx : BitVec 3) (va : Word) : State :=
  { s with
    stations := s.stations.map fun e =>
      (e.1, { e.2 with
        cache := e.2.cache.filter fun t =>
          !(t.tag == tag && t.ctx == ctx && t.va == pageBase va (t.leaf.extractLsb' 61 2)) }) }

/-! ### Region records (R203, R205, R206) -/

def State.region (s : State) (key : Nat) : Region := NMap.get Region.reset s.regions key
def State.setRegion (s : State) (key : Nat) (r : Region) : State := { s with regions := NMap.set s.regions key r }
def State.modRegion (s : State) (key : Nat) (f : Region → Region) : State := s.setRegion key (f (s.region key))

/-- The record key of an untranslated vault address: a claimed 2 MiB region's record is kept with frame 0 (R203). -/
def State.vaultRecord (s : State) (pos off : Nat) : Nat :=
  let r0 := s.region (vaultKey pos 0)
  if r0.st ≠ .unclaimed && r0.size == 1 && decide (off < 0x200000) then vaultKey pos 0
  else vaultKey pos (off / 0x10000 * 0x10000)

/-- The core is the holder, or the owner of record (R205). -/
def Core.holds (c : Core) (r : Region) : Bool :=
  r.tag == c.tag && r.ctx == c.ctx && r.hmod == 0x1FFF && r.hcore == c.lcore

/-- The holder may write, but no core that serves a pure stage (R331). -/
def Core.mayHold (c : Core) (r : Region) : Bool := c.holds r && !(c.serve.any (·.pure))

/-- R206: the trap cause of a refused load or store. `lace` is LACE's own read, the only one that a lace-once region allows, shadowed or
not (R269). -/
def Region.refuses (r : Region) (holder store lace : Bool) : Option Byte :=
  match r.st with
  | .priv => if holder then none else some (if store then 0x05 else 0x06)
  | .published => if store then some 0x05 else if r.lace.isSome && !lace then some 0x06 else none
  | .shadowed =>
    if r.side then (if holder then none else some (if store then 0x05 else 0x06))
    else if store then some 0x05 else if r.lace.isSome && !lace then some 0x06 else none
  | _ => some (if store then 0x05 else 0x06)

/-- R206, last column, and R269. -/
def Region.fetchable (r : Region) : Bool :=
  match r.st with
  | .published => r.lace.isNone
  | .shadowed => !r.side && r.lace.isNone
  | _ => false

/-- A place in device memory: the flat key of the byte, the region's record, its size, tier and home, the module that holds it
(0x1FFF the own one), and the page's base VA (the untranslated address for a vault access). -/
structure Place where
  key : Nat
  rkey : Nat
  size : BitVec 2
  vault : Bool
  home : Nat
  module : BitVec 13
  va : Word
  pte : Option Nat
  deriving DecidableEq, Repr

def State.leafPlace (s : State) (va : Word) (l : Leaf) : Place where
  key := l.key + va.toNat % pageLen l.size
  rkey := l.key
  size := l.size
  vault := l.vault
  home := l.home
  module := if s.isOwn l.module then 0x1FFF else l.module
  va := l.va
  pte := some l.pte

/-- A place by an untranslated vault address; what a log entry calls its page base is then bits 55:16 of that address (log 80). -/
def State.vaultPlace (s : State) (pos off : Nat) (a : Word) : Place :=
  let rk := s.vaultRecord pos off
  { key := vaultKey pos off, rkey := rk, size := (s.region rk).size, vault := true, home := 1000 + pos, module := 0x1FFF, va := a,
    pte := none }

/-- A place with no wait for a walk: what the engines, the vector unit and the capability instructions use (R200; log 4). -/
def State.placeOf (s : State) (pos : Nat) (sp : Space) : Option Place :=
  let c := s.core pos
  match sp with
  | .virt va => (s.walk c.tag c.ctx va false).map (s.leafPlace va)
  | .vault p off => some (s.vaultPlace p off (0x03#8 ++ 0#34 ++ BitVec.ofNat 22 off))
  | _ => none

/-- The module that holds what an address names; 0x1FFF for the own one. -/
def State.moduleAt (s : State) (p : Nat) (a : Word) : BitVec 13 :=
  match s.space p a with
  | some (.away m _ _ _) => m
  | some sp => ((s.placeOf p sp).map (·.module)).getD 0x1FFF
  | none => 0x1FFF

/-! ### The dies on the way (R11, R393, R394) -/

def State.die (s : State) (d : Nat) : Die := vget ⟨0, none, 0, 0⟩ s.dies d
def State.relocking (s : State) (d : Nat) : Bool := (s.die d).relock.isSome
/-- Some die relocks. -/
def State.relocks (s : State) : Bool := s.dies.toList.any fun d => d.relock.isSome

/-- The places of the 18 welt ports (R416). -/
def portPlaces : List (Nat × Nat) :=
  [(0, 2), (0, 7), (0, 12), (0, 17), (0, 22), (47, 3), (47, 9), (47, 15), (47, 21), (0, 26), (0, 32), (0, 38), (0, 44),
    (47, 25), (47, 30), (47, 35), (47, 40), (47, 45)]

/-- The dies on the way from one die to another, across in x and then along in y (R11). -/
def diesBetween (a b : Nat) : List Nat := [a, 2 * (a / 2) + b % 2, b]
/-- The way to a die and back. -/
def diesThere (a b : Nat) : List Nat := diesBetween a b ++ diesBetween b a
def dieOfPort (n : Nat) : Nat := ((portPlaces[n]?).map fun x => dieOf (posOf x.1 x.2)).getD 0
/-- The die of a sender: a core, or welt port n as 2304 + n (R416). -/
def dieOfSender (p : Nat) : Nat := if p < nCorePositions then dieOf p else dieOfPort (p - 2304)
/-- The die of a home: a station, or the vault gate of a position (R201). -/
def dieOfHome (h : Nat) : Nat := if 1000 ≤ h then dieOf (h - 1000) else h / 96
/-- The die that holds a byte: bits 39:38 of an LPDDR address are the die's number (R199, R201). -/
def dieOfKey (k : Nat) : Nat :=
  if k < 2 ^ 48 then k / 2 ^ 38 % 4 else if k < 2 ^ 49 then dieOf ((k - 2 ^ 48) / 2 ^ 22) else dieOf ((k - 2 ^ 49) / 2 ^ 20)
/-- The die of the welt port by which packets for a module leave; where no port is set, the sender's own. -/
def State.dieToModule (s : State) (p : Nat) (m : BitVec 13) : Nat := ((NMap.find s.io.routes m.toNat).map dieOfPort).getD (dieOf p)

/-- The die that an access of core `p` goes to: of a core, of a home, or of the welt port to another module. -/
def State.dieAt (s : State) (p : Nat) (a : Word) : Nat :=
  match s.space p a with
  | some (.lm q _) | some (.ctl q _) => dieOf q
  | some (.away m _ _ _) => s.dieToModule p m
  | some sp => ((s.placeOf p sp).map fun pl => if pl.module = 0x1FFF then dieOfHome pl.home else s.dieToModule p pl.module).getD (dieOf p)
  | none => dieOf p

/-- The dies that an access passes, there and back. -/
def State.reach (s : State) (p : Nat) (a : Word) : List Nat := diesThere (dieOf p) (s.dieAt p a)
/-- No die on the way relocks: nothing crosses the seams of one that does (R394). -/
def State.reachable (s : State) (p : Nat) (a : Word) : Bool := !s.relocks || (s.reach p a).all fun d => !s.relocking d

/-! ### Instruction lines (R44, R45) -/

def State.icLine (s : State) (pos : Nat) (va : Word) : Option Line :=
  let c := s.core pos
  ((NMap.get [] s.icache (clusterOf pos)).find? fun l => l.tag == c.tag && l.ctx == c.ctx && l.va == va).map (·.line)

/-- A line enters the cluster's cache of 4,096 lines (R45); a full cache drops the line that was put in longest ago (log 79, DESIGN
CHOICE: the manual does not say which). -/
def State.icPut (s : State) (pos : Nat) (va : Word) (l : Line) : State :=
  let c := s.core pos
  let old := (NMap.get [] s.icache (clusterOf pos)).filter fun e => !(e.tag == c.tag && e.ctx == c.ctx && e.va == va)
  { s with icache := NMap.set s.icache (clusterOf pos) (⟨c.tag, c.ctx, va, l⟩ :: old.take 4095) }

/-- Every cluster's cache drops the lines of a page (R44, R217). -/
def State.icDrop (s : State) (tag : BitVec 6) (ctx : BitVec 3) (base : Word) (size : BitVec 2) : State :=
  { s with
    icache := s.icache.map fun e =>
      (e.1, e.2.filter fun l => !(l.tag == tag && l.ctx == ctx && pageBase l.va size == base)) }

/-- A fetch of a line from device memory: the line, or the trap cause (R44, R200); `away` when another module holds it. -/
inductive Fetched where
  | line (l : Line)
  | trap (cause : Byte) (walk : Bool)
  | away
  deriving DecidableEq, Repr

def State.fetchLine (s : State) (pos : Nat) (va : Word) : Fetched :=
  let c := s.core pos
  match s.walk c.tag c.ctx va true with
  | none => .trap 0x04 true
  | some l =>
    if !s.isOwn l.module then .away
    else if !(s.region l.key).fetchable then .trap 0x06 false
    else .line (BitVec.ofNat 512 (s.mem.readNat (l.key + va.toNat % pageLen l.size) 64))

/-- LPAR and the reserved bits of a line word (R33 to R35). -/
def xorBits (n : Nat) (x : Nat) : Bool := (List.range n).foldl (fun b i => b != x.testBit i) false
def lineWordOk (l : Line) : Bool :=
  let w := lineWord l
  w.extractLsb' 30 2 == 0 && w.extractLsb' 13 11 == 0 && xorBits 24 (w.extractLsb' 0 24).toNat == w.getLsbD 29
/-- PAR of slot `k` (R34, R35). -/
def slotOk (l : Line) (k : Nat) : Bool := xorBits 96 (slotWord l k).toNat == (lineWord l).getLsbD (24 + k)
def slotStream (l : Line) (k : Nat) : Bool := (lineWord l).getLsbD (5 + k)
def slotTgt (l : Line) (k : Nat) : Bool := (lineWord l).getLsbD k

/-! ### The store buffer (R208, R224 to R226) -/

def lineOf (key : Nat) : Nat := key / 64 * 64

/-- The bytes of a store within one line as mask and data. -/
def lineMask (off n : Nat) : Word := BitVec.ofNat 64 ((2 ^ n - 1) * 2 ^ off)
def lineData (off x : Nat) : Vec := BitVec.ofNat 512 (x * 2 ^ (8 * off))

/-- Spread a byte mask over bits. -/
def spreadMask (m : Word) : Vec := BitVec.ofNat 512 (((List.range 64).map fun i => if m.getLsbD i then 255 * 2 ^ (8 * i) else 0).sum)

/-- The youngest entry that holds a byte gives it (R225). -/
def sbByte (es : List SBEntry) (module : BitVec 13) (key : Nat) : Option Byte :=
  (es.reverse.find? fun e => e.module == module && e.line == lineOf key && e.mask.getLsbD (key % 64)).map fun e =>
    e.data.extractLsb' (8 * (key % 64)) 8

/-- A number read from device memory on this module with the store buffer's bytes in front (R225). -/
def State.devRead (s : State) (pos key : Nat) : Nat → Nat
  | 0 => 0
  | n + 1 =>
    ((sbByte (s.core pos).sbuf 0x1FFF key).getD (s.mem.read key)).toNat + 256 * s.devRead pos (key + 1) n

/-- Whether a younger store may merge into entry `e`, which is the youngest of its line; `younger` are the entries after it (R224). -/
def canMerge (e : SBEntry) (younger : List SBEntry) (slot : Nat) (rel : Bool) : Bool :=
  !rel && e.slot == slot && !e.release && e.sent.isNone && !(younger.any fun f => f.release && f.slot == slot)

def mergeInto (mask : Word) (data : Vec) (e : SBEntry) : SBEntry :=
  { e with mask := e.mask ||| mask, data := (e.data &&& ~~~(spreadMask mask)) ||| data }

/-- The buffer with a store merged into the youngest entry of its line, or none where it takes a new entry (R224). -/
def sbMerge (es : List SBEntry) (slot : Nat) (module : BitVec 13) (line : Nat) (mask : Word) (data : Vec) (rel : Bool) :
    Option (List SBEntry) :=
  let younger := es.reverse.takeWhile fun e => !(e.line == line && e.module == module)
  match es.reverse.drop younger.length with
  | [] => none
  | e :: older =>
    if canMerge e younger slot rel then some (older.reverse ++ mergeInto mask data e :: younger.reverse) else none

/-- A store enters the buffer; a full buffer makes it wait (R224). -/
def State.sbEnter (s : State) (t : StreamId) (pl : Place) (off n x : Nat) (rel : Bool) : Run State :=
  let c := s.core t.core
  let mask := lineMask (off % 64) n
  let data := lineData (off % 64) x
  let line := lineOf off
  match sbMerge c.sbuf t.slot pl.module line mask data rel with
  | some es => .ok (s.setCore t.core (Core.pmCount { c with sbuf := es } 0x06 (some t.slot) 1))
  | none =>
    if 16 ≤ c.sbuf.length then .error (.hold s)
    else
      let e : SBEntry := ⟨c.sbNext, t.slot, t.acc, (c.slot t.slot).fseq, line, pl.rkey, pl.module, pl.home, mask, data, rel, none, pl.va, none⟩
      .ok (s.setCore t.core (Core.pmCount { c with sbuf := c.sbuf ++ [e], sbNext := c.sbNext + 1 } 0x06 (some t.slot) 1))

/-- A region enters the grant cache of 32 entries as the most recently used (R208). -/
def Core.grant (c : Core) (key : Nat) : Core := { c with grants := (key :: c.grants.filter (· != key)).take 32 }
def Core.ungrant (c : Core) (key : Nat) : Core := { c with grants := c.grants.filter (· != key) }

/-! ### The dirty log (R221, R222) -/

/-- The byte of a context's memory at a VA, where it lies on this module. -/
def State.vaKey (s : State) (tag : BitVec 6) (ctx : BitVec 3) (va : Word) : Option Nat :=
  (s.walk tag ctx va false).bind fun l => if s.isOwn l.module then some (l.key + va.toNat % pageLen l.size) else none

/-- The global identifier of a partition (R347). -/
def State.gpidOf (s : State) (tag : BitVec 6) : BitVec 16 := ((s.coresOf tag).head?.map fun p => (s.core p).gpid).getD 0

/-- The word at a VA of a context, and its replacement. A word of another module nothing here decides, and its replacement leaves by a welt
port (log 17). -/
def State.vaWord (s : State) (tag : BitVec 6) (ctx : BitVec 3) (va : Word) : Word :=
  match s.walk tag ctx va false with
  | some l =>
    if s.isOwn l.module then BitVec.ofNat 64 (s.mem.readNat (l.key + va.toNat % pageLen l.size) 8)
    else Config.freeWord (s.free + va.toNat % 64 / 8)
  | none => 0
def State.setVaWord (s : State) (tag : BitVec 6) (ctx : BitVec 3) (va x : Word) : State :=
  match s.walk tag ctx va false with
  | some l =>
    let k := l.key + va.toNat % pageLen l.size
    if s.isOwn l.module then s.store k 8 x.toNat
    else { s with weltOut := s.weltOut ++
      [.store l.module (s.gpidOf tag) (lineOf k) (lineMask (k % 64) 8) (lineData (k % 64) x.toNat)] }
  | none => s

/-- Words of another module that have been read are not read again. -/
def State.vaUsed (s : State) (tag : BitVec 6) (ctx : BitVec 3) (va : Word) : State :=
  if (s.walk tag ctx va false).any fun l => !s.isOwn l.module then { s with free := s.free + 8 } else s

/-- A write by a context to a region at VA `va`: the first of the round is appended to the context's log area, which the supervisor
core's context maps. A log area that no leaf maps takes no entry and sets neither mark nor OVF (log 80, DESIGN CHOICE). -/
def State.dirty (s : State) (tag : BitVec 6) (ctx : BitVec 3) (rkey : Nat) (va : Word) : State :=
  let d := (s.ctx tag.toNat ctx.toNat).dlog
  let r := s.region rkey
  if !d.getLsbD 63 || d.getLsbD 62 || r.dirty then s
  else
    let base := d &&& 0x00FFFFFFFFFFFFFF
    if (s.walk tag ctx base false).isNone then s
    else
      let put := (s.vaWord tag ctx base).toNat
      let take := (s.vaWord tag ctx (base + 8)).toNat
      let s := s.vaUsed tag ctx base
      if 4096 < (put + 1 + 2 ^ 32 - take % 2 ^ 32) % 2 ^ 32 then
        s.modCtx tag.toNat ctx.toNat fun c => { c with dlog := c.dlog ||| (1#64 <<< 62) }
      else
        let s := s.modRegion rkey fun r => { r with dirty := true }
        let s := s.setVaWord tag ctx (base + BitVec.ofNat 64 (64 + 8 * (put % 4096))) ((va &&& 0x00FFFFFFFFFF0000) ||| (r.size.setWidth 64))
        s.setVaWord tag ctx base (BitVec.ofNat 64 ((put + 1) % 2 ^ 32))

/-! ### Scalar access to device memory -/

/-- The stream waits in an instruction that has not completed; `line` is the address that it waits for. -/
def State.await (s : State) (t : StreamId) (k : WaitKind) (i : Instr) (deadline : Option Word) (line : Option Word := none) : State :=
  s.modStrm t fun st => { st with pend := some ⟨k, i, deadline, none, line⟩ }

/-- A scalar access finds its place: an untranslated vault address at once, a virtual one through its serving station, whose cache
it waits for while a walk runs (R201, R202). -/
def State.scalarPlace (s : State) (t : StreamId) (i : Instr) (sp : Space) (ea : Word) : Run Place :=
  let c := s.core t.core
  match sp with
  | .vault p off => .ok (s.vaultPlace p off ea)
  | .virt va =>
    let n := stationOf t.core va
    let st := s.station n
    match st.hit c.tag c.ctx va with
    | some e =>
      match leafOf va 0 e.leaf with
      | some l => .ok (s.leafPlace va l)
      | none => trapAt 0x04 ea
    | none =>
      let page := s.pageOf c.tag c.ctx va
      let mine (w : Walk) : Bool := w.tag == c.tag && w.ctx == c.ctx && w.va == page
      let joined := st.walks.any mine
      let walks :=
        if joined then st.walks.map fun w => if mine w then { w with streams := w.streams ++ [t] } else w
        else st.walks ++ [⟨c.tag, c.ctx, page, [t]⟩]
      let count (c : Core) : Core := (c.pmCount 0x20 none 1).pmCount 0x21 none (if joined then 0 else 1)
      .error (.hold (((s.setStation n { st with walks := walks }).modCore t.core count).await t .walk i none (some ea)))
  | _ => trapAt 0x04 ea

end Sys2Proof.Machine
end

