-- ==== Sys2Proof/Machine/Operands.lean ====
section
/-!
DEFINITION. The operand forms: the memory operand (R54), operand a with its queue form and the result (R90, R97), the fields stepped by
REP (R51, R91), and the registers, predicate stack and memory that each instruction uses, from which the issue stage interlocks the two
streams (R41).
-/
namespace Sys2Proof

/-- QA and QD of the scalar groups (R90). -/
def FmtA.qa (f : FmtA) : Bool := f.md.getLsbD 5
def FmtA.qd (f : FmtA) : Bool := f.md.getLsbD 4
/-- The function bits of format V (R159). -/
def FmtV.qa (f : FmtV) : Bool := f.fn.getLsbD 5
def FmtV.qd (f : FmtV) : Bool := f.fn.getLsbD 4
def FmtV.var (f : FmtV) : Bool := f.fn.getLsbD 2
def FmtV.bs (f : FmtV) : Bool := f.fn.getLsbD 1
def FmtV.sat (f : FmtV) : Bool := f.fn.getLsbD 0
/-- The type code and the width of an element (R154). -/
def FmtV.tyNo (f : FmtV) : Nat := f.ty.toNat
def FmtV.w (f : FmtV) : Nat := Machine.tyWidth f.ty

end Sys2Proof

namespace Sys2Proof.Machine

/-! ### Memory operand (R54) -/

def memSum (a b : Word) (sh : Nat) (imm : BitVec 48) : Word := a + (b <<< sh) + imm.signExtend 64

/-- The address keeps the space tag of its base (R54). -/
def State.memOperand (s : State) (t : StreamId) (f : FmtA) : Run Word :=
  let ea := memSum (s.reg t f.a) (s.reg t f.b) (f.md.extractLsb' 0 3).toNat f.imm
  if addrTag ea != addrTag (s.reg t f.a) then trapAt 0x04 ea else .ok ea

/-! ### Scalar operands (R90, R97) -/

/-- Operand a: a register, or bits 63:0 of the entry that is popped. -/
def State.operandA (s : State) (t : StreamId) (f : FmtA) : Word :=
  if f.qa then (s.queueHead t f.a.toNat).extractLsb' 0 64 else s.reg t f.a

/-- The result: pushed zero-extended, or written to s[D]; the pop takes effect with it (R90). -/
def State.resultA (s : State) (t : StreamId) (f : FmtA) (r : Word) : State :=
  let s := if f.qa then s.pop t f.a.toNat else s
  if f.qd then s.push t f.d.toNat (r.setWidth 512) else s.setReg t f.d r

/-- Operand b of the two-operand forms: register, sign-extended or zero-extended immediate (R97). -/
def immS (f : FmtA) : Word := f.imm.signExtend 64
def immZ (f : FmtA) : Word := f.imm.setWidth 64

/-! ### Fields stepped by REP (R51, R91) -/

def stepField {n : Nat} (x : BitVec n) (k : Nat) (stride : Byte) : BitVec n := BitVec.ofInt n (x.toNat + k * stride.toInt)

def stepA (f : FmtA) (k : Nat) (r : FmtR) : FmtA :=
  { f with d := stepField f.d k r.sd, a := stepField f.a k r.sa, b := stepField f.b k r.sb, c := stepField f.c k r.sc }
def stepV (f : FmtV) (k : Nat) (r : FmtR) : FmtV :=
  { f with d := stepField f.d k r.sd, a := stepField f.a k r.sa, b := stepField f.b k r.sb, c := stepField f.c k r.sc }

/-- A used field stays within `lo..hi` for every repetition, and an unused one has stride 0 (R51). -/
def fieldOk (used : Bool) (lo hi : Int) (x : Nat) (count : Byte) (stride : Byte) : Bool :=
  let last : Int := x + ((count.toNat : Int) - 1) * stride.toInt
  if used then decide (lo ≤ last) && decide (last ≤ hi) else stride == 0

/-- The queues that a stream may read and write (R89). -/
def readQueues (acc : Bool) : Int × Int := if acc then (4, 7) else (0, 3)
def writeQueues (acc : Bool) : Int × Int := if acc then (0, 3) else (4, 7)

def queueOk (q : Int × Int) (x : Nat) : Bool := decide (q.1 ≤ x) && decide ((x : Int) ≤ q.2)

/-- Which of the fields D, A and C name queues in an instruction of format A: by QD and QA, in LDQ's D and in STQ's C. -/
structure QueueUse where
  d : Bool
  a : Bool
  c : Bool
  deriving DecidableEq, Repr

def queueUseA (op : Byte) (f : FmtA) : QueueUse :=
  if op == 0x5A then ⟨true, false, false⟩
  else if op == 0x5B then ⟨false, false, true⟩
  else if (0x20#8).ule op && op.ule 0x3F || (0x48#8).ule op && op.ule 0x55 then ⟨f.qd, f.qa, false⟩
  else ⟨false, false, false⟩

def limits (q : Bool) (qs : Int × Int) (hi : Int) : Int × Int := if q then qs else (0, hi)

def repOkA (u : Used) (q : QueueUse) (acc : Bool) (f : FmtA) (r : FmtR) : Bool :=
  let ld := limits q.d (writeQueues acc) 63
  let la := limits q.a (readQueues acc) 63
  let lc := limits q.c (readQueues acc) 63
  fieldOk u.d ld.1 ld.2 f.d.toNat r.count r.sd && fieldOk u.a la.1 la.2 f.a.toNat r.count r.sa &&
    fieldOk u.b 0 63 f.b.toNat r.count r.sb && fieldOk u.c lc.1 lc.2 f.c.toNat r.count r.sc

/-- VB is not used where BS takes operand b from a scalar register (R159), in a shift by immediate (R160), and in VQNT of a 16-bit
source (R169). -/
def usesVb (u : Used) (op : Byte) (f : FmtV) : Bool :=
  u.b && !(f.bs && u.e && op != 0xA6) && !((0x94#8).ule op && op.ule 0x96 && f.var) &&
    !(op == 0xA6 && f.imm.extractLsb' 0 4 != 11)

def repOkV (u : Used) (op : Byte) (acc : Bool) (f : FmtV) (r : FmtR) : Bool :=
  let ld := limits f.qd (writeQueues acc) 31
  let la := limits f.qa (readQueues acc) 31
  fieldOk u.d ld.1 ld.2 f.d.toNat r.count r.sd && fieldOk u.a la.1 la.2 f.a.toNat r.count r.sa &&
    fieldOk (usesVb u op f) 0 31 f.b.toNat r.count r.sb && fieldOk u.c 0 31 f.c.toNat r.count r.sc

/-! ### What an instruction uses (R41, R88) -/

structure Uses where
  sr : Word
  sw : Word
  vr : BitVec 32
  vw : BitVec 32
  pr : Bool
  pw : Bool
  /-- it takes a place in the slot's order of accesses -/
  mem : Bool
  /-- it is itself an access that older vector accesses hold back (R166) -/
  touches : Bool
  vec : Bool
  deriving DecidableEq, Repr

def Uses.none : Uses := ⟨0, 0, 0, 0, false, false, false, false, false⟩
def Uses.union (x y : Uses) : Uses :=
  ⟨x.sr ||| y.sr, x.sw ||| y.sw, x.vr ||| y.vr, x.vw ||| y.vw, x.pr || y.pr, x.pw || y.pw, x.mem || y.mem,
    x.touches || y.touches, x.vec || y.vec⟩

/-- A set of scalar registers; s0 is no register that one waits for (R87). -/
def sbit (c : Bool) (r : BitVec 6) : Word := if c then (1#64 <<< r.toNat) &&& ~~~1#64 else 0
def srange (r : BitVec 6) (n : Nat) : Word := BitVec.ofNat 64 ((2 ^ n - 1) * 2 ^ r.toNat) &&& ~~~1#64
def vbit (c : Bool) (r : BitVec 5) : BitVec 32 := if c then 1#32 <<< r.toNat else 0

/-- Instructions of format A that take a place in the slot's order of accesses (R41 item 5): every access, ERET's of the frame and LCTW's of
the table among them, CBCFG and CBGIVE (R195), and FENCE, which covers what is older (R230). A waiting CBTAKE holds back its own stream
alone (R195), and FTEST nothing (R233). -/
def memA (op : Byte) : Bool :=
  (0x58#8).ule op && op.ule 0x6E && op != 0x64 || op == 0x71 || op == 0x73 || op == 0x74 || op == 0x79 || op == 0xF2 || op == 0xF4 ||
    op == 0xF5 || op == 0xF7
/-- CBCFG, CBGIVE and FENCE are no accesses of memory: what a vector store left in the store buffer does not hold them back. -/
def touchesA (op : Byte) : Bool := memA op && op != 0x63 && op != 0x65 && op != 0x6E

def usesA (op : Byte) (u : Used) (f : FmtA) : Uses :=
  let q := queueUseA op f
  let literalC := op == 0x52 || op == 0x79
  let literalD := op == 0x5C || op == 0x71
  let bRegs :=
    if op == 0x70 then srange f.b f.imm.toNat
    else if op == 0x72 then srange f.b 4
    else sbit u.b f.b
  { sr := sbit (u.a && !q.a) f.a ||| bRegs ||| sbit (u.c && !q.c && !literalC) f.c
    sw := sbit (u.d && !q.d && !literalD) f.d
    vr := 0
    vw := 0
    pr := op == 0xF0
    pw := false
    mem := memA op
    touches := touchesA op
    vec := false }

def usesB (op : Byte) (f : FmtB) : Uses :=
  { Uses.none with
    sr := sbit true f.a ||| sbit true f.b ||| sbit (op == 0x15) 63
    sw := sbit true f.d ||| sbit (op == 0x16) f.a ||| sbit (op == 0x13 || op == 0x14 && f.fn == 1) 63 }

def usesV (op : Byte) (u : Used) (f : FmtV) : Uses :=
  let writesS := op == 0x87 || (0x9B#8).ule op && op.ule 0x9D || op == 0x9F || op == 0xA6 || op == 0xA8
  let vcmp := op == 0x97
  { sr := sbit (u.e && (!writesS || op == 0xA8)) f.s
    sw := sbit (u.e && writesS) f.s
    vr := vbit (u.a && !f.qa) f.a ||| vbit (usesVb u op f) f.b ||| vbit u.c f.c ||| vbit (u.d && !f.qd) f.d
    vw := vbit (u.d && !f.qd) f.d
    pr := f.p || vcmp || op == 0x98 || op == 0x99 || op == 0x9A || op == 0x9F || op == 0x87
    pw := vcmp || op == 0x98 || op == 0x99
    mem := op.ule 0x85 || op == 0xA9
    touches := op.ule 0x85 || op == 0xA9
    vec := true }

def usesE (op : Byte) (u : Used) (f : FmtE) : Uses :=
  { Uses.none with
    sr := sbit u.a f.a ||| sbit u.b f.b ||| sbit u.c f.c ||| sbit u.e f.e
    sw := sbit u.d f.d
    mem := op != 0x7A
    touches := op != 0x7A }

def Form.uses : Form → Uses
  | .a op u _ f => usesA op u f
  | .b op _ _ f => usesB op f
  | .v op u _ f => usesV op u f
  | .e op u _ f => usesE op u f
  | _ => Uses.none

/-- The form of repetition `k` (R51). -/
def Form.stepped (k : Nat) (r : FmtR) : Form → Form
  | .a op u ok f => .a op u ok (stepA f k r)
  | .v op u ok f => .v op u ok (stepV f k r)
  | x => x

/-- What repetitions `k`, `k + 1`, … of an instruction use. -/
def Form.usesRep (x : Form) (rep : Option FmtR) : Uses :=
  match rep with
  | none => x.uses
  | some r => iter r.count.toNat (fun k u => u.union (x.stepped k r).uses) Uses.none

/-- An instruction must wait for an earlier one that has not executed: it reads what that one writes, writes what that one reads or
writes, or both access memory (R41 items 4 and 5), or both are vector instructions (R173). -/
def Uses.waitsFor (later earlier : Uses) : Bool :=
  (later.sr &&& earlier.sw) != 0 || (later.sw &&& (earlier.sr ||| earlier.sw)) != 0 ||
  (later.vr &&& earlier.vw) != 0 || (later.vw &&& (earlier.vr ||| earlier.vw)) != 0 ||
  later.pr && earlier.pw || later.pw && (earlier.pr || earlier.pw) || later.mem && earlier.mem ||
  later.vec && earlier.vec

end Sys2Proof.Machine
end

