-- ==== Sys2Proof/Machine/Flags.lean ====
section
/-!
DEFINITION. The flag computations of the manual: the condition codes of format B (R38), the comparisons of VCMP on integers (R157), and
the fields of STATUS that instructions read (R93, R106).
-/
namespace Sys2Proof.Machine

/-- R38; codes 7 to 63 are reserved and do not decode. -/
def condHolds (fn : BitVec 6) (a b : Word) : Bool :=
  match fn.toNat with
  | 0 => true
  | 1 => a == b
  | 2 => a != b
  | 3 => a.slt b
  | 4 => !a.slt b
  | 5 => a.ult b
  | _ => !a.ult b

/-- The six ordered conditions of VCMP from a three-way comparison; `ord` is true and `unord` false for ordered operands (R157). -/
def ordHolds (cc : BitVec 3) (o : Ordering) : Bool :=
  match cc.toNat with
  | 0 => o == .eq
  | 1 => o != .eq
  | 2 => o == .lt
  | 3 => o != .gt
  | 4 => o == .gt
  | 5 => o != .lt
  | 6 => true
  | _ => false

/-- The conditions when an operand is a NaN: `ne` and `unord` are true and every other one false (R157). -/
def unordHolds (cc : BitVec 3) : Bool := cc == 1 || cc == 7

def compareInt (a b : Int) : Ordering := if a < b then .lt else if a = b then .eq else .gt

/-- STATUS of the issuing stream (R93). -/
def State.status (s : State) (t : StreamId) : Word := (s.slot t).status t.slot t.acc

end Sys2Proof.Machine
end

