-- ==== Sys2Proof/Machine/Issue.lean ====
section
/-!
DEFINITION. Issue of one instruction of each format: the checks at decode (R41, R46 to R51, R56 step 4, R89, R91), the waits on queues
(R89, R90), one repetition at a time under REP (R51, R52), and what follows the instruction's own effect: the stream moves on, or a trap
is taken.
-/
namespace Sys2Proof.Machine

/-- What an instruction's entry says about its issue: OP, the fields it uses, whether it takes FMT and REP, and the stream in which it
must stand. -/
structure Entry where
  op : Byte
  u : Used
  fmt : Bool
  rep : Bool
  str : Option Bool
  deriving DecidableEq, Repr

/-- The instruction has completed: its prefixes are consumed and the stream moves on, or the next repetition follows (R47, R51). -/
def Strm.retire (st : Strm) : Strm :=
  let st := { st with pend := none, deadline := none, snap := [], asked := [], reread := none }
  if st.rep.isSome && (1#8).ult st.repcnt then { st with repcnt := st.repcnt - 1 }
  else { st with fmt := none, rep := none, repcnt := 0, pc := nextPc st.pc }

def State.retire (s : State) (t : StreamId) : State := (s.modStrm t Strm.retire).completed t

/-- R51: with COUNT = 0, or with no repetition left, the instruction performs nothing and the prefixes are consumed. -/
def State.consume (s : State) (t : StreamId) : State :=
  s.modStrm t fun st => { st with fmt := none, rep := none, repcnt := 0, pc := nextPc st.pc, reread := none }

/-- What follows an instruction's body; a trap leaves the state as the instruction found it (R6, R56). -/
def State.finish (s : State) (t : StreamId) : Run State → State
  | .ok s' => s'.retire t
  | .error (.trap cause addr) => s.precise t cause addr
  | .error (.walkFault addr) => s.trapEntry t 0x04 addr 0 (some (granuleOf addr))
  | .error (.hold s') => s'

/-- Only RND of an FMT may be set before an instruction other than MTASK (R50). -/
def fmtPlain (p : FmtF) : Bool := p.ta == 0 && p.tb == 0 && p.tc == 0 && p.ts == 0 && p.slc == 0 && !p.pset

/-- R41, R48: the instruction stands in the wrong stream, or a prefix is pending that it does not take. -/
def Entry.illegal (e : Entry) (t : StreamId) (st : Strm) : Bool :=
  (match e.str with | some a => a != t.acc | none => false) || (st.fmt.isSome && !e.fmt) || (st.rep.isSome && !e.rep)

/-- R50: the fields of a pending FMT, and the instruction's own rounding field, for an instruction other than MTASK. -/
def fmtBad (st : Strm) (ownRnd : Bool) : Bool :=
  match st.fmt with
  | some p => !fmtPlain p || ownRnd
  | none => false

/-- The rounding code: FMT's, otherwise the instruction's own (R50). -/
def Strm.rm (st : Strm) (own : Nat) : Nat :=
  match st.fmt with
  | some p => p.rnd.toNat
  | none => own

/-- The stream has nothing left before the END that ends the firing: the access stream has followed every transfer, the execute stream has
none to follow (R41, R128). -/
def State.atEnd (s : State) (t : StreamId) (acc : Bool) : Bool :=
  let sl := s.slot t
  let pc := (sl.strm acc).pc
  (!acc || sl.resolved.isEmpty) &&
    match s.icLine t.core (pcLine pc) with
    | some l => opOf (slotWord l (pcSlot pc)) == 0x17 && !slotStream l (pcSlot pc)
    | none => false

/-- How the queues let an instruction issue (R89, R128). -/
inductive Gate where
  | go
  | wait
  | illegal
  deriving DecidableEq, Repr

def Gate.and : Gate → Gate → Gate
  | .illegal, _ => .illegal
  | _, .illegal => .illegal
  | .wait, _ => .wait
  | _, .wait => .wait
  | .go, .go => .go

/-- A read of an empty queue waits; once the execute stream stands at END nothing can fill it and the read traps (R128). -/
def State.readGate (s : State) (t : StreamId) (uses : Bool) (k : Nat) : Gate :=
  if !uses then .go
  else if !queueOk (readQueues t.acc) k then .illegal
  else if ((s.slot t).queue k).isEmpty then (if t.acc && s.atEnd t false then .illegal else .wait)
  else .go

/-- A write to a full queue waits; at END it completes by discarding its entry (R128). -/
def State.writeGate (s : State) (t : StreamId) (uses : Bool) (k : Nat) : Gate :=
  if !uses then .go
  else if !queueOk (writeQueues t.acc) k then .illegal
  else if 8 ≤ ((s.slot t).queue k).length then (if s.atEnd t (!t.acc) then .go else .wait)
  else .go

/-! ### Format A -/

def State.onceA (s : State) (t : StreamId) (e : Entry) (body : StreamId → FmtA → State → Run State) (f : FmtA) : State :=
  let q := queueUseA e.op f
  match ((s.writeGate t q.d f.d.toNat).and (s.readGate t q.a f.a.toNat)).and (s.readGate t q.c f.c.toNat) with
  | .illegal => s.precise t 0x01 none
  | .wait => s
  | .go => s.finish t (body t f s)

/-- A field names a queue that the stream may not use; it is decoded so under a COUNT of 0 too (R51, R56 step 4, R89). -/
def queueIllegalA (op : Byte) (acc : Bool) (f : FmtA) : Bool :=
  let q := queueUseA op f
  (q.d && !queueOk (writeQueues acc) f.d.toNat) || (q.a && !queueOk (readQueues acc) f.a.toNat) ||
    (q.c && !queueOk (readQueues acc) f.c.toNat)

def State.runA (s : State) (t : StreamId) (e : Entry) (stepOk : FmtA → Bool) (body : StreamId → FmtA → State → Run State)
    (f : FmtA) : State :=
  let st := s.strm t
  if e.illegal t st || fmtBad st (f.md.extractLsb' 0 3 != 0) then s.precise t 0x01 none
  else
    match st.rep with
    | none => s.onceA t e body f
    | some r =>
      if queueIllegalA e.op t.acc f then s.precise t 0x01 none
      else if r.count = 0 then s.consume t
      else if !repOkA e.u (queueUseA e.op f) t.acc f r then s.precise t 0x01 none
      else if st.repcnt = 0 then s.consume t
      else
        let f' := stepA f (r.count - st.repcnt).toNat r
        if stepOk f' then s.onceA t e body f' else s.precise t 0x01 none

/-- Run an instruction of format A for the stream that issues. `stepOk` says of a repetition's fields that they hold values the entry
defines (R29). -/
def issueA (e : Entry) (stepOk : FmtA → Bool) (body : StreamId → FmtA → State → Run State) (f : FmtA) (s : State) :
    Host.Outcome State Fault Refusal :=
  match s.cur with
  | .stream t => .next (s.runA t e stepOk body f)
  | _ => .next s

def anyFields (_ : FmtA) : Bool := true

/-! ### Format V -/

/-- A late condition of a vector memory instruction: status, address of the lowest faulting lane, and whether a walk failed (R165). -/
structure VLate where
  status : Byte
  addr : Word
  walk : Bool
  deriving DecidableEq, Repr

/-- How a vector instruction has ended at issue: it has performed, its bytes stand in the store buffer, or it has met a late condition
(R173, R174). -/
inductive VEnd where
  | performed
  | buffered
  | late (l : VLate)
  deriving DecidableEq, Repr

/-- A vector instruction issues (R404). -/
def State.countVector (s : State) (t : StreamId) : State := s.modCore t.core fun c => c.pmCount 0x05 (some t.slot) 1

/-- A vector instruction of the slot has met a late condition, and its stream has not heard of it yet (R174). -/
def Slot.vecFaulted (sl : Slot) : Bool := sl.x.late.any (·.kind == .vector) || sl.a.late.any (·.kind == .vector)

/-- A younger vector instruction than one that has faulted: it takes its number and its place in the ring and does nothing more; nobody
reads the scalar register that it names before the trap (R52, R173, R174). -/
def State.cancelV (s : State) (t : StreamId) (word : IWord) (sw : Word) : State :=
  (((s.modSlot t fun sl => { sl with lost := sl.lost ||| sw }).countVector t).dispatch t word .cancelled 0).retire t

/-- The instruction takes its sequence number and its entry in the ring, which a store whose bytes are buffered has still to complete (R173);
a late condition is left pending (R174). -/
def State.finishV (s : State) (t : StreamId) (word : IWord) : Run (State × VEnd) → State
  | .ok (s', .performed) => ((s'.countVector t).dispatch t word .completed 0).retire t
  | .ok (s', .buffered) => ((s'.countVector t).dispatch t word .issued 0).retire t
  | .ok (s', .late l) =>
    let seq := (s'.core t.core).dseq
    (((s'.countVector t).dispatch t word .faulted l.status).retire t).modStrm t fun st =>
      st.alsoLate [⟨0x0C, l.addr, l.status ++ seq, .vector, s'.time, none⟩]
  | .error (.trap cause addr) => s.precise t cause addr
  | .error (.walkFault addr) => s.trapEntry t 0x04 addr 0 (some (granuleOf addr))
  | .error (.hold s') => s'

def State.onceV (s : State) (t : StreamId) (e : Entry) (body : StreamId → FmtV → State → Run (State × VEnd)) (f : FmtV) :
    State :=
  match (s.writeGate t (f.qd && e.u.d) f.d.toNat).and (s.readGate t (f.qa && e.u.a) f.a.toNat) with
  | .illegal => s.precise t 0x01 none
  | .wait => s
  | .go =>
    match body t f s with
    | .ok r =>
      if (s.slot t).vecFaulted then s.cancelV t (packV e.op f) (usesV e.op e.u f).sw else s.finishV t (packV e.op f) (.ok r)
    | .error e' => s.finishV t (packV e.op f) (.error e')

/-- A vector instruction names a queue against its direction (R89). -/
def queueIllegalV (u : Used) (t : StreamId) (f : FmtV) : Bool :=
  (f.qd && u.d && !queueOk (writeQueues t.acc) f.d.toNat) || (f.qa && u.a && !queueOk (readQueues t.acc) f.a.toNat)

def State.runV (s : State) (t : StreamId) (e : Entry) (body : StreamId → FmtV → State → Run (State × VEnd)) (f : FmtV) :
    State :=
  let st := s.strm t
  if e.illegal t st || fmtBad st (f.rnd != 0) then s.precise t 0x01 none
  else
    match st.rep with
    | none => s.onceV t e body f
    | some r =>
      if queueIllegalV e.u t f then s.precise t 0x01 none
      else if r.count = 0 then s.consume t
      else if !repOkV e.u e.op t.acc f r then s.precise t 0x01 none
      else if st.repcnt = 0 then s.consume t
      else s.onceV t e body (stepV f (r.count - st.repcnt).toNat r)

def issueV (e : Entry) (body : StreamId → FmtV → State → Run (State × VEnd)) (f : FmtV) (s : State) :
    Host.Outcome State Fault Refusal :=
  match s.cur with
  | .stream t => .next (s.runV t e body f)
  | _ => .next s

/-- A body with no late condition. -/
def prompt (body : StreamId → FmtV → State → Run State) (t : StreamId) (f : FmtV) (s : State) : Run (State × VEnd) := do
  let s ← body t f s
  .ok (s, .performed)

/-! ### Format E: no REP; FMT only for MTASK, whose entry uses all its fields (R48, R50) -/

def issueE (e : Entry) (body : StreamId → FmtE → State → Run State) (f : FmtE) (s : State) : Host.Outcome State Fault Refusal :=
  match s.cur with
  | .stream t => .next (if e.illegal t (s.strm t) then s.precise t 0x01 none else s.finish t (body t f s))
  | _ => .next s

/-! ### Lines and control transfers (R36, R37, R40) -/

/-- A line for a stream: in the cluster's cache, fetched into it, or not to be had. -/
inductive Got where
  | line (l : Line) (s : State)
  | fault (cause : Byte) (walk : Bool)
  | away

def State.getLine (s : State) (t : StreamId) (va : Word) : Got :=
  match s.icLine t.core va with
  | some l => .line l s
  | none =>
    match (s.strm t).badLine.filter fun b => b.1 == va with
    | some (_, cause) => .fault cause false
    | none =>
      match s.fetchLine t.core va with
      | .line l => .line l (s.icPut t.core va l)
      | .trap cause walk => .fault cause walk
      | .away => .away

/-- A fetch goes to another module and the stream waits for its answer (R201, R204). -/
def State.awaitLine (s : State) (t : StreamId) (va : Word) : State :=
  let c := s.core t.core
  let s := s.modStrm t fun st => { st with pend := some ⟨.remote, .nop ⟨0, 0, 0, 0, 0, 0, 0⟩, some (s.time + s.limit), none, some va⟩ }
  { s with weltOut := s.weltOut ++ [.request (s.moduleAt t.core va) c.gpid va (.nop ⟨0, 0, 0, 0, 0, 0, 0⟩)] }

/-- What a second read of a line comes to; another module's line waits for the answer (R45). -/
inductive Reread where
  | away
  | same
  | fresh (l : Line)
  | trap (cause : Byte) (walk : Bool)
  deriving DecidableEq, Repr

/-- A cached line that fails a check is read once more from device memory (R45). -/
def State.reread (s : State) (t : StreamId) (va : Word) (old : Line) : Reread :=
  match s.fetchLine t.core va with
  | .line l => if l == old then .same else .fresh l
  | .trap cause walk => .trap cause walk
  | .away => .away

/-- The cluster's cache drops a line (R45). -/
def State.icDropLine (s : State) (pos : Nat) (va : Word) : State :=
  let c := s.core pos
  let rest := (NMap.get [] s.icache (clusterOf pos)).filter fun e => !(e.tag == c.tag && e.ctx == c.ctx && e.va == va)
  { s with icache := NMap.set s.icache (clusterOf pos) rest }

/-- A stream asks another module for a line a second time and waits for it; the cache has dropped the line (R45). -/
def State.askAgain (s : State) (t : StreamId) (va : Word) : State :=
  ((s.icDropLine t.core va).modStrm t fun st => { st with reread := some va }).awaitLine t va

/-- A line that has to be read from a home, while a die on the way to it relocks (R394). -/
def State.lineShut (s : State) (t : StreamId) (va : Word) : Bool :=
  !s.reachable t.core va && !(s.icLine t.core va).any lineWordOk

/-- R40 of a target in a line that is there: trap 0x02 where its line word is good and the slot has no TGT. -/
def landsIn (l : Line) (s : State) (target : Word) (pc : Pc) : Run (State × Pc) :=
  if lineWordOk l && !slotTgt l (pcSlot pc) then trapAt 0x02 target else .ok (s, pc)

/-- R40 of a taken transfer: trap 0x02, or the state with the target's line in the cache and the target. A line whose line word fails is read
once more first (R45). One that cannot be had, or whose line word fails then, is not checked here: its fault is raised at the target slot. -/
def State.checkTransfer (s : State) (t : StreamId) (target : Word) : Run (State × Pc) :=
  let pc := target.extractLsb' 0 56
  if target.extractLsb' 56 8 != 0 || pc.extractLsb' 3 3 != 0 || decide (4 < pcSlot pc) then trapAt 0x02 target
  else if s.lineShut t (pcLine pc) then .error (.hold s)
  else
    match s.getLine t (pcLine pc) with
    | .line l s' =>
      if lineWordOk l then landsIn l s' target pc
      else match s'.reread t (pcLine pc) l with
        | .fresh l' => landsIn l' (s'.icPut t.core (pcLine pc) l') target pc
        | .away => if (s.strm t).reread = some (pcLine pc) then .ok (s', pc) else .error (.hold (s'.askAgain t (pcLine pc)))
        | _ => .ok (s', pc)
    | .fault _ _ => .ok (s, pc)
    | .away => .error (.hold (s.awaitLine t (pcLine pc)))

/-- R37: the target by offset from a program counter. -/
def offsetTarget (pc : Pc) (off : BitVec 32) : Run Word :=
  let n : Int := slotNo pc + off.toInt
  if n < 0 ∨ 5 * 2 ^ 50 ≤ n then trapAt 0x02 (BitVec.ofInt 64 n) else .ok ((pcOfNo n.toNat).setWidth 64)

/-- The execute stream goes on at `pc`, and the access stream will follow it there (R41). -/
def State.goTo (s : State) (t : StreamId) (pc : Pc) : State :=
  (s.modSlot t fun sl =>
    { sl with
      x := { sl.x with
        pc := pc, fmt := none, rep := none, repcnt := 0, pend := none, deadline := none, snap := [], asked := []
        reread := sl.x.reread.filter (· == pcLine pc) }
      resolved := sl.resolved ++ [pc] }).completed t

/-- A control-flow instruction's own effect: the target when the transfer is taken, and what it writes besides. -/
structure Flow where
  target : Option Word
  write : State → State

/-- The transfer with its check before anything is written (R40). -/
def State.transfer (s : State) (t : StreamId) (fl : Flow) : Run State :=
  match fl.target with
  | none => .ok ((fl.write s).goTo t (nextPc (s.strm t).pc))
  | some target => do
    let (s, pc) ← s.checkTransfer t target
    .ok ((fl.write s).goTo t pc)

/-- A control-flow instruction stands in an execute-stream slot and takes no prefix (R41, R48). -/
def controlIllegal (t : StreamId) (st : Strm) : Bool := t.acc || st.fmt.isSome || st.rep.isSome

/-- The state that a control-flow instruction leaves; unlike the other formats the body itself has set the stream. -/
def State.finishFlow (s : State) (t : StreamId) : Run State → State
  | .ok s' => s'
  | r => s.finish t r

def issueB (body : StreamId → FmtB → State → Run Flow) (f : FmtB) (s : State) : Host.Outcome State Fault Refusal :=
  match s.cur with
  | .stream t =>
    .next (if controlIllegal t (s.strm t) then s.precise t 0x01 none
      else s.finishFlow t (do let fl ← body t f s; s.transfer t fl))
  | _ => .next s

/-! ### Privilege (R56 step 5, R376) -/

def State.supervisor (s : State) (t : StreamId) : Run Unit := if (s.strm t).pl = 0 then trap 0x0D else .ok ()

end Sys2Proof.Machine
end

