-- ==== Sys2Proof/Machine/ScalarInt.lean ====
section
/-!
DEFINITION. The scalar integer instructions, OP 0x20 to 0x3F (R97 to R100): the operations, then one meaning per form.
-/
namespace Sys2Proof.Machine

/-- The group takes REP and no FMT, in either stream. -/
def entInt (op : Byte) (u : Used) : Entry := ⟨op, u, false, true, none⟩

def usedDab : Used := ⟨true, true, true, false, false⟩
def usedDa : Used := ⟨true, true, false, false, false⟩
def usedD : Used := ⟨true, false, false, false, false⟩
def usedDabc : Used := ⟨true, true, true, true, false⟩

/-- FN 0: operand b is s[B]. -/
def regForm (g : Word → Word → Word) (t : StreamId) (f : FmtA) (s : State) : Run State :=
  .ok (s.resultA t f (g (s.operandA t f) (s.reg t f.b)))
/-- FN 1: operand b is the immediate, sign-extended, or zero-extended where R98 marks N. -/
def immForm (g : Word → Word → Word) (t : StreamId) (f : FmtA) (s : State) : Run State :=
  .ok (s.resultA t f (g (s.operandA t f) (immS f)))
def immFormN (g : Word → Word → Word) (t : StreamId) (f : FmtA) (s : State) : Run State :=
  .ok (s.resultA t f (g (s.operandA t f) (immZ f)))
def unaryForm (g : Word → Word) (t : StreamId) (f : FmtA) (s : State) : Run State :=
  .ok (s.resultA t f (g (s.operandA t f)))

/-! ### The operations (R98, R99) -/

def mulHigh (a b : Word) : Word := ((a.signExtend 128) * (b.signExtend 128)).extractLsb' 64 64
def mulHighN (a b : Word) : Word := ((a.setWidth 128) * (b.setWidth 128)).extractLsb' 64 64
/-- Division never traps (R99). -/
def divS (a b : Word) : Word := if b = 0 then BitVec.allOnes 64 else a.sdiv b
def divU (a b : Word) : Word := if b = 0 then BitVec.allOnes 64 else a / b
def remS (a b : Word) : Word := if b = 0 then a else a.srem b
def remU (a b : Word) : Word := if b = 0 then a else a % b
def andn (a b : Word) : Word := a &&& ~~~b
def shiftCount (b : Word) : Nat := (b.extractLsb' 0 6).toNat
def shlW (a b : Word) : Word := a <<< shiftCount b
def shrW (a b : Word) : Word := a >>> shiftCount b
def sraW (a b : Word) : Word := a.sshiftRight (shiftCount b)
def rotrW (a b : Word) : Word := a.rotateRight (shiftCount b)
def clzW (a : Word) : Word := if a = 0 then 64 else BitVec.ofNat 64 (63 - Nat.log2 a.toNat)
def popcW (a : Word) : Word := BitVec.ofNat 64 ((List.range 64).filter fun i => a.getLsbD i).length
/-- The trailing zeros are the ones below the lowest one bit. -/
def ctzW (a : Word) : Word := popcW (~~~a &&& (a - 1))
def minS (a b : Word) : Word := if b.slt a then b else a
def maxS (a b : Word) : Word := if a.slt b then b else a
def minU (a b : Word) : Word := if b.ult a then b else a
def maxU (a b : Word) : Word := if a.ult b then b else a
def sltW (a b : Word) : Word := bit 64 (a.slt b)
def sltnW (a b : Word) : Word := bit 64 (a.ult b)

/-- The field of EXTB and INSB (R100). -/
def fieldPos (f : FmtA) : Nat := (f.imm.extractLsb' 0 6).toNat
def fieldLen (f : FmtA) : Nat := (f.imm.extractLsb' 8 6).toNat + 1
def extbN (f : FmtA) (a : Word) : Word := BitVec.ofNat 64 (a.toNat / 2 ^ fieldPos f % 2 ^ fieldLen f)
def extbI (f : FmtA) (a : Word) : Word :=
  let x := a.toNat / 2 ^ fieldPos f % 2 ^ fieldLen f
  if 2 ^ (fieldLen f - 1) ≤ x then BitVec.ofInt 64 ((x : Int) - 2 ^ fieldLen f) else BitVec.ofNat 64 x
def insbW (f : FmtA) (a b : Word) : Word :=
  let m : Word := BitVec.ofNat 64 ((2 ^ fieldLen f - 1) * 2 ^ fieldPos f)
  (a &&& ~~~m) ||| ((b <<< fieldPos f) &&& m)

/-! ### The meanings -/

/-- ADD, register form (R98). -/
def execAdd (f : FmtA) (s : State) : Host.Outcome State Fault Refusal :=
  issueA (entInt 0x20 usedDab) anyFields (regForm (· + ·)) f s
/-- ADD, immediate form (R98). -/
def execAddImm (f : FmtA) (s : State) : Host.Outcome State Fault Refusal :=
  issueA (entInt 0x20 usedDa) anyFields (immForm (· + ·)) f s
/-- ADDI (R98). -/
def execAddi (f : FmtA) (s : State) : Host.Outcome State Fault Refusal :=
  issueA (entInt 0x21 usedDab) anyFields (fun t f s => .ok (s.resultA t f (s.operandA t f + s.reg t f.b + immS f))) f s
/-- SUB, register form (R98). -/
def execSub (f : FmtA) (s : State) : Host.Outcome State Fault Refusal :=
  issueA (entInt 0x22 usedDab) anyFields (regForm (· - ·)) f s
/-- SUB, immediate form (R98). -/
def execSubImm (f : FmtA) (s : State) : Host.Outcome State Fault Refusal :=
  issueA (entInt 0x22 usedDa) anyFields (immForm (· - ·)) f s
/-- MUL, register form (R98). -/
def execMul (f : FmtA) (s : State) : Host.Outcome State Fault Refusal :=
  issueA (entInt 0x23 usedDab) anyFields (regForm (· * ·)) f s
/-- MUL, immediate form (R98). -/
def execMulImm (f : FmtA) (s : State) : Host.Outcome State Fault Refusal :=
  issueA (entInt 0x23 usedDa) anyFields (immForm (· * ·)) f s
/-- MULH, register form (R98). -/
def execMulh (f : FmtA) (s : State) : Host.Outcome State Fault Refusal :=
  issueA (entInt 0x24 usedDab) anyFields (regForm mulHigh) f s
/-- MULH, immediate form (R98). -/
def execMulhImm (f : FmtA) (s : State) : Host.Outcome State Fault Refusal :=
  issueA (entInt 0x24 usedDa) anyFields (immForm mulHigh) f s
/-- MULHN, register form (R98). -/
def execMulhn (f : FmtA) (s : State) : Host.Outcome State Fault Refusal :=
  issueA (entInt 0x25 usedDab) anyFields (regForm mulHighN) f s
/-- MULHN, immediate form (R98). -/
def execMulhnImm (f : FmtA) (s : State) : Host.Outcome State Fault Refusal :=
  issueA (entInt 0x25 usedDa) anyFields (immFormN mulHighN) f s
/-- DIV, register form (R98). -/
def execDiv (f : FmtA) (s : State) : Host.Outcome State Fault Refusal :=
  issueA (entInt 0x26 usedDab) anyFields (regForm divS) f s
/-- DIV, immediate form (R98). -/
def execDivImm (f : FmtA) (s : State) : Host.Outcome State Fault Refusal :=
  issueA (entInt 0x26 usedDa) anyFields (immForm divS) f s
/-- DIVN, register form (R98). -/
def execDivn (f : FmtA) (s : State) : Host.Outcome State Fault Refusal :=
  issueA (entInt 0x27 usedDab) anyFields (regForm divU) f s
/-- DIVN, immediate form (R98). -/
def execDivnImm (f : FmtA) (s : State) : Host.Outcome State Fault Refusal :=
  issueA (entInt 0x27 usedDa) anyFields (immFormN divU) f s
/-- REM, register form (R98). -/
def execRem (f : FmtA) (s : State) : Host.Outcome State Fault Refusal :=
  issueA (entInt 0x28 usedDab) anyFields (regForm remS) f s
/-- REM, immediate form (R98). -/
def execRemImm (f : FmtA) (s : State) : Host.Outcome State Fault Refusal :=
  issueA (entInt 0x28 usedDa) anyFields (immForm remS) f s
/-- REMN, register form (R98). -/
def execRemn (f : FmtA) (s : State) : Host.Outcome State Fault Refusal :=
  issueA (entInt 0x29 usedDab) anyFields (regForm remU) f s
/-- REMN, immediate form (R98). -/
def execRemnImm (f : FmtA) (s : State) : Host.Outcome State Fault Refusal :=
  issueA (entInt 0x29 usedDa) anyFields (immFormN remU) f s
/-- AND, register form (R98). -/
def execAnd (f : FmtA) (s : State) : Host.Outcome State Fault Refusal :=
  issueA (entInt 0x2A usedDab) anyFields (regForm (· &&& ·)) f s
/-- AND, immediate form (R98). -/
def execAndImm (f : FmtA) (s : State) : Host.Outcome State Fault Refusal :=
  issueA (entInt 0x2A usedDa) anyFields (immForm (· &&& ·)) f s
/-- OR, register form (R98). -/
def execOr (f : FmtA) (s : State) : Host.Outcome State Fault Refusal :=
  issueA (entInt 0x2B usedDab) anyFields (regForm (· ||| ·)) f s
/-- OR, immediate form (R98). -/
def execOrImm (f : FmtA) (s : State) : Host.Outcome State Fault Refusal :=
  issueA (entInt 0x2B usedDa) anyFields (immForm (· ||| ·)) f s
/-- XOR, register form (R98). -/
def execXor (f : FmtA) (s : State) : Host.Outcome State Fault Refusal :=
  issueA (entInt 0x2C usedDab) anyFields (regForm (· ^^^ ·)) f s
/-- XOR, immediate form (R98). -/
def execXorImm (f : FmtA) (s : State) : Host.Outcome State Fault Refusal :=
  issueA (entInt 0x2C usedDa) anyFields (immForm (· ^^^ ·)) f s
/-- ANDN, register form (R98). -/
def execAndn (f : FmtA) (s : State) : Host.Outcome State Fault Refusal :=
  issueA (entInt 0x2D usedDab) anyFields (regForm andn) f s
/-- ANDN, immediate form (R98). -/
def execAndnImm (f : FmtA) (s : State) : Host.Outcome State Fault Refusal :=
  issueA (entInt 0x2D usedDa) anyFields (immForm andn) f s
/-- SHL, register form (R98). -/
def execShl (f : FmtA) (s : State) : Host.Outcome State Fault Refusal :=
  issueA (entInt 0x2E usedDab) anyFields (regForm shlW) f s
/-- SHL, immediate form (R98). -/
def execShlImm (f : FmtA) (s : State) : Host.Outcome State Fault Refusal :=
  issueA (entInt 0x2E usedDa) anyFields (immForm shlW) f s
/-- SHR, register form (R98). -/
def execShr (f : FmtA) (s : State) : Host.Outcome State Fault Refusal :=
  issueA (entInt 0x2F usedDab) anyFields (regForm shrW) f s
/-- SHR, immediate form (R98). -/
def execShrImm (f : FmtA) (s : State) : Host.Outcome State Fault Refusal :=
  issueA (entInt 0x2F usedDa) anyFields (immForm shrW) f s
/-- SRA, register form (R98). -/
def execSra (f : FmtA) (s : State) : Host.Outcome State Fault Refusal :=
  issueA (entInt 0x30 usedDab) anyFields (regForm sraW) f s
/-- SRA, immediate form (R98). -/
def execSraImm (f : FmtA) (s : State) : Host.Outcome State Fault Refusal :=
  issueA (entInt 0x30 usedDa) anyFields (immForm sraW) f s
/-- ROTR, register form (R98). -/
def execRotr (f : FmtA) (s : State) : Host.Outcome State Fault Refusal :=
  issueA (entInt 0x31 usedDab) anyFields (regForm rotrW) f s
/-- ROTR, immediate form (R98). -/
def execRotrImm (f : FmtA) (s : State) : Host.Outcome State Fault Refusal :=
  issueA (entInt 0x31 usedDa) anyFields (immForm rotrW) f s
/-- CLZ (R98). -/
def execClz (f : FmtA) (s : State) : Host.Outcome State Fault Refusal :=
  issueA (entInt 0x32 usedDa) anyFields (unaryForm clzW) f s
/-- CTZ (R98). -/
def execCtz (f : FmtA) (s : State) : Host.Outcome State Fault Refusal :=
  issueA (entInt 0x33 usedDa) anyFields (unaryForm ctzW) f s
/-- POPC (R98). -/
def execPopc (f : FmtA) (s : State) : Host.Outcome State Fault Refusal :=
  issueA (entInt 0x34 usedDa) anyFields (unaryForm popcW) f s
/-- MIN, register form (R98). -/
def execMin (f : FmtA) (s : State) : Host.Outcome State Fault Refusal :=
  issueA (entInt 0x35 usedDab) anyFields (regForm minS) f s
/-- MIN, immediate form (R98). -/
def execMinImm (f : FmtA) (s : State) : Host.Outcome State Fault Refusal :=
  issueA (entInt 0x35 usedDa) anyFields (immForm minS) f s
/-- MAX, register form (R98). -/
def execMax (f : FmtA) (s : State) : Host.Outcome State Fault Refusal :=
  issueA (entInt 0x36 usedDab) anyFields (regForm maxS) f s
/-- MAX, immediate form (R98). -/
def execMaxImm (f : FmtA) (s : State) : Host.Outcome State Fault Refusal :=
  issueA (entInt 0x36 usedDa) anyFields (immForm maxS) f s
/-- MINN, register form (R98). -/
def execMinn (f : FmtA) (s : State) : Host.Outcome State Fault Refusal :=
  issueA (entInt 0x37 usedDab) anyFields (regForm minU) f s
/-- MINN, immediate form (R98). -/
def execMinnImm (f : FmtA) (s : State) : Host.Outcome State Fault Refusal :=
  issueA (entInt 0x37 usedDa) anyFields (immFormN minU) f s
/-- MAXN, register form (R98). -/
def execMaxn (f : FmtA) (s : State) : Host.Outcome State Fault Refusal :=
  issueA (entInt 0x38 usedDab) anyFields (regForm maxU) f s
/-- MAXN, immediate form (R98). -/
def execMaxnImm (f : FmtA) (s : State) : Host.Outcome State Fault Refusal :=
  issueA (entInt 0x38 usedDa) anyFields (immFormN maxU) f s
/-- SLT, register form (R98). -/
def execSlt (f : FmtA) (s : State) : Host.Outcome State Fault Refusal :=
  issueA (entInt 0x39 usedDab) anyFields (regForm sltW) f s
/-- SLT, immediate form (R98). -/
def execSltImm (f : FmtA) (s : State) : Host.Outcome State Fault Refusal :=
  issueA (entInt 0x39 usedDa) anyFields (immForm sltW) f s
/-- SLTN, register form (R98). -/
def execSltn (f : FmtA) (s : State) : Host.Outcome State Fault Refusal :=
  issueA (entInt 0x3A usedDab) anyFields (regForm sltnW) f s
/-- SLTN, immediate form (R98). -/
def execSltnImm (f : FmtA) (s : State) : Host.Outcome State Fault Refusal :=
  issueA (entInt 0x3A usedDa) anyFields (immFormN sltnW) f s
/-- SEL (R98). -/
def execSel (f : FmtA) (s : State) : Host.Outcome State Fault Refusal :=
  issueA (entInt 0x3B usedDabc) anyFields (fun t f s => .ok (s.resultA t f (if s.operandA t f ≠ 0 then s.reg t f.b else s.reg t f.c))) f s
/-- LI (R98). R97 pops for QA whatever the instruction: LI uses no field A, so the entry comes from q0 and is discarded. -/
def execLi (f : FmtA) (s : State) : Host.Outcome State Fault Refusal :=
  issueA (entInt 0x3C usedD) anyFields (fun t f s => .ok (s.resultA t f (immS f))) f s
/-- LIH (R98). -/
def execLih (f : FmtA) (s : State) : Host.Outcome State Fault Refusal :=
  issueA (entInt 0x3D usedDa) anyFields (fun t f s => .ok (s.resultA t f (f.imm.extractLsb' 0 16 ++ (s.operandA t f).extractLsb' 0 48))) f s
/-- EXTB.n64 (R100). -/
def execExtbN64 (f : FmtA) (s : State) : Host.Outcome State Fault Refusal :=
  issueA (entInt 0x3E usedDa) anyFields (fun t f s => .ok (s.resultA t f (extbN f (s.operandA t f)))) f s
/-- EXTB.i64 (R100). -/
def execExtbI64 (f : FmtA) (s : State) : Host.Outcome State Fault Refusal :=
  issueA (entInt 0x3E usedDa) anyFields (fun t f s => .ok (s.resultA t f (extbI f (s.operandA t f)))) f s
/-- INSB (R100). -/
def execInsb (f : FmtA) (s : State) : Host.Outcome State Fault Refusal :=
  issueA (entInt 0x3F usedDab) anyFields (fun t f s => .ok (s.resultA t f (insbW f (s.operandA t f) (s.reg t f.b)))) f s

end Sys2Proof.Machine
end

