-- ==== Sys2Proof/Machine/Address.lean ====
section
/-!
DEFINITION. The address group, OP 0x40 to 0x44 (R101 to R107).
-/
namespace Sys2Proof.Machine

/-- The result of the group goes to s[D]; MOD names no queue. -/
def setD (s : State) (t : StreamId) (f : FmtA) (r : Word) : Run State := .ok (s.setReg t f.d r)

/-- The byte offset of an address under construction (R104, R105). -/
def addrOffset (base : Word) (f : FmtA) : Run Word :=
  let off := base + immS f
  if off.ult 0x20000000 then .ok off else trap 0x04

/-- A tag 0x01 or 0x02 address from its fields (R101). -/
def meshAddr (tag : Byte) (m : BitVec 13) (y x : BitVec 6) (kind : BitVec 2) (off : Word) : Word :=
  tag ++ m ++ y ++ x ++ kind ++ off.extractLsb' 0 29

/-- MADR, logical form (R104). -/
def execMadr (f : FmtA) (s : State) : Host.Outcome State Fault Refusal :=
  issueA (entInt 0x40 usedDab) anyFields (fun t f s => do
    let off ← addrOffset (s.reg t f.b) f
    match s.lct t.core (s.reg t f.a).toNat with
    | none => trap 0x04
    | some p =>
      setD s t f (meshAddr 0x01 0x1FFF (BitVec.ofNat 6 (posY p)) (BitVec.ofNat 6 (posX p)) (f.fn.extractLsb' 0 2) off)) f s

/-- MADR, physical form: s[A] is a core word (R102, R104). -/
def execMadrPhys (f : FmtA) (s : State) : Host.Outcome State Fault Refusal :=
  issueA (entInt 0x40 usedDab) anyFields (fun t f s => do
    let off ← addrOffset (s.reg t f.b) f
    let w := s.reg t f.a
    if w.extractLsb' 25 39 != 0 then trap 0x04
    else
      let m := w.extractLsb' 12 13
      setD s t f (meshAddr 0x01 (if s.isOwn m then 0x1FFF else m) (w.extractLsb' 6 6) (w.extractLsb' 0 6) (f.fn.extractLsb' 0 2) off)) f s

/-- RADR (R105). -/
def execRadr (f : FmtA) (s : State) : Host.Outcome State Fault Refusal :=
  issueA (entInt 0x41 usedDabc) anyFields (fun t f s => do
    let dx := s.reg t f.a
    let dy := s.reg t f.b
    if dx.toInt < -32 || 31 < dx.toInt || dy.toInt < -32 || 31 < dy.toInt then trap 0x04
    else
      let off ← addrOffset (s.reg t f.c) f
      setD s t f (meshAddr 0x02 0x1FFF (dy.extractLsb' 0 6) (dx.extractLsb' 0 6) (f.fn.extractLsb' 0 2) off)) f s

/-- The logical number of the core at a position as core `p` sees it: the lowest entry of the table that names it, otherwise its own
PARTTAG.LCORE where it carries the tag (R106, R347; log 15). -/
def State.logicalOf (s : State) (p q : Nat) : Option Nat :=
  let c := s.core p
  match (List.range c.nCores).find? fun n => s.lct p n == some q with
  | some n => some n
  | none => if (s.core q).valid && (s.core q).tag == c.tag then some (s.core q).lcore.toNat else none

/-- LCOR: the core word of a logical core (R106). -/
def execLcor (f : FmtA) (s : State) : Host.Outcome State Fault Refusal :=
  issueA (entInt 0x42 usedDa) anyFields (fun t f s =>
    setD s t f (match s.lct t.core (s.reg t f.a).toNat with
      | some p => coreWord p s.module
      | none => BitVec.allOnes 64)) f s

/-- LCOR.log: the logical number of the core that a core word names (R106). -/
def execLcorLog (f : FmtA) (s : State) : Host.Outcome State Fault Refusal :=
  issueA (entInt 0x42 usedDa) anyFields (fun t f s =>
    let w := s.reg t f.a
    let x := (w.extractLsb' 0 6).toNat
    let y := (w.extractLsb' 6 6).toNat
    setD s t f (
      if w.extractLsb' 25 39 != 0 || !s.isOwn (w.extractLsb' 12 13) || decide (47 < x) || decide (47 < y) then BitVec.allOnes 64
      else match s.logicalOf t.core (posOf x y) with
        | some n => BitVec.ofNat 64 n
        | none => BitVec.allOnes 64)) f s

/-- WHO 0: the issuing core's logical number (R106, R347). -/
def execWhoLcore (f : FmtA) (s : State) : Host.Outcome State Fault Refusal :=
  issueA (entInt 0x43 usedD) anyFields (fun t f s => setD s t f ((s.core t.core).lcore.setWidth 64)) f s
/-- WHO 1: its core word, with the actual module identifier. -/
def execWhoCoreword (f : FmtA) (s : State) : Host.Outcome State Fault Refusal :=
  issueA (entInt 0x43 usedD) anyFields (fun t f s => setD s t f (coreWord t.core s.module)) f s
/-- WHO 2: cluster, index within the cluster, die (R10, R12). -/
def execWhoPlace (f : FmtA) (s : State) : Host.Outcome State Fault Refusal :=
  issueA (entInt 0x43 usedD) anyFields (fun t f s =>
    setD s t f (0#50 ++ BitVec.ofNat 2 (dieOf t.core) ++ BitVec.ofNat 4 (indexInCluster t.core) ++ BitVec.ofNat 8 (clusterOf t.core))) f s
/-- WHO 3: the partition's cores on this module. -/
def execWhoNcores (f : FmtA) (s : State) : Host.Outcome State Fault Refusal :=
  issueA (entInt 0x43 usedD) anyFields (fun t f s => setD s t f (BitVec.ofNat 64 (s.core t.core).nCores)) f s
/-- WHO 4: the core's stage number now. -/
def execWhoStage (f : FmtA) (s : State) : Host.Outcome State Fault Refusal :=
  issueA (entInt 0x43 usedD) anyFields (fun t f s => setD s t f ((s.core t.core).stage.setWidth 64)) f s
/-- WHO 5: STATUS bits 19:16. -/
def execWhoSlot (f : FmtA) (s : State) : Host.Outcome State Fault Refusal :=
  issueA (entInt 0x43 usedD) anyFields (fun t f s => setD s t f (((s.status t).extractLsb' 16 4).setWidth 64)) f s

/-- The fork-path hash (R107). -/
def phash (p : BitVec 32) (k : Byte) : BitVec 32 :=
  let x := p + (k.setWidth 32 + 1) * 0x6A3C5D17#32
  let x := x ^^^ (x >>> 16)
  let x := x * 0x5B1D3A27#32
  let x := x ^^^ (x >>> 13)
  let x := x * 0x3C69E1A5#32
  x ^^^ (x >>> 16)

/-- A hash reduced to a logical core; with no core in the partition the manual states no result (log 16). -/
def State.place (s : State) (p : Nat) (h : BitVec 32) : Word × State :=
  let n := (s.core p).nCores
  if n = 0 then s.freeWord else (BitVec.ofNat 64 (h.toNat % n), s)

/-- PHASH (R107). -/
def execPhash (f : FmtA) (s : State) : Host.Outcome State Fault Refusal :=
  issueA (entInt 0x44 usedDab) anyFields (fun t f s =>
    setD s t f ((phash ((s.reg t f.a).extractLsb' 0 32) ((s.reg t f.b).extractLsb' 0 8)).setWidth 64)) f s
/-- PHASH.place (R107). -/
def execPhashPlace (f : FmtA) (s : State) : Host.Outcome State Fault Refusal :=
  issueA (entInt 0x44 usedDab) anyFields (fun t f s =>
    let r := s.place t.core (phash ((s.reg t f.a).extractLsb' 0 32) ((s.reg t f.b).extractLsb' 0 8))
    setD r.2 t f r.1) f s

end Sys2Proof.Machine
end

