-- ==== Sys2Proof/Machine/Channel.lean ====
section
/-!
DEFINITION. The channel unit of a core: arrivals and the overflow heap (R121, R130 to R132), the checks of CHANCFG (R141), pending task
records (R146, R147), the selection of handlers (R122, R123, R126) and the delay accounts (R133, R134).
-/
namespace Sys2Proof.Machine

/-! ### Class 2 reports (R121, R122, R147, R191, R369) -/

def State.channelFault (s : State) (p : Nat) (status : Byte) (word3 : Word) : State := s.report p 2 0 0 status 0 word3 0 none

/-! ### Arrival (R121, R130, R372) -/

/-- Words that the heap still has room for; each message is stored with its arrival time (R130; log 12). -/
def Core.heapRoom (c : Core) : Nat :=
  let cfg := c.cfg 63
  if cfgEn cfg then cfgCap cfg * 8 - (c.ch.heap.map fun m => m.words.length + 1).sum else 0

/-- The bytes of the heap's area: the manual does not say how slot 4 lays messages out in it (log 12). -/
def State.heapBytes (s : State) (p : Nat) : State :=
  let cfg := (s.core p).cfg 63
  s.scribble (localKey p (cfgBase cfg * 64)) (cfgCap cfg * 64)

def State.heapPut (s : State) (p : Nat) (ch : BitVec 6) (words : List Word) : State :=
  (s.modCore p fun c =>
    Core.pmCount { c with ch := { c.ch with heap := c.ch.heap ++ [⟨ch, words, s.time⟩] } } 0x0B none 1).heapBytes p

/-- A message reaches core `p`: written to its ring or the heap, or discarded with a report; `none` when it has no room and waits in the
mesh (R121, R130, R132). -/
def State.arrive (s : State) (p : Nat) (ch : BitVec 6) (words : List Word) : Option State :=
  let c := s.core p
  if c.lost then some (s.channelFault p 0x05 (words.headD 0))
  else if !cfgEn (c.cfg ch.toNat) then some (s.channelFault p 0x04 (words.headD 0))
  else if c.heapCount ch.toNat ≠ 0 || decide (c.freeWords ch.toNat < words.length) then
    if words.length + 1 ≤ c.heapRoom then some (s.heapPut p ch words) else none
  else some (s.ringPut p ch.toNat words s.time)

/-- A task message: header and packet, marked where its sender is on another module (R118, R144). -/
def taskMessage (time : Word) (sender : BitVec 12) (rem : Bool) (packet : List Word) : List Word :=
  header time sender ((((packet.headD 0).extractLsb' 29 3)).setWidth 5) 0 1 false rem :: packet

/-- The message of a channel stands behind an older one of the same sender and receiver that is still under way (R120). -/
def State.olderIn (ps : List Packet) (src dst : Nat) (chan : BitVec 6) : Bool :=
  ps.any fun q => q.src == src && q.dst == dst && q.chan == chan

/-- A firing's messages come after those of its slot's firings before it (R134). -/
def afterFiring (a b : BitVec 32) : Bool := a != b && decide ((a - b).toNat < 2 ^ 31)

/-- An older message of the same slot is still on its way to the same core: a packet among `ps`, or a successor message (R228). A firing's
successor messages are its last. -/
def State.behindSlot (s : State) (ps : List Packet) (p : Packet) : Bool :=
  p.sender.any fun x =>
    (ps.any fun q => q.src == p.src && q.dst == p.dst && q.sender.any (·.slot == x.slot)) ||
      s.succs.any fun m => m.src == p.src && m.dst == p.dst && m.sender.any fun y => y.slot == x.slot && afterFiring x.fseq y.fseq

/-- A packet of the slot, of the successor's firing or of one before it, is still on its way to the same core (R228). -/
def State.packetAhead (s : State) (m : SuccMsg) : Bool :=
  m.sender.any fun x => s.mesh.any fun q =>
    q.src == m.src && q.dst == m.dst && q.sender.any fun y => y.slot == x.slot && !afterFiring y.fseq x.fseq

/-- The channel unit pushes a packet into its own channel 0 like any arrival, for the sender at position `src`: without room it stops the
ejection port, and where the port has stopped already, or an older one of that sender is under way, it waits in the mesh (R120, R132, R147,
R191). -/
def State.push0 (s : State) (p src : Nat) (sender : BitVec 12) (packet : List Word) : State :=
  let c := s.core p
  let words := taskMessage s.time sender (decide (2304 ≤ src)) packet
  let k : Packet := ⟨src, p, c.tag, c.ctx, 0, words, targetWord 0 0x1FFF c.lcore, none⟩
  if c.port.isSome || State.olderIn s.mesh src p 0 then s.inject k
  else match s.arrive p 0 words with
    | some s => s
    | none => s.modCore p fun c => { c with port := some k }

/-! ### Task headers and pending task records (R144 to R147) -/

def thPath (w : Word) : BitVec 32 := w.extractLsb' 32 32
def thLcode (w : Word) : Nat := (w.extractLsb' 29 3).toNat
def thHidx (w : Word) : BitVec 6 := w.extractLsb' 23 6
def thNsucc (w : Word) : Nat := (w.extractLsb' 20 3).toNat
def thRh (w : Word) : Bool := w.getLsbD 16
def taskHeader (path : BitVec 32) (lcode : BitVec 3) (hidx : BitVec 6) (nsucc : BitVec 3) (rh : Bool) : Word :=
  path ++ lcode ++ hidx ++ nsucc ++ 0#3 ++ bit 1 rh ++ 0#16
/-- Words of a packet. -/
def packetLen (w : Word) : Nat := 4 * (thLcode w + 1)

/-- A valid task header (R144). -/
def taskOk (w : Word) : Bool :=
  w.extractLsb' 17 3 == 0 && w.extractLsb' 0 16 == 0 && decide (thNsucc w ≤ 6) && decide (thNsucc w ≤ packetLen w - 1) &&
    (!thRh w || (decide (1 ≤ thLcode w) && decide (6 + thNsucc w ≤ packetLen w)))

/-- A successor handle (R145). -/
def shRes (h : Word) : Bool := h.getLsbD 48
def shSlot (h : Word) : Nat := (h.extractLsb' 42 6).toNat
def shOffset (h : Word) : Nat := (h.extractLsb' 25 17).toNat * 8
def shModule (h : Word) : BitVec 13 := h.extractLsb' 12 13
def shLcore (h : Word) : BitVec 12 := h.extractLsb' 0 12
def successorHandle (res : Bool) (slot : BitVec 6) (off : Nat) (m : BitVec 13) (l : BitVec 12) : Word :=
  0#15 ++ bit 1 res ++ slot ++ BitVec.ofNat 17 (off / 8) ++ m ++ l

/-- COUNT, NSLOT and NEXT of a pending task record's word 0 (R146). -/
def recCount (w : Word) : BitVec 32 := w.extractLsb' 0 32
def recNslot (w : Word) : Nat := (w.extractLsb' 32 8).toNat
def recNext (w : Word) : Nat := (w.extractLsb' 40 8).toNat
def recSetCount (w : Word) (c : BitVec 32) : Word := w.extractLsb' 32 32 ++ c
def recSetNext (w : Word) (n : Nat) : Word := w.extractLsb' 48 16 ++ BitVec.ofNat 8 n ++ w.extractLsb' 0 40

/-- The packet of a record. -/
def State.recPacket (s : State) (p off : Nat) : List Word :=
  s.localWords p (off + 8) (packetLen (s.localWord p (off + 8)))

/-- A successor message at its core (R147). `res` is empty when h.RES = 0. A slot outside local memory is out of range as a slot that the
record does not hold is (log 29). The channel unit takes granules with an uncorrectable error as they stand (R181; the model's choice,
log 100). -/
def State.successor (s : State) (p src : Nat) (sender : BitVec 12) (h : Word) (res : List Word) : State :=
  let off := shOffset h
  let w := s.localWord p off
  let fault : State := s.channelFault p 0x07 (localAddr p off)
  if shRes h && decide (recNslot w ≤ shSlot h) then fault
  else
    let base := off + 8 * (1 + packetLen (s.localWord p (off + 8)) + 4 * shSlot h)
    if shRes h && decide (localSize < base + 32) then fault
    else
      let s := if shRes h then s.setLocalWords p base res else s
      let w := s.localWord p off
      if recCount w = 0 then s.channelFault p 0x07 (localAddr p off)
      else
        let s := s.setLocalWord p off (recSetCount w (recCount w - 1))
        if recCount w = 1 then s.push0 p src sender (s.recPacket p off) else s

/-! ### Delay accounts (R133, R134) -/

/-- The entry that a message is accounted in (R133). -/
def accountOf (h : Word) : Nat :=
  if !hdrRem h && (hdrKind h == 0 || hdrKind h == 1) then (hdrSender h).toNat % 64 else 64

def Core.account (c : Core) (e : Nat) : Account := NMap.get ⟨0, 0, 0, 0⟩ c.ch.accounts e
def Core.setAccount (c : Core) (e : Nat) (a : Account) : Core :=
  { c with ch := { c.ch with accounts := NMap.set c.ch.accounts e a } }

/-- A message is taken: MSGS, TRANSIT and QUEUE (R134). -/
def Core.accountTake (c : Core) (h : Word) (arrival now : Word) : Core :=
  let e := accountOf h
  let a := c.account e
  c.setAccount e
    { a with
      msgs := a.msgs + 1
      transit := a.transit + (arrival.extractLsb' 0 32 - hdrTime h).setWidth 64
      queue := a.queue + (now - arrival) }

def Core.accountRun (c : Core) (e : Nat) (ticks : Word) : Core :=
  let a := c.account e
  c.setAccount e { a with run := a.run + ticks }

/-! ### CHANCFG (R117, R141) -/

/-- A firing of the core holds a message of the channel in its taken set. -/
def Core.takenOn (c : Core) (ch : Nat) : Bool :=
  c.slots.toList.any fun sl => sl.st != 0 && sl.taken.any fun m => m.chan.toNat == ch

/-- The checks of R141 in order. -/
def Core.chcfgStatus (c : Core) (ch : Nat) (w : Word) : Byte :=
  let old := c.cfg ch
  let moved := cfgBase w != cfgBase old || cfgCap w != cfgCap old
  let held := c.takenOn ch || (ch == 63 && !c.ch.heap.isEmpty)
  if w.extractLsb' 46 2 != 0 || w.extractLsb' 32 13 != 0 || w.extractLsb' 28 3 != 0 || w.extractLsb' 14 2 != 0 ||
      (cfgEn w && decide (cfgCap w < 4)) || (ch == 0 && cfgEn w && decide (cfgCap w < 5)) then 0x08
  else if cfgEn w && decide (12288 < cfgBase w + cfgCap w) then 0x07
  else if (moved || (cfgEn old && !cfgEn w)) && held then 0x04
  else if moved && (decide (0 < (c.chRing ch).count) || c.heapCount ch != 0) then 0x04
  else 0x00

/-- The write of CHANCFG after its checks: enabling a channel or moving its ring resets the ring, disabling it discards what it holds
(R117, R141). -/
def Core.chcfgWrite (c : Core) (ch : Nat) (w : Word) : Core :=
  let old := c.cfg ch
  let new : Word := w &&& 0x8FFF3FFF
  let fresh := cfgBase w != cfgBase old || cfgCap w != cfgCap old || cfgEn w != cfgEn old
  let c := { c with ch := { c.ch with cfg := vset c.ch.cfg ch new } }
  let c := if fresh then c.setRing ch ⟨0, []⟩ else c
  if cfgEn old && !cfgEn w then
    { c with ch := { c.ch with heap := c.ch.heap.filter fun m => m.chan.toNat != ch } }
  else c

/-! ### Handler entries (R114, R115) -/

def hVALID (w : Word) : Bool := w.getLsbD 63
def hSOLO (w : Word) : Bool := w.getLsbD 62
def hSUP (w : Word) : Bool := w.getLsbD 61
def hMASK (w : Word) : Bool := w.getLsbD 60
def hPRIO (w : Word) : BitVec 3 := w.extractLsb' 56 3
def hENTRY (w : Word) : Pc := w.extractLsb' 0 56

def Core.handler (c : Core) (i : Nat) : HEntry := vget HEntry.zero c.ch.handlers i
def Core.setHandler (c : Core) (i : Nat) (e : HEntry) : Core :=
  { c with ch := { c.ch with handlers := vset c.ch.handlers i e } }

/-- Declaration `k` of a word: channel and count (R114). -/
def declCh (w : Word) (k : Nat) : BitVec 6 := w.extractLsb' (16 * k + 8) 6
def declN (w : Word) (k : Nat) : Nat := (w.extractLsb' (16 * k) 8).toNat

/-- The used inputs of HW1 in order: index, channel and count. -/
def inputs (hw1 : Word) : List (Nat × BitVec 6 × Nat) :=
  ((List.range 4).filter fun k => declN hw1 k != 0).map fun k => (k, declCh hw1 k, declN hw1 k)

/-- R115: the contents of an entry are well formed. -/
def handlerOk (hw0 hw1 hw2 : Word) : Bool :=
  if !hVALID hw0 then hw0 == 0 && hw1 == 0 && hw2 == 0
  else
    let ins := inputs hw1
    let chans : List (BitVec 6) := ins.map fun i => i.2.1
    (List.range 4).all (fun k => declN hw1 k != 0 || decide (ins.length ≤ k)) && !ins.isEmpty && decide chans.Nodup &&
      !chans.contains 63 && (hSUP hw0 || !chans.contains 62) &&
      (!chans.contains 0 || (ins.length == 1 && declN hw1 0 == 1)) &&
      hw0.extractLsb' 3 3 == 0 && (hw0.extractLsb' 0 3).ult 5 && !hw0.getLsbD 59 &&
      (List.range 4).all (fun k => hw1.extractLsb' (16 * k + 14) 2 == 0) &&
      (List.range 2).all (fun k => hw2.extractLsb' (16 * k + 14) 2 == 0) && hw2.extractLsb' 32 32 == 0

/-! ### Selection (R122, R123, R126) -/

/-- The untaken messages of a channel, oldest first. -/
def Core.untaken (c : Core) (ch : Nat) : List RingMsg := (c.chRing ch).msgs.filter fun m => !m.taken && !m.freed

/-- The task header of a message in channel 0. -/
def State.packetHeader (s : State) (p : Nat) (m : RingMsg) : Word := (s.ringWords p 0 m).getD 1 0

/-- A packet that heads the ring of channel 0 and names an invalid entry is discarded with a report (R122). -/
def State.dropDead (s : State) (p : Nat) : Nat → State
  | 0 => s
  | n + 1 =>
    let c := s.core p
    match c.untaken 0 with
    | [] => s
    | m :: _ =>
      if hVALID (c.handler (thHidx (s.packetHeader p m)).toNat).hw0 then s
      else
        let h := (s.ringWords p 0 m).headD 0
        State.dropDead ((s.setCore p (c.setRing 0 ((c.chRing 0).give m.id))).channelFault p 0x04 h) p n

/-- The messages that a firing of entry `i` would take: per input its index, channel and messages; none when the entry is not
runnable (R122). -/
def State.takes (s : State) (p i : Nat) : Option (List (Nat × BitVec 6 × List RingMsg)) :=
  let c := s.core p
  let e := c.handler i
  let runs := c.slots.toList.any fun sl => sl.st != 0 && (sl.firing.extractLsb' 0 6).toNat == i
  if !hVALID e.hw0 || hMASK e.hw0 || (hSOLO e.hw0 && runs) then none
  else
    (inputs e.hw1).mapM fun (k, ch, n) =>
      let ms :=
        if ch = 0 then ((c.untaken 0).filter fun m => (thHidx (s.packetHeader p m)).toNat == i).take 1
        else (c.untaken ch.toNat).take n
      if ms.length = n then some (k, ch, ms) else none

/-- Position in the order of last firings: an entry that has never fired comes first, by its index (R123). An index that has fired counts
so also after its entry has been rewritten (log 85, DESIGN CHOICE: the manual does not say). -/
def Core.lastFired (c : Core) (i : Nat) : Nat :=
  match c.ch.fired.findIdx? (· == i) with
  | none => i
  | some k => 64 + (64 - k)

/-- Whether entry `i` is chosen before entry `j` (R123). -/
def Core.before (c : Core) (i j : Nat) : Bool :=
  let pi := hPRIO (c.handler i).hw0
  let pj := hPRIO (c.handler j).hw0
  pj.ult pi || (pi == pj && decide (c.lastFired i < c.lastFired j))

def State.best (s : State) (p : Nat) : Option Nat :=
  ((List.range 64).filter fun i => (s.takes p i).isSome).foldl (fun b i =>
    match b with
    | none => some i
    | some j => if (s.core p).before i j then some i else b) none

/-- The handle that answers a message whose last word is none: the sender's core, channel 1 (R126). -/
def answerHandle (sender : BitVec 12) : Word := targetWord 1 0x1FFF sender

/-- s6 of a firing (R126). A packet's sender counts as a core of the own module, also where a successor message of another module has pushed
the packet (the model's choice, log 98). -/
def replyHandle (words : List Word) (task : Bool) : Word :=
  let h := words.headD 0
  if task then (if thRh (words.getD 1 0) then words.getD 6 0 else answerHandle (hdrSender h))
  else if hdrRh h then words.getLastD 0
  else if hdrRem h || hdrKind h == 2 || hdrKind h == 3 then 0
  else answerHandle (hdrSender h)

/-- s7: the counts after the take (R126). -/
def Core.countWord (c : Core) (task : Bool) (ins : List (Nat × BitVec 6 × Nat)) : Word :=
  if task then BitVec.ofNat 64 ((c.chRing 0).count % 65536)
  else BitVec.ofNat 64 ((ins.map fun (k, ch, _) => (c.chRing ch.toNat).count % 65536 * 65536 ^ k).sum)

/-- The successor handles of a packet, in packet order (R144). -/
def succHandles (packet : List Word) : List Word := packet.drop (packet.length - thNsucc (packet.headD 0))

/-- FIRING (R94). -/
def firingWord (fseq : BitVec 32) (stage : BitVec 16) (prio : BitVec 3) (hidx : BitVec 6) : Word :=
  fseq ++ stage ++ 0#4 ++ prio ++ 0#3 ++ hidx

/-- The scalar registers at firing start (R87, R126). -/
def startRegs (words : List Word) (task : Bool) (s6 s7 : Word) : Vector Word 64 :=
  let base := if task then 1 else 0
  Vector.ofFn fun (r : Fin 64) =>
    if r.val = 0 then 0
    else if r.val ≤ 5 then words.getD (base + (r.val - 1)) 0
    else if r.val = 6 then s6
    else if r.val = 7 then s7
    else 0

def firingStrm (entry : Pc) (sup : Bool) : Strm :=
  { Strm.reset with pc := entry, pl := if sup then 1 else 0, entering := true }

/-- What an instance makes of a core that serves it (R319, R331). -/
def Inst.serve (x : Inst) : Serve := ⟨x.id, x.stage, x.catchUp, x.sd.id.hidx, x.sd.pure, x.sd.ob, x.last⟩

/-- The stage instance to which a firing of entry `i` on core `p` belongs: the one that delivered the item taken, else one that the core
serves or whose ring it still empties (R316, R338). -/
def State.serveOf (s : State) (p i id : Nat) : Option Serve :=
  let xs := (NMap.get Links.reset s.links (s.core p).tag.toNat).insts.filter fun x => !x.gone
  ((xs.find? fun x => x.items.contains (p, id)).or
    (xs.find? fun x => x.sd.id.hidx.toNat == i && (x.cores ++ x.leaving).any fun c => c.2 == p)).map Inst.serve

/-- A taken item is no longer in its instance's rings. -/
def Links.takeItem (l : Links) (p id : Nat) : Links :=
  { l with insts := l.insts.map fun x => { x with items := x.items.erase (p, id) } }

/-- A firing of entry `i` starts in slot `k` with the messages `ts` (R123, R126, R127, R133, R316). -/
def State.fire (s : State) (p k i : Nat) (ts : List (Nat × BitVec 6 × List RingMsg)) : State :=
  let c := s.core p
  let e := c.handler i
  let msgs := ts.flatMap fun (j, ch, ms) => ms.map fun m => (j, ch, m, s.ringWords p ch.toNat m)
  let words := (msgs.map fun x => x.2.2.2).headD []
  let task := (ts.map fun x => x.2.1).head? == some 0
  let c := ts.foldl (fun c (_, ch, ms) =>
    let r := c.chRing ch.toNat
    c.setRing ch.toNat
      { r with msgs := r.msgs.map fun m => if ms.any (fun x => x.id == m.id) then { m with taken := true } else m }) c
  let c := msgs.foldl (fun c (_, _, m, ws) => c.accountTake (ws.headD 0) m.arrival s.time) c
  let strm := firingStrm (hENTRY e.hw0) (hSUP e.hw0)
  let item := !task && hdrKind (words.headD 0) == 4
  let id := ((msgs.map fun x => x.2.2.1.id).headD 0)
  let sl : Slot :=
    { Slot.reset with
      st := 1
      s := startRegs words task (replyHandle words task) (c.countWord task (inputs e.hw1))
      x := strm
      a := strm
      firing := firingWord c.fseq c.stage (hPRIO e.hw0) (BitVec.ofNat 6 i)
      path := if task then thPath (words.getD 1 0) else 0
      item := if item then (words.getD 1 0).extractLsb' 0 40 else 0
      taken := msgs.map fun (j, ch, m, _) => ⟨j, ch, m.id, m.pos⟩
      entry := e
      launch := e.launch
      trackers := (c.slot k).trackers
      fenceNo := (c.slot k).fenceNo
      started := s.time
      charges := msgs.map fun x => accountOf (x.2.2.2.headD 0)
      succ := if task then succHandles (words.drop 1) else []
      stageOf := if item then s.serveOf p i id else none }
  let c := c.setSlot k sl
  let tag := c.tag.toNat
  let s := if item then { s with links := NMap.set s.links tag ((NMap.get Links.reset s.links tag).takeItem p id) } else s
  (s.setCore p
    (Core.pmCount { c with
      fseq := c.fseq + 1
      ch := { c.ch with fired := i :: c.ch.fired.filter (· != i) } } 0x03 (some k) 1)).record p k 1 (sl.fseq ++ 0#32)

end Sys2Proof.Machine
end

