-- ==== Sys2Proof/Machine/CtlBlock.lean ====
section
/-!
DEFINITION. The core control block (R350) and what a store to it does: lace slots (R265), slot commands (R366), context descriptors
(R351, R352) and the view of a stopped slot (R357).
-/
namespace Sys2Proof.Machine

/-! ### Context descriptors (R351, R352) -/

/-- The contexts that NEXT considers, with their PASS (R352). -/
def Part.cand (p : Part) : List Nat :=
  (List.range 8).filter fun c => ((p.ctx c).st == 1 || (p.ctx c).st == 2) && (p.ctx c).tickets != 0

/-- The context of least PASS, ties to the lower index. -/
def Part.least (p : Part) : Option Nat :=
  p.cand.foldl (fun b c =>
    match b with
    | none => some c
    | some d => if (p.ctx c).pass.ult (p.ctx d).pass then some c else b) none

def stride (tickets : BitVec 16) : Word := BitVec.ofNat 64 (2 ^ 20 / tickets.toNat)

/-- PASS of a context that enters STATE 1 from 0, 3 or 4 (R352). -/
def Part.entryPass (p : Part) (own : Word) : Word :=
  match p.least with
  | none => own
  | some d => if own.ult (p.ctx d).pass then (p.ctx d).pass else own

/-- NEXT: the chosen context, with its PASS advanced (R352). -/
def Part.next (p : Part) : Option (Nat × Part) :=
  match p.least with
  | none => none
  | some c => some (c, p.setCtx c { p.ctx c with pass := (p.ctx c).pass + stride (p.ctx c).tickets })

/-- The time of a pending switch to another context has come: the streams of the partition stop (R353). -/
def Part.halting (p : Part) (now : Word) : Bool :=
  match p.gang with
  | some (c, t) => t.ule now && p.running != some c
  | none => false

/-- The streams of a partition stop: for a switch, or because the module goes idle-clocked and its contexts are captured (R353, R392). -/
def State.halts (s : State) (tag : Nat) : Bool := (s.part tag).halting s.time || s.mode == .idleClocked

/-- Word `w` of a descriptor; every word of an empty one reads 0. -/
def Ctx.word (x : Ctx) (w : Nat) : Word :=
  if x.st = 0 then 0
  else match w with
    | 0 => x.tickets ++ 0#45 ++ x.st
    | 1 => x.pass
    | 2 => x.root
    | 3 => x.saveBase
    | 4 => x.psave
    | 8 => x.kill.getD 0 0
    | 9 => x.kill.getD 1 0
    | 10 => x.kill.getD 2 0
    | 11 => x.kill.getD 3 0
    | _ => 0

/-- A store to word `w` of descriptor `c`: TICKETS may change, and STATE may move between 1 and 3 for a context that is not running and
that no pending switch names (R351). -/
def State.descWrite (s : State) (tag c w : Nat) (v : Word) : State :=
  if w ≠ 0 then s
  else
    let p := s.part tag
    let x := p.ctx c
    if x.st = 0 then s
    else
      let named := match p.gang with | some (d, _) => d == c | none => false
      let new := v.extractLsb' 0 3
      let moves := (x.st == 1 && new == 3 || x.st == 3 && new == 1) && p.running != some c && !named
      let y := { x with tickets := v.extractLsb' 48 16 }
      let y := if moves then
          { y with st := new, pass := if new = 1 then p.entryPass x.pass else x.pass }
        else y
      s.setPart tag (p.setCtx c y)

/-! ### Lace slots (R265) -/

def Core.laceSlot (c : Core) (i : Nat) : LaceSlot := vget ⟨0, 0, 0⟩ c.lace i
def Core.setLace (c : Core) (i : Nat) (l : LaceSlot) : Core := { c with lace := vset c.lace i l }
def lsState (w : Word) : Nat := (w.extractLsb' 61 3).toNat
def lsBase (w : Word) : Nat := (w.extractLsb' 0 14).toNat
def lsSize (w : Word) : Nat := (w.extractLsb' 14 11).toNat

/-- BASE and SIZE are legal (R265). -/
def laceFits (v : Word) : Bool := decide (lsSize v ≤ 1024) && decide (lsBase v + lsSize v ≤ 12288)

/-- A write of BASE and SIZE takes effect only while the slot is Empty and within the limit (R265). -/
def State.laceWrite (s : State) (p i : Nat) (v : Word) : State :=
  let c := s.core p
  if lsState (c.laceSlot i).word = 0 && laceFits v then
    s.setCore p (c.setLace i { c.laceSlot i with word := v &&& 0x1FFFFFF })
  else s

/-! ### The block (R350) -/

/-- A slot's view is open while it is suspended or in a handler. -/
def Slot.viewOpen (sl : Slot) : Bool := (2#3).ule sl.st && sl.st.ule 4

/-- CBSTAT. -/
def Core.cbstat (c : Core) : Word :=
  0#45 ++ c.ctx ++ bit 1 c.lost ++ (c.slot 4).st ++ (c.slot 3).st ++ (c.slot 2).st ++ (c.slot 1).st ++ (c.slot 0).st

/-- Word `i` of the frame layout stands for something that the slot holds now. A predicate beyond PDEPTH, a holding word or a late fault that
is not valid, and a queue entry beyond the fill count stand for nothing. -/
def Slot.covers (sl : Slot) (i : Nat) : Bool :=
  if 320 ≤ i ∧ i < 328 then decide (i - 320 < sl.preds.length)
  else if i = 330 ∨ i = 331 then sl.x.fmt.isSome
  else if i = 332 ∨ i = 333 then sl.x.rep.isSome
  else if i = 336 ∨ i = 337 then sl.a.fmt.isSome
  else if i = 338 ∨ i = 339 then sl.a.rep.isSome
  else if i = 348 then !(sl.x.late ++ sl.a.late).isEmpty
  else if 384 ≤ i ∧ i < 896 then decide ((i - 384) % 64 / 8 < (sl.queue ((i - 384) / 64)).length)
  else true

/-- A frame word as the view shows it: one that stands for nothing is what has been stored there (R350). -/
def Slot.viewFrame (sl : Slot) (k i : Nat) : Word :=
  if sl.covers i then sl.frameWord k i else ((sl.view.find? fun e => e.1 == i).map (·.2)).getD 0

/-- Word `i` of a slot's view: the frame layout, but for a suspended slot the slot-state word shows the state that a resume returns it to
(R357, R366, R367; log 38). -/
def Slot.viewWord (sl : Slot) (k i : Nat) : Word :=
  if i = 350 && sl.st == 2 then sl.susp.setWidth 64 else sl.viewFrame k i

/-- The slot after a store to word `i` of its view, which keeps a word that stands for nothing yet; a state that no suspended slot can have
come from changes nothing. -/
def Core.viewWrite (c : Core) (k i : Nat) (v : Word) : Slot :=
  let sl := c.slot k
  if i = 350 then (if sl.st == 2 && (v == 1 || v == 3 || v == 4) then { sl with susp := v.extractLsb' 0 3 } else sl)
  else
    let new := c.slotFrom sl fun j => if j = i then v else sl.viewFrame k j
    { new with view := ((i, v) :: sl.view.filter fun e => e.1 != i).filter fun e => !new.covers e.1 }

/-- The word at a byte offset, or none where the block lists no readable word. -/
def State.ctlRead (s : State) (p off : Nat) : Option Word :=
  let c := s.core p
  if off = 0 then some c.cbstat
  else if off = 0x08 then some c.partTag
  else if off = 0x10 then some c.lctBase
  else if off = 0x18 then some c.trapVec
  else if off = 0x20 then some c.priv
  else if 0x40 ≤ off ∧ off < 0xC0 then some ((c.laceSlot ((off - 0x40) / 8)).word &&& 0x1FFFFFF)
  else if 0x100 ≤ off ∧ off < 0x300 then some (c.chanCfg ((off - 0x100) / 8))
  else if 0x400 ≤ off ∧ off < 0xA00 then
    let e := c.handler ((off - 0x400) / 24)
    some (match (off - 0x400) % 24 / 8 with | 0 => e.hw0 | 1 => e.hw1 | _ => e.hw2)
  else if 0x1000 ≤ off ∧ off < 0x1028 then some 0
  else if 0x3000 ≤ off ∧ off < 0x3400 ∧ c.isSup then
    some ((s.ctx c.tag.toNat ((off - 0x3000) / 128)).word ((off - 0x3000) % 128 / 8))
  else if 0x4000 ≤ off ∧ off < 0xE000 then
    let k := (off - 0x4000) / 0x2000
    let sl := c.slot k
    some (if sl.viewOpen then sl.viewWord k ((off - 0x4000) % 0x2000 / 8) else 0)
  else none

/-- The state after a store, or none where the block lists no writable word. -/
def State.ctlWrite (s : State) (p off : Nat) (v : Word) : Option State :=
  let c := s.core p
  if 0x40 ≤ off ∧ off < 0xC0 then some (s.laceWrite p ((off - 0x40) / 8) v)
  else if 0x1000 ≤ off ∧ off < 0x1028 then
    let k := (off - 0x1000) / 8
    if (v == 1 || v == 2) && (c.slot k).st == 2 then some (s.setCore p { c with cmds := c.cmds ++ [(k, v == 2, s.time)] }) else some s
  else if 0x3000 ≤ off ∧ off < 0x3400 ∧ c.isSup then
    some (s.descWrite c.tag.toNat ((off - 0x3000) / 128) ((off - 0x3000) % 128 / 8) v)
  else if 0x4000 ≤ off ∧ off < 0xE000 then
    let k := (off - 0x4000) / 0x2000
    some (if (c.slot k).viewOpen then s.setCore p (c.setSlot k (c.viewWrite k ((off - 0x4000) % 0x2000 / 8) v)) else s)
  else none

end Sys2Proof.Machine
end

