-- ==== Sys2Proof/Machine/LocalMem.lean ====
section
/-!
DEFINITION. Scalar memory access, OP 0x58 to 0x65 (R178 to R195, R206 to R209, R224, R225), and the units' steps that answer it.
-/
namespace Sys2Proof.Machine

/-- The group takes REP and no FMT (R48). -/
def entMem (op : Byte) (u : Used) (str : Option Bool) : Entry := ⟨op, u, false, true, str⟩

/-! ### Checks -/

/-- Read windows of a core (R185). -/
def winEn (w : Word) : Bool := w.getLsbD 31
def winLo (w : Word) : Nat := (w.extractLsb' 0 14).toNat * 64
def winHi (w : Word) : Nat := winLo w + (w.extractLsb' 14 14).toNat * 64
/-- A byte of the range lies in an open window. -/
def Core.windowHit (c : Core) (off n : Nat) : Bool :=
  c.win.toList.any fun w => winEn w && decide (off < winHi w) && decide (winLo w < off + n)
/-- The range lies wholly inside one open window. -/
def Core.windowCovers (c : Core) (off n : Nat) : Bool :=
  c.win.toList.any fun w => winEn w && decide (winLo w ≤ off) && decide (off + n ≤ winHi w)

/-- The range touches the frame area while FEN = 1 (R364). -/
def Core.frameHit (c : Core) (off n : Nat) : Bool :=
  let lo := (c.priv.extractLsb' 0 14).toNat * 64
  c.fen && decide (off < lo + 640 * 64) && decide (lo < off + n)

def cbSize (b : CBuf) : Nat := if b.lsize = 0 then 0 else 2 ^ (b.lsize.toNat - 1)
def Core.buffer (c : Core) (i : Nat) : CBuf := vget CBuf.reset c.cbuf i

/-- The range lies in the extent of the output buffer of a pure stage (R331). -/
def Core.inOb (c : Core) (v : Serve) (off n : Nat) : Bool :=
  let b := c.buffer v.ob
  decide (b.base.toNat * 64 ≤ off) && decide (off + n ≤ b.base.toNat * 64 + cbSize b * 64)

/-- The stage instance of a pure-stage firing (R331). -/
def State.pureOf (s : State) (t : StreamId) : Option Serve := (s.slot t).stageOf.filter (·.pure)

/-- A write by a firing to local memory of core `p`: the frame area, a pure stage's output buffer, and the open windows (R364, R331,
R185). -/
def State.mayWrite (s : State) (t : StreamId) (p off n : Nat) (ea : Word) : Run Unit :=
  let c := s.core p
  if c.frameHit off n && (s.strm t).pl == 0 then trapAt 0x0D ea
  else if (match s.pureOf t with | some v => !(p == t.core && c.inOb v off n) | none => false) then trapAt 0x06 ea
  else if c.windowHit off n then trapAt 0x06 ea
  else .ok ()

/-- A device store by a firing of a pure stage (R331). -/
def State.mayStoreDevice (s : State) (t : StreamId) (ea : Word) : Run Unit :=
  if (s.pureOf t).isSome then trapAt 0x05 ea else .ok ()

def Space.isCtl : Space → Bool
  | .ctl _ _ => true
  | .away _ _ kind _ => kind == 2
  | _ => false

/-- Local memory of a core other than `p` (R184). -/
def Space.foreign (p : Nat) : Space → Bool
  | .lm q _ => q != p
  | .away _ _ kind _ => kind == 0
  | _ => false

/-- The issue checks of a scalar access in the order of R103 and R187: the control block's privilege and width (R350), tag and fields,
alignment, bounds. -/
def State.scalarSpace (s : State) (t : StreamId) (ea : Word) (n : Nat) (w64 store : Bool) : Run Space :=
  match s.space t.core ea with
  | none => trapAt 0x04 ea
  | some sp =>
    if sp.isCtl && (s.strm t).pl == 0 then trapAt 0x0D ea
    else if sp.isCtl && !w64 then trapAt 0x04 ea
    else if boundsCause sp n == some 0x04 then trapAt 0x04 ea
    else if store && sp.foreign t.core then trapAt 0x04 ea
    else if ea.toNat % n ≠ 0 then trapAt 0x07 ea
    else match boundsCause sp n with
      | some c => trapAt c ea
      | none => .ok sp

/-! ### Answers from other cores and other modules (R186, R204) -/

def State.answer (s : State) (t : StreamId) : Option RemoteReply :=
  (s.strm t).pend.bind fun w => if w.kind = .remote then w.reply else none

/-- An access at another module: what a reply may be for an instruction (R57, R58). A trap cause or a status that the instruction cannot
have is no reply to it. -/
def causeOk (i : Instr) (c : Byte) : Bool :=
  match i with
  | .nop _ => c == 0x04 || c == 0x06
  | .ld _ | .ldq _ => c == 0x04 || c == 0x06 || c == 0x10 || c == 0x11
  | .st _ | .stRel _ | .stq _ | .stqRel _ => c == 0x04 || c == 0x05 || c == 0x06 || c == 0x10
  | .amadd _ | .ammin _ | .ammax _ | .amswp _ | .amcas _ | .amdec _ => c == 0x06 || c == 0x10 || c == 0x11
  | .copy _ | .copyb _ | .gath _ | .mtask _ => c == 0x05 || c == 0x06
  | .copyp _ => c == 0x05 || c == 0x06 || c == 0x0F
  | .lace _ => false
  | .ldr _ => c == 0x03 || c == 0x04 || c == 0x05 || c == 0x0F
  | _ => false

/-- The status that a home may give a capability instruction, or LACE. -/
def statusOk (i : Instr) (ws : List Word) : Bool :=
  let st := ws.headD 0
  match i with
  | .hand _ | .handInit _ | .recl _ | .reclNb _ | .reclDrop _ | .swapmAbort _ => st == 0 || st == 0x04
  | .publ _ | .publLace _ | .shad _ | .swapm _ => st == 0 || st == 0x04 || st == 0x08
  | .lace _ =>
    let tsz := ((ws.getD 1 0).extractLsb' 0 11).toNat
    (st == 0 && decide (1 ≤ tsz) && decide (tsz ≤ 1024)) || st == 0x04 || st == 0x06 || st == 0x07 || st == 0x0B
  | _ => true

def replyFits (i : Instr) : RemoteReply → Bool
  | .own => true
  | .data ws => statusOk i ws
  | .refused c => causeOk i c

/-- A message that a slot has sent to a core is still on its way: what the slot sends or asks there later comes after it (R228). -/
def State.messageAhead (s : State) (p slot q : Nat) : Bool :=
  let mine (k : Packet) : Bool := k.src == p && k.dst == q && k.sender.any (·.slot == slot)
  s.mesh.any mine || (s.core q).port.any mine || s.succs.any fun m => m.src == p && m.dst == q && m.sender.any (·.slot == slot)

/-- An LDR of a slot has not yet read at a core, where the slot's later accesses and messages come after it (R186, R228). -/
def State.ldrAhead (s : State) (p slot q : Nat) : Bool :=
  (s.core p).ldrs.any fun l => l.slot == slot && match s.space p l.addr with | some (.lm r _) => r == q | _ => false

/-- An access at another core of this module completes at its answer, after the slot's older messages and reads there; the target checks
the partition tag (R186, R228, R348). It has no time limit, which is for other modules alone (R204). -/
def State.atCore (s : State) (t : StreamId) (i : Instr) (p : Nat) (ea : Word) : Run Unit :=
  if p = t.core then .ok ()
  else
    match s.answer t with
    | some .own =>
      if s.messageAhead t.core t.slot p || s.ldrAhead t.core t.slot p then .error (.hold s)
      else if (s.core p).valid && (s.core p).tag == (s.core t.core).tag then .ok ()
      else trapAt 0x10 ea
    | some _ => .error (.hold s)
    | none => .error (.hold (s.await t .remote i none (some ea)))

/-- An access at another module: its answer, which a welt port brings (R204). `snap` is what the stream keeps for the time of the answer. -/
def State.atModule (s : State) (t : StreamId) (i : Instr) (m : BitVec 13) (ea : Word) (snap : List Nat := []) : Run (List Word) :=
  match s.answer t with
  | some (.data ws) => .ok ws
  | some (.refused cause) => trapAt cause ea
  | some .own => .error (.hold s)
  | none =>
    let s := (s.await t .remote i (some (s.time + s.limit)) (some ea)).modStrm t fun st => { st with snap := snap }
    .error (.hold { s with weltOut := s.weltOut ++ [.request m (s.core t.core).gpid ea i] })

def wordsNat (ws : List Word) : Nat := ws.foldr (fun w a => w.toNat + 2 ^ 64 * a) 0
def wordsOf (n x : Nat) : List Word := (List.range n).map fun i => BitVec.ofNat 64 (x / 2 ^ (64 * i))

/-- The bytes that the store buffer holds now of `n` bytes of a region, 256 where it holds none (R225). -/
def sbSnap (es : List SBEntry) (m : BitVec 13) (key n : Nat) : List Nat :=
  (List.range n).map fun i => match sbByte es m (key + i) with | some b => b.toNat | none => 256

/-- Those bytes go in front of what a home answers. -/
def snapPatch : List Nat → Nat → Nat
  | [], _ => 0
  | b :: bs, x => (if b < 256 then b else x % 256) + 256 * snapPatch bs (x / 256)

/-! ### Loads -/

/-- A load of `n` bytes of device memory at its home, which it waits for while a die on the way relocks (R206, R209, R225, R394). -/
def State.devLoad (s : State) (t : StreamId) (pl : Place) (ea : Word) (n : Nat) : Run Nat :=
  let c := s.core t.core
  let r := s.region pl.rkey
  if !s.reachable t.core ea then .error (.hold s)
  else match r.refuses (c.holds r) false false with
    | some cause => trapAt cause ea
    | none => if (s.badIn pl.key n).isSome then trapAt 0x11 ea else .ok (s.devRead t.core pl.key n)

/-- The `n` bytes of a scalar load (R181, R184 to R187, R206, R350). -/
def State.loadNat (s : State) (t : StreamId) (i : Instr) (ea : Word) (n : Nat) (sp : Space) : Run Nat :=
  match sp with
  | .lm p off => do
    s.atCore t i p ea
    if p != t.core && !(s.core p).windowCovers off n then trapAt 0x06 ea
    else if (s.badIn (localKey p off) n).isSome then trapAt 0x11 ea
    else .ok (s.mem.readNat (localKey p off) n)
  | .ctl p off => do
    s.atCore t i p ea
    match s.ctlRead p off with
    | some w => .ok w.toNat
    | none => trapAt 0x04 ea
  | .away m pos kind off => do
    let ws ← s.atModule t i m ea (if kind = 1 then sbSnap (s.core t.core).sbuf m (vaultKey pos off) n else List.replicate n 256)
    .ok (snapPatch (s.strm t).snap (wordsNat ws))
  | _ => do
    let pl ← s.scalarPlace t i sp ea
    if pl.module = 0x1FFF then s.devLoad t pl ea n
    else do
      let ws ← s.atModule t i pl.module ea (sbSnap (s.core t.core).sbuf pl.module pl.key n)
      .ok (snapPatch (s.strm t).snap (wordsNat ws))

def memTy (f : FmtA) : BitVec 4 := f.fn.extractLsb' 0 4
def memBytes (f : FmtA) : Nat := tyWidth (memTy f) / 8

/-- i types sign-extend; n and floating types zero-extend (R187). -/
def extend (ty : BitVec 4) (x : Nat) : Word :=
  let w := tyWidth ty
  if (1#4).ule ty && ty.ule 4 && decide (2 ^ (w - 1) ≤ x) then BitVec.ofInt 64 ((x : Int) - 2 ^ w) else BitVec.ofNat 64 x

def ldBody (t : StreamId) (f : FmtA) (s : State) : Run State := do
  let ea ← s.memOperand t f
  let sp ← s.scalarSpace t ea (memBytes f) (f.fn == 8) false
  let x ← s.loadNat t (.ld f) ea (memBytes f) sp
  setD s t f (extend (memTy f) x)

/-- LD (R187). -/
def execLd (f : FmtA) (s : State) : Host.Outcome State Fault Refusal := issueA (entMem 0x58 usedDab none) anyFields ldBody f s

def ldqBody (t : StreamId) (f : FmtA) (s : State) : Run State := do
  let ea ← s.memOperand t f
  let sp ← s.scalarSpace t ea 64 false false
  let x ← s.loadNat t (.ldq f) ea 64 sp
  .ok (s.push t f.d.toNat (BitVec.ofNat 512 x))

/-- LDQ (R187). -/
def execLdq (f : FmtA) (s : State) : Host.Outcome State Fault Refusal :=
  issueA (entMem 0x5A usedDab (some true)) anyFields ldqBody f s

/-! ### Stores -/

/-- Nothing older of the slot waits in the store buffer or for an LDR's read (R188). -/
def State.drained (s : State) (t : StreamId) : Bool :=
  let c := s.core t.core
  !(c.sbuf.any fun e => e.slot == t.slot) && !(c.ldrs.any fun l => l.slot == t.slot)

/-- Grant-cache keys: regions of other modules stand beside the own ones. -/
def awayKey (m : BitVec 13) (rkey : Nat) : Nat := if m = 0x1FFF then rkey else rkey + 2 ^ 60 * (m.toNat + 1)
def grantKey (pl : Place) : Nat := awayKey pl.module pl.rkey
/-- The grant key of the region that an entry of the store buffer belongs to. -/
def SBEntry.key (e : SBEntry) : Nat := awayKey e.module e.rkey

/-- An LDR of the slot has still to read device memory: its read comes before the slot's younger stores (R41 item 5, R189). -/
def State.ldrReads (s : State) (t : StreamId) : Bool :=
  (s.core t.core).ldrs.any fun l => l.slot == t.slot &&
    match s.space t.core l.addr with
    | some (.lm _ _) | some (.away _ _ 0 _) => false
    | _ => true

/-- A device store enters the store buffer once its capability is confirmed (R208, R224), after the older reads of its slot (R189).
A probe that a home refuses counts (R404). -/
def State.devStore (s : State) (t : StreamId) (i : Instr) (pl : Place) (ea : Word) (n x : Nat) (rel : Bool) : Run State :=
  let c := s.core t.core
  if s.ldrReads t || rel && c.ldrs.any (fun l => l.slot == t.slot) then .error (.hold s)
  else if c.grants.contains (grantKey pl) then
    (s.setCore t.core (c.grant (grantKey pl))).sbEnter t pl pl.key n x rel
  else if pl.module = 0x1FFF then
    .error (.hold ((s.modCore t.core fun c => c.pmCount 0x07 (some t.slot) 1).await t .probe i none (some ea)))
  else match s.answer t with
    | some (.refused cause) => .error (.hold ((s.modCore t.core fun c => c.pmCount 0x22 none 1).precise t cause (some ea)))
    | a => do
      let _ ← (if a.isSome then s else s.modCore t.core fun c => c.pmCount 0x07 (some t.slot) 1).atModule t i pl.module ea
      (s.setCore t.core (c.grant (grantKey pl))).sbEnter t pl pl.key n x rel

/-- A store of `n` bytes by a firing (R181, R184, R185, R187, R208, R331, R350). -/
def State.storeNat (s : State) (t : StreamId) (i : Instr) (ea : Word) (n x : Nat) (rel : Bool) (sp : Space) : Run State :=
  match sp with
  | .lm p off => do
    s.mayWrite t p off n ea
    if rel && !s.drained t then .error (.hold s)
    else if (s.badPartial (localKey p off) n).isSome then trapAt 0x11 ea
    else .ok (s.store (localKey p off) n x)
  | .ctl p off => do
    s.atCore t i p ea
    if rel && !s.drained t then .error (.hold s)
    else match s.ctlWrite p off (BitVec.ofNat 64 x) with
      | some s' => .ok s'
      | none => trapAt 0x04 ea
  | .away m pos kind off =>
    if kind = 1 then do
      s.mayStoreDevice t ea
      let pl : Place := ⟨vaultKey pos off, vaultKey pos (off / 0x10000 * 0x10000), 0, true, 0, m, ea, none⟩
      s.devStore t i pl ea n x rel
    else if rel && !s.drained t then .error (.hold s)
    else do
      let _ ← s.atModule t i m ea
      .ok s
  | _ => do
    s.mayStoreDevice t ea
    let pl ← s.scalarPlace t i sp ea
    s.devStore t i pl ea n x rel

def stBody (i : FmtA → Instr) (rel : Bool) (t : StreamId) (f : FmtA) (s : State) : Run State := do
  let ea ← s.memOperand t f
  let sp ← s.scalarSpace t ea (memBytes f) (f.fn == 8) true
  s.storeNat t (i f) ea (memBytes f) ((s.reg t f.c).toNat % 256 ^ memBytes f) rel sp

def usedAbc : Used := ⟨false, true, true, true, false⟩

/-- ST (R187). -/
def execSt (f : FmtA) (s : State) : Host.Outcome State Fault Refusal :=
  issueA (entMem 0x59 usedAbc none) anyFields (stBody .st false) f s
/-- ST.rel (R188). -/
def execStRel (f : FmtA) (s : State) : Host.Outcome State Fault Refusal :=
  issueA (entMem 0x59 usedAbc none) anyFields (stBody .stRel true) f s

def stqBody (i : FmtA → Instr) (rel : Bool) (t : StreamId) (f : FmtA) (s : State) : Run State := do
  let ea ← s.memOperand t f
  let sp ← s.scalarSpace t ea 64 false true
  let s ← s.storeNat t (i f) ea 64 (s.queueHead t f.c.toNat).toNat rel sp
  .ok (s.pop t f.c.toNat)

/-- STQ (R187). -/
def execStq (f : FmtA) (s : State) : Host.Outcome State Fault Refusal :=
  issueA (entMem 0x5B usedAbc (some true)) anyFields (stqBody .stq false) f s
/-- STQ.rel (R188). -/
def execStqRel (f : FmtA) (s : State) : Host.Outcome State Fault Refusal :=
  issueA (entMem 0x5B usedAbc (some true)) anyFields (stqBody .stqRel true) f s

/-! ### LDR (R189) -/

/-- What a read for LDR finds at its home: the words, or the status that refuses them (R189, R206, R209). `snap` are the bytes that the
store buffer held at issue. -/
def State.ldrWords (s : State) (p : Nat) (ea : Word) (n : Nat) (snap : List Nat) : Except Byte (List Word) :=
  let c := s.core p
  match s.space p ea with
  | some (.lm q off) =>
    if q ≠ p && !((s.core q).valid && (s.core q).tag == c.tag && (s.core q).windowCovers off (8 * n)) then .error 0x04
    else if (s.badIn (localKey q off) (8 * n)).isSome then .error 0x05
    else .ok (s.localWords q off n)
  | some sp =>
    let word (k : Nat) : Except Byte Word :=
      match s.placeOf p (match sp with
        | .virt va => .virt ((va + BitVec.ofNat 64 (8 * k)) &&& 0x00FFFFFFFFFFFFFF)
        | .vault q off => .vault q (off + 8 * k)
        | x => x) with
      | none => .error 0x03
      | some pl =>
        let r := s.region pl.rkey
        if (r.refuses (c.holds r) false false).isSome then .error 0x04
        else if (s.badIn pl.key 8).isSome then .error 0x05
        else .ok (BitVec.ofNat 64 (snapPatch ((snap.drop (8 * k)).take 8) (s.mem.readNat pl.key 8)))
    (List.range n).mapM word
  | none => .error 0x04

/-- The bytes of the store buffer for LDR's read, each at its own place (R225). -/
def State.ldrSnap (s : State) (p : Nat) (sp : Space) (n : Nat) : List Nat :=
  let es := (s.core p).sbuf
  (List.range n).flatMap fun k =>
    match sp with
    | .virt va =>
      match s.placeOf p (.virt ((va + BitVec.ofNat 64 (8 * k)) &&& 0x00FFFFFFFFFFFFFF)) with
      | some pl => sbSnap es pl.module pl.key 8
      | none => List.replicate 8 256
    | .vault q off => sbSnap es 0x1FFF (vaultKey q (off + 8 * k)) 8
    | .away m q kind off => if kind = 1 then sbSnap es m (vaultKey q (off + 8 * k)) 8 else List.replicate 8 256
    | _ => List.replicate 8 256

/-- The module that holds what LDR reads, where it is another one. -/
def State.ldrAway (s : State) (p : Nat) (sp : Space) : Option (BitVec 13) :=
  match sp with
  | .away m _ _ _ => some m
  | .virt va => (s.placeOf p (.virt va)).bind fun pl => if pl.module = 0x1FFF then none else some pl.module
  | _ => none

/-- LDR's message (R189). -/
def State.ldrSend (s : State) (p : Nat) (target : Word) (n : Nat) (status : Byte) (words : List Word) : State :=
  s.sendTo p none target 2 false ((tgtCookie target ++ 0#16 ++ BitVec.ofNat 8 n ++ status) :: words)

/-- The checks of LDR's address at issue. -/
def State.ldrSpace (s : State) (t : StreamId) (ea : Word) (n : Nat) : Run Space :=
  match s.space t.core ea with
  | none => trapAt 0x04 ea
  | some sp =>
    if sp.isCtl then (if (s.strm t).pl == 0 then trapAt 0x0D ea else trapAt 0x04 ea)
    else if boundsCause sp (8 * n) == some 0x04 then trapAt 0x04 ea
    else if ea.toNat % 8 ≠ 0 then trapAt 0x07 ea
    else match boundsCause sp (8 * n) with
      | some c => trapAt c ea
      | none => .ok sp

/-- The read is issued and performs later. -/
def State.ldrIssue (s : State) (t : StreamId) (f : FmtA) (ea target : Word) (sp : Space) : State :=
  let c := s.core t.core
  let m := s.ldrAway t.core sp
  let q : LdrReq := ⟨c.ldrNext, t.slot, t.acc, (c.slot t.slot).fseq, target, f.d.toNat, ea, m.isSome, s.time + s.limit,
    s.ldrSnap t.core sp f.d.toNat⟩
  let s := s.setCore t.core { c with ldrs := c.ldrs ++ [q], ldrNext := c.ldrNext + 1 }
  match m with
  | some m => { s with weltOut := s.weltOut ++ [.request m c.gpid ea (.ldr f)] }
  | none => s

/-- The issuer's own local memory is read at once, and an error in it traps (R181); every other read is answered later. A read at another
core is issued only when the slot's older messages have arrived there (R228). -/
def ldrBody (t : StreamId) (f : FmtA) (s : State) : Run State := do
  let ea ← s.memOperand t f
  let n := f.d.toNat
  let target := s.reg t f.c
  let sp ← s.ldrSpace t ea n
  s.checkTarget t target
  match sp with
  | .lm p off =>
    if p = t.core then
      (if (s.badIn (localKey p off) (8 * n)).isSome then trapAt 0x11 ea else .ok (s.ldrSend t.core target n 0 (s.localWords p off n)))
    else if s.messageAhead t.core t.slot p then .error (.hold s)
    else .ok (s.ldrIssue t f ea target sp)
  | _ => .ok (s.ldrIssue t f ea target sp)

/-- LDR: D holds N (R189). -/
def execLdr (f : FmtA) (s : State) : Host.Outcome State Fault Refusal :=
  issueA (entMem 0x5C usedDabc none) (fun f => f.d != 0 && f.d.ule 30) ldrBody f s

/-! ### Atomics (R190, R191) -/

/-- The address of an atomic: s[A] + SEXT(IMM48), with the tag of its base (R54, R190). -/
def State.baseImm (s : State) (t : StreamId) (f : FmtA) : Run Word :=
  let ea := s.reg t f.a + immS f
  if addrTag ea != addrTag (s.reg t f.a) then trapAt 0x04 ea else .ok ea

/-- Any space but local memory raises trap 0x04 at issue (R190). -/
def State.atomicSpace (s : State) (t : StreamId) (ea : Word) (n : Nat) : Run Space :=
  match s.space t.core ea with
  | none => trapAt 0x04 ea
  | some sp =>
    if sp.isCtl && (s.strm t).pl == 0 then trapAt 0x0D ea
    else if (match sp with | .lm _ _ => false | .away _ _ kind _ => kind != 0 | _ => true) then trapAt 0x04 ea
    else if ea.toNat % n ≠ 0 then trapAt 0x07 ea
    else match boundsCause sp n with
      | some c => trapAt c ea
      | none => .ok sp

/-- The new value from the old one, s[B] and s[C] as numbers of `w` bits (R190). -/
abbrev AtomicOp := BitVec 4 → Nat → Nat → Nat → Nat → Nat

def signedOf (w x : Nat) : Int := if 2 ^ (w - 1) ≤ x then (x : Int) - 2 ^ w else x
def atomicLess (ty : BitVec 4) (w x y : Nat) : Bool := if ty.ule 4 then decide (signedOf w x < signedOf w y) else decide (x < y)
def amAdd : AtomicOp := fun _ w old b _ => (old + b) % 2 ^ w
def amMin : AtomicOp := fun ty w old b _ => if atomicLess ty w b old then b else old
def amMax : AtomicOp := fun ty w old b _ => if atomicLess ty w old b then b else old
def amSwp : AtomicOp := fun _ _ _ b _ => b
def amCas : AtomicOp := fun _ _ old b c => if old = b then c else old

def atomicBody (i : FmtA → Instr) (g : AtomicOp) (t : StreamId) (f : FmtA) (s : State) : Run State := do
  let ea ← s.baseImm t f
  let n := memBytes f
  let sp ← s.atomicSpace t ea n
  match sp with
  | .lm p off => do
    s.atCore t (i f) p ea
    s.mayWrite t p off n ea
    if (s.badIn (localKey p off) n).isSome then trapAt 0x11 ea
    else
      let w := 8 * n
      let old := s.mem.readNat (localKey p off) n
      let new := g (memTy f) w old ((s.reg t f.b).toNat % 2 ^ w) ((s.reg t f.c).toNat % 2 ^ w)
      setD (s.store (localKey p off) n new) t f (extend (memTy f) old)
  | .away m _ _ _ => do
    let ws ← s.atModule t (i f) m ea
    setD s t f (extend (memTy f) ((ws.headD 0).toNat % 256 ^ n))
  | _ => trapAt 0x04 ea

/-- AMADD (R190). -/
def execAmadd (f : FmtA) (s : State) : Host.Outcome State Fault Refusal :=
  issueA (entMem 0x5D usedDab none) anyFields (atomicBody .amadd amAdd) f s
/-- AMMIN (R190). -/
def execAmmin (f : FmtA) (s : State) : Host.Outcome State Fault Refusal :=
  issueA (entMem 0x5E usedDab none) anyFields (atomicBody .ammin amMin) f s
/-- AMMAX (R190). -/
def execAmmax (f : FmtA) (s : State) : Host.Outcome State Fault Refusal :=
  issueA (entMem 0x5F usedDab none) anyFields (atomicBody .ammax amMax) f s
/-- AMSWP (R190). -/
def execAmswp (f : FmtA) (s : State) : Host.Outcome State Fault Refusal :=
  issueA (entMem 0x60 usedDab none) anyFields (atomicBody .amswp amSwp) f s
/-- AMCAS (R190). -/
def execAmcas (f : FmtA) (s : State) : Host.Outcome State Fault Refusal :=
  issueA (entMem 0x61 usedDabc none) anyFields (atomicBody .amcas amCas) f s

/-- The decrement of AMDEC at the channel unit of core `p` (R191). The words of a packet that pass the end of local memory read as zero, and
an error in the record beyond its word 0 is not looked for (log 82, DESIGN CHOICE). -/
def State.amdecAt (s : State) (p src off : Nat) (sender : BitVec 12) : State :=
  let w := s.localWord p off
  if recCount w = 0 then s
  else
    let s := s.setLocalWord p off (recSetCount w (recCount w - 1))
    if recCount w ≠ 1 then s
    else if taskOk (s.localWord p (off + 8)) then s.push0 p src sender (s.recPacket p off)
    else s.channelFault p 0x08 (localAddr p off)

def amdecBody (t : StreamId) (f : FmtA) (s : State) : Run State := do
  let ea ← s.baseImm t f
  let sp ← s.atomicSpace t ea 8
  match sp with
  | .lm p off => do
    s.atCore t (.amdec f) p ea
    s.mayWrite t p off 8 ea
    if (s.badIn (localKey p off) 8).isSome then trapAt 0x11 ea
    else setD (s.amdecAt p t.core off (s.core t.core).lcore) t f ((recCount (s.localWord p off)).setWidth 64)
  | .away m _ _ _ => do
    let ws ← s.atModule t (.amdec f) m ea
    setD s t f (((ws.headD 0).extractLsb' 0 32).setWidth 64)
  | _ => trapAt 0x04 ea

/-- AMDEC (R191). -/
def execAmdec (f : FmtA) (s : State) : Host.Outcome State Fault Refusal := issueA (entMem 0x62 usedDa none) anyFields amdecBody f s

/-! ### Circular buffers (R192 to R195) -/

def Core.setBuffer (c : Core) (i : Nat) (b : CBuf) : Core := { c with cbuf := vset c.cbuf i b }

/-- CBUF[i] as it reads (R192). -/
def cbWord (b : CBuf) : Word := b.fill ++ b.free ++ b.ppos ++ b.cpos ++ b.lsize ++ b.base

/-- The status of CBCFG for a buffer (R193). -/
def cbcfgStatus (b : CBuf) (w : Word) : Byte :=
  let ls := (w.extractLsb' 14 4).toNat
  let size := if ls = 0 then 0 else 2 ^ (ls - 1)
  if w.extractLsb' 18 46 != 0 || decide (12 < ls) then 0x08
  else if ls ≠ 0 && decide (12288 < (w.extractLsb' 0 14).toNat + size) then 0x07
  else if b.lsize ≠ 0 && (b.fill != 0 || decide (b.free.toNat ≠ cbSize b)) then 0x04
  else 0x00

/-- Streams whose take waits on a disabled buffer trap (R195). -/
def State.failTakes (s : State) (p i : Nat) : State :=
  ((s.core p).takes.filter fun w => w.buf == i).foldl (fun s w => s.precise ⟨p, w.slot, w.acc⟩ 0x04 none) s

def cbcfgBody (t : StreamId) (f : FmtA) (s : State) : Run State :=
  let c := s.core t.core
  let i := (f.imm.extractLsb' 0 4).toNat
  let w := s.reg t f.a
  let st := cbcfgStatus (c.buffer i) w
  if st ≠ 0 then setD s t f (st.setWidth 64)
  else
    let ls := w.extractLsb' 14 4
    let size := if ls = 0 then 0 else 2 ^ (ls.toNat - 1)
    setD (s.setCore t.core (c.setBuffer i ⟨0, BitVec.ofNat 12 size, 0, 0, ls, w.extractLsb' 0 14⟩)) t f 0

/-- Buffer `i` of a core was enabled and is so no more. -/
def State.disables (s s' : State) (p i : Nat) : Bool := ((s.core p).buffer i).lsize != 0 && ((s'.core p).buffer i).lsize == 0

/-- CBCFG (R193). The takes that wait on a buffer it has disabled trap once it has completed: one of them may be the other stream's. -/
def execCbcfg (f : FmtA) (s : State) : Host.Outcome State Fault Refusal :=
  let i := (f.imm.extractLsb' 0 4).toNat
  match issueA (entMem 0x63 usedDa none) anyFields cbcfgBody f s, s.cur with
  | .next s', .stream t => .next (if s.disables s' t.core i then s'.failTakes t.core i else s')
  | r, _ => r

/-- The status of CBCFG.win (R185, R193). -/
def winStatus (w : Word) : Byte :=
  let len := (w.extractLsb' 14 14).toNat
  if w.extractLsb' 32 32 != 0 || w.extractLsb' 28 3 != 0 || (winEn w && decide (len = 0)) then 0x08
  else if winEn w && decide (12288 < (w.extractLsb' 0 14).toNat + len) then 0x07
  else 0x00

/-- CBCFG.win (R193). -/
def execCbcfgWin (f : FmtA) (s : State) : Host.Outcome State Fault Refusal :=
  issueA (entMem 0x63 usedDa none) anyFields (fun t f s =>
    let w := s.reg t f.a
    let st := winStatus w
    let s := if st = 0 then s.modCore t.core fun c => { c with win := vset c.win (f.imm.extractLsb' 0 2).toNat w } else s
    setD s t f (st.setWidth 64)) f s
/-- CBCFG.rdwin (R193). -/
def execCbcfgRdwin (f : FmtA) (s : State) : Host.Outcome State Fault Refusal :=
  issueA (entMem 0x63 usedD none) anyFields (fun t f s =>
    setD s t f (vget 0 (s.core t.core).win (f.imm.extractLsb' 0 2).toNat)) f s

/-- The count of CBTAKE and CBGIVE (R194). -/
def State.cbCount (s : State) (t : StreamId) (f : FmtA) : Nat :=
  if f.b ≠ 0 then (s.reg t f.b).toNat else (f.imm.extractLsb' 4 12).toNat
def cbIndex (f : FmtA) : Nat := (f.imm.extractLsb' 0 4).toNat

/-- A take of `n` units from a side that has them: the buffer after it and the unit's position (R194). -/
def cbTake (b : CBuf) (fill : Bool) (n : Nat) : CBuf × Nat :=
  let size := cbSize b
  if fill then
    ({ b with fill := b.fill - BitVec.ofNat 12 n, cpos := BitVec.ofNat 11 ((b.cpos.toNat + n) % size) }, b.cpos.toNat)
  else
    ({ b with free := b.free - BitVec.ofNat 12 n, ppos := BitVec.ofNat 11 ((b.ppos.toNat + n) % size) }, b.ppos.toNat)

def cbtakeBody (fill : Bool) (t : StreamId) (f : FmtA) (s : State) : Run State :=
  let c := s.core t.core
  let b := c.buffer (cbIndex f)
  let n := s.cbCount t f
  let mine (w : TakeWait) : Bool := w.slot == t.slot && w.acc == t.acc
  let queue := c.takes.filter fun w => w.buf == cbIndex f && w.fill == fill
  let ahead := queue.takeWhile fun w => !mine w
  if b.lsize = 0 then trap 0x04
  else if n = 0 ∨ cbSize b < n then trap 0x08
  else if n ≤ (if fill then b.fill else b.free).toNat ∧ ahead.isEmpty then
    let (b', pos) := cbTake b fill n
    let c := { c.setBuffer (cbIndex f) b' with takes := c.takes.filter fun w => !mine w }
    setD (s.setCore t.core c) t f (localAddr t.core ((b.base.toNat + pos) * 64))
  else if f.md.getLsbD 3 then setD s t f 0
  else if queue.any mine then .error (.hold s)
  else
    let s := s.setCore t.core { c with takes := c.takes ++ [⟨t.slot, t.acc, cbIndex f, fill, n⟩] }
    .error (.hold (s.await t .cbtake (if fill then .cbtakeFill f else .cbtakeFree f) none))

def usedDb : Used := ⟨true, false, true, false, false⟩
def usedB : Used := ⟨false, false, true, false, false⟩

/-- CBTAKE.free (R194, R195). -/
def execCbtakeFree (f : FmtA) (s : State) : Host.Outcome State Fault Refusal :=
  issueA (entMem 0x64 usedDb none) bufCount (cbtakeBody false) f s
/-- CBTAKE.fill (R194, R195). -/
def execCbtakeFill (f : FmtA) (s : State) : Host.Outcome State Fault Refusal :=
  issueA (entMem 0x64 usedDb none) bufCount (cbtakeBody true) f s

/-- A give performs after the slot's older accesses, an LDR's read among them (R195). -/
def cbgiveBody (fill : Bool) (t : StreamId) (f : FmtA) (s : State) : Run State :=
  let c := s.core t.core
  let b := c.buffer (cbIndex f)
  let n := s.cbCount t f
  if b.lsize = 0 then trap 0x04
  else if n = 0 ∨ cbSize b < n ∨ cbSize b < b.fill.toNat + b.free.toNat + n then trap 0x08
  else if c.ldrs.any fun l => l.slot == t.slot then .error (.hold s)
  else
    let k := BitVec.ofNat 12 n
    .ok (s.setCore t.core (c.setBuffer (cbIndex f) (if fill then { b with fill := b.fill + k } else { b with free := b.free + k })))

/-- CBGIVE.fill (R194). -/
def execCbgiveFill (f : FmtA) (s : State) : Host.Outcome State Fault Refusal :=
  issueA (entMem 0x65 usedB none) bufCount (cbgiveBody true) f s
/-- CBGIVE.free (R194). -/
def execCbgiveFree (f : FmtA) (s : State) : Host.Outcome State Fault Refusal :=
  issueA (entMem 0x65 usedB none) bufCount (cbgiveBody false) f s

/-- The buffer unit serves the take that waits longest on a side of a buffer (R195). -/
def execCbtakeWaitServed (core buf : Nat) (fill : Bool) (s : State) : Host.Outcome State Fault Refusal :=
  match (s.core core).takes.find? fun w => w.buf == buf && w.fill == fill with
  | none => .next s
  | some w =>
    let t : StreamId := ⟨core, w.slot, w.acc⟩
    match (s.strm t).pend with
    | some ⟨.cbtake, .cbtakeFree f, _, _, _⟩ => .next (s.finish t (cbtakeBody false t f s))
    | some ⟨.cbtake, .cbtakeFill f, _, _, _⟩ => .next (s.finish t (cbtakeBody true t f s))
    | _ => .next s

/-! ### Answers (R186, R200, R202, R204, R208, R226) -/

/-- The home answers a store's probe: the region enters the grant cache, or the store traps (R206, R208, R331). -/
def execGrantProbeAnswer (t : StreamId) (s : State) : Host.Outcome State Fault Refusal :=
  match (s.strm t).pend with
  | some ⟨.probe, _, _, _, some ea⟩ =>
    let c := s.core t.core
    let go (s : State) : State := s.modStrm t fun st => { st with pend := none }
    match (s.space t.core ea).bind (s.placeOf t.core) with
    | none => .next (go s)
    | some pl =>
      let r := s.region pl.rkey
      match r.refuses (c.mayHold r) true false with
      | some cause => .next ((s.modCore t.core fun c => c.pmCount 0x22 none 1).precise t cause (some ea))
      | none => .next (go (s.setCore t.core (c.grant pl.rkey)))
  | _ => .next s

/-- A stream that waits for a walk of a context. -/
def State.joined (s : State) (w : Walk) (t : StreamId) : Bool :=
  let c := s.core t.core
  match (s.strm t).pend with
  | some ⟨.walk, _, _, _, some a⟩ => c.tag == w.tag && c.ctx == w.ctx && s.pageOf w.tag w.ctx a == s.pageOf w.tag w.ctx w.va
  | _ => false

/-- One of a station's 32 walkers completes its walk, which answers every access that joined it; the walks beyond the first 32 wait for a
walker in arrival order (R18, R200, R202). -/
def execPageWalkComplete (id : WalkerId) (s : State) : Host.Outcome State Fault Refusal :=
  let st := s.station id.station
  match (st.walks.take 32)[id.walker]? with
  | none => .next s
  | some w =>
    let waiting := w.streams.filter (s.joined w)
    let rest := st.walks.eraseIdx id.walker
    match s.walk w.tag w.ctx w.va false with
    | some l =>
      let s := s.setStation id.station ({ st with walks := rest }.insert (s.tlbOf w.tag w.ctx l))
      .next (waiting.foldl (fun s t => s.modStrm t fun x => { x with pend := none }) s)
    | none =>
      let s := s.setStation id.station { st with walks := rest }
      .next (waiting.foldl (fun s t =>
        let ea := ((s.strm t).pend.bind (·.line)).getD w.va
        s.trapEntry t 0x04 ea 0 (some (granuleOf ea))) s)

/-- The bytes of an entry written into a line. -/
def maskedLine (old data : Vec) (mask : Word) : Vec := (old &&& ~~~(spreadMask mask)) ||| (data &&& spreadMask mask)

/-- An entry is written at its home, and the first write of a round is logged (R222, R226). -/
def State.performEntry (s : State) (p : Nat) (e : SBEntry) : State :=
  let c := s.core p
  if e.module ≠ 0x1FFF then { s with weltOut := s.weltOut ++ [.store e.module c.gpid e.line e.mask e.data] }
  else
    let new := maskedLine (BitVec.ofNat 512 (s.mem.readNat e.line 64)) e.data e.mask
    let s := { s with
      mem := s.mem.writeNat e.line 64 new.toNat
      bad := if e.mask = BitVec.allOnes 64 then s.bad.filter (· != e.line) else s.bad }
    s.dirty c.tag c.ctx e.rkey e.va

/-- The entry holds bytes of the vector store with this number. -/
def SBEntry.writtenBy (e : SBEntry) (seq : BitVec 16) : Bool := e.vec.any fun v => v.1 == seq

/-- An entry has left the buffer; a vector store of which it was the last has completed (R173). -/
def State.entryGone (s : State) (p : Nat) (e : SBEntry) : State :=
  match e.vec with
  | none => s
  | some v => if (s.core p).sbuf.any (·.writtenBy v.1) then s
    else s.modCore p fun c =>
      { c with ring := c.ring.map fun d => if d.seq == v.1 && d.st == .issued then { d with st := .completed } else d }

/-- The oldest entry that is not yet sent: a release waits until every older entry of its slot has performed (R188, R226). -/
def sendNext (now : Word) : List SBEntry → List SBEntry → List SBEntry
  | _, [] => []
  | older, e :: es =>
    if e.sent.isSome then e :: sendNext now (older ++ [e]) es
    else if e.release && older.any (fun x => x.slot == e.slot) then e :: es
    else { e with sent := some now } :: es

/-- Two entries go one way to one home, where they perform in the order in which they were sent: a home of this module, or any home of one
other module (R226). -/
def SBEntry.sameWay (x y : SBEntry) : Bool := x.module == y.module && (x.module != 0x1FFF || x.home == y.home)

/-- An entry that was sent, every older one of its home has performed, and at another module its limit has not run out (R204). -/
def State.canPerform (s : State) (es : List SBEntry) (k : Nat) : Option SBEntry :=
  (es[k]?).filter fun e =>
    !(es.take k).any (fun x => x.sameWay e) &&
      e.sent.any fun t => e.module == 0x1FFF || decide ((s.time - t).toNat ≤ s.limit.toNat)

/-- The store buffer sends its next entry, or a home acknowledges the k-th entry, which then leaves (R226). -/
def execStorePerform (core : Nat) (ack : Option Nat) (s : State) : Host.Outcome State Fault Refusal :=
  let c := s.core core
  match ack with
  | none => .next (s.setCore core { c with sbuf := sendNext s.time [] c.sbuf })
  | some k =>
    match s.canPerform c.sbuf k with
    | some e => .next (((s.performEntry core e).modCore core fun c => { c with sbuf := c.sbuf.eraseIdx k }).entryGone core e)
    | none => .next s

end Sys2Proof.Machine
end

