-- ==== Sys2Proof/Machine/Engine.lean ====
section
/-!
DEFINITION. What the engines share: the places that a request names (R252), the checks of a probe in the order of R251 step 3, reads and
writes at the home with their late failures (R227, R259), and the delivery of a completion (R257, R258).
-/
namespace Sys2Proof.Machine

/-! ### Probes (R251, R252, R291) -/

/-- One stretch of bytes that a request touches: its address, the base whose tag it must keep, its length, its alignment, and whether it is
written. -/
structure Touch where
  base : Word
  addr : Word
  n : Nat
  align : Nat
  store : Bool
  deriving DecidableEq, Repr

/-- The touched stretch of lowest address that fails a check. -/
def lowestFailing (check : Touch → Bool) (ts : List Touch) : Option Word :=
  (ts.filter check).foldl (fun b x =>
    match b with
    | none => some x.addr
    | some a => if x.addr.ult a then some x.addr else b) none

def failAt (cause : Byte) (check : Touch → Bool) (ts : List Touch) : Run Unit :=
  match lowestFailing check ts with
  | some a => trapAt cause a
  | none => .ok ()

/-- The space of an address that an engine may name: a vault by tag 0x01 or 0x03 only (R252). -/
def State.engineSpace (s : State) (p : Nat) (a : Word) : Option Space :=
  match s.space p a with
  | some (.ctl _ _) => none
  | some (.vault q off) => if addrTag a == 2 then none else some (.vault q off)
  | some (.away m q kind off) => if kind = 2 then none else some (.away m q kind off)
  | x => x

def State.badForm (s : State) (p : Nat) (x : Touch) : Bool :=
  addrTag x.addr != addrTag x.base ||
    match s.engineSpace p x.addr with
    | none => true
    | some sp => boundsCause sp x.n == some 0x04 || (x.store && sp.foreign p)

def State.outOfLocal (s : State) (p : Nat) (x : Touch) : Bool :=
  match s.engineSpace p x.addr with
  | some (.lm _ off) => decide (localSize < off + x.n)
  | _ => false

/-- The lowest and the highest byte of another core's local memory that the stretches touch. -/
def State.foreignSpan (s : State) (p q : Nat) (ts : List Touch) : Nat × Nat :=
  ts.foldl (fun b x =>
    match s.engineSpace p x.addr with
    | some (.lm r off) => if r = q then (min b.1 off, max b.2 (off + x.n)) else b
    | _ => b) (localSize, 0)

/-- Another core's local memory is read wholly inside one open window; a core of another partition refuses later (R185, R252, R348). -/
def State.outOfWindow (s : State) (p : Nat) (ts : List Touch) (x : Touch) : Bool :=
  match s.engineSpace p x.addr with
  | some (.lm q _) =>
    if q = p || !((s.core q).valid && (s.core q).tag == (s.core p).tag) then false
    else
      let span := s.foreignSpan p q ts
      !(s.core q).windowCovers span.1 (span.2 - span.1)
  | _ => false

/-- The place in device memory, or at another module, that an address of a space names. -/
def State.spacePlace (s : State) (p : Nat) (a : Word) (sp : Option Space) : Option Place :=
  match sp with
  | some (.away m q kind off) =>
    if kind = 1 then some ⟨vaultKey q off, vaultKey q (off / 0x10000 * 0x10000), 0, true, 0, m, a, none⟩
    else some ⟨localKey q off, localKey q 0, 0, false, 0, m, a, none⟩
  | some sp => s.placeOf p sp
  | none => none

/-- The place of a stretch's address. -/
def State.devPlace (s : State) (p : Nat) (a : Word) : Option Place := s.spacePlace p a (s.engineSpace p a)

def State.isDev (s : State) (p : Nat) (a : Word) : Bool :=
  match s.engineSpace p a with
  | some (.lm _ _) => false
  | some _ => true
  | none => false

/-- The cause with which a page's state refuses a stretch; a core that serves a pure stage holds no capability (R206, R331). -/
def State.pageRefuses (s : State) (t : StreamId) (cause : Byte) (x : Touch) : Bool :=
  if s.isDev t.core x.addr then
    if x.store && (s.pureOf t).isSome then cause == 0x05
    else match s.devPlace t.core x.addr with
      | some pl =>
        let c := s.core t.core
        let r := s.region pl.rkey
        pl.module == 0x1FFF && r.refuses (if x.store then c.mayHold r else c.holds r) x.store false == some cause
      | none => false
  else false

/-- A user firing's engine request writes no byte of its core's frame area (R364). -/
def State.hitsFrames (s : State) (t : StreamId) (x : Touch) : Bool :=
  match s.engineSpace t.core x.addr with
  | some (.lm q off) => x.store && (s.strm t).pl == 0 && (s.core q).frameHit off x.n
  | _ => false

/-- The output buffer of a pure stage bounds the local destinations of its firings (R331). -/
def State.outOfBuffer (s : State) (t : StreamId) (x : Touch) : Bool :=
  match s.pureOf t, s.engineSpace t.core x.addr with
  | some v, some (.lm q off) => x.store && !(q == t.core && (s.core t.core).inOb v off x.n)
  | _, _ => false

/-- A place on another module that a probe asks: its module and page, the lowest address touched there, the page's lowest address, and
whether it is written. -/
structure AwayPage where
  module : BitVec 13
  page : Nat
  addr : Word
  base : Word
  store : Bool
  deriving DecidableEq, Repr

/-- The place that a stretch on another module lies in: a page, a vault frame, or a core's local memory. -/
def State.awayPage (s : State) (p : Nat) (x : Touch) : Option AwayPage :=
  if s.isDev p x.addr then
    (s.devPlace p x.addr).bind fun pl =>
      let base := match s.engineSpace p x.addr with
        | some (.virt _) => pl.va
        | some (.away _ _ kind _) => if kind = 1 then x.addr &&& 0xFFFFFFFFFFFF0000 else x.addr
        | _ => x.addr
      if pl.module = 0x1FFF then none else some ⟨pl.module, pl.rkey, x.addr, base, x.store⟩
  else none

/-- Places stand in rising order of their addresses. -/
def insertPage (q : AwayPage) : List AwayPage → List AwayPage
  | [] => [q]
  | x :: xs => if q.addr.ult x.addr then q :: x :: xs else x :: insertPage q xs

/-- Each distinct place once, with the lowest address touched there. -/
def addPage (ps : List AwayPage) (q : AwayPage) : List AwayPage :=
  let same (x : AwayPage) : Bool := x.module == q.module && x.page == q.page && x.store == q.store
  match ps.find? same with
  | none => insertPage q ps
  | some o => if q.addr.ult o.addr then insertPage q (ps.filter fun x => !same x) else ps

def State.awayPages (s : State) (p : Nat) (ts : List Touch) : List AwayPage := (ts.filterMap (s.awayPage p)).foldl addPage []

/-- The translations that a probe needs (R404). -/
def State.touchPages (s : State) (p : Nat) (ts : List Touch) : State :=
  ts.foldl (fun s x => match s.engineSpace p x.addr with | some (.virt va) => s.touchPage p va | _ => s) s

def lowerOf : Option Word → Option Word → Option Word
  | some a, some b => some (if b.ult a then b else a)
  | some a, none => some a
  | none, b => b

/-- The stretch lies in a core's local memory on another module, which tests its window there (R185, R252). -/
def State.awayWindow (s : State) (p : Nat) (x : Touch) : Bool :=
  match s.engineSpace p x.addr with
  | some (.away _ _ kind _) => kind == 0
  | _ => false

/-- The places that a probe asks on other modules: the windows, which it needs before the translations, and then the homes (R251). -/
def State.windowPages (s : State) (p : Nat) (ts : List Touch) : List AwayPage := s.awayPages p (ts.filter (s.awayWindow p))
def State.homePages (s : State) (p : Nat) (ts : List Touch) : List AwayPage := s.awayPages p (ts.filter fun x => !s.awayWindow p x)

/-- A region that must be Private to the core stands in another state that the core may write (R290). -/
def State.notPrivate (s : State) (p : Nat) (x : Touch) : Bool :=
  if s.isDev p x.addr then
    match s.devPlace p x.addr with
    | some pl => pl.module == 0x1FFF && (s.region pl.rkey).st != .priv
    | none => false
  else false

/-- The lowest of the places that have answered with a cause. -/
def awayRefused (pages : List AwayPage) (asked : List Byte) (cause : Byte) : Option Word :=
  (pages.zip asked).foldl (fun b x => if x.2 == cause then lowerOf b (some x.1.addr) else b) none

/-- The pages of this module whose homes refuse a probe, each once (R404). -/
def State.refusedHere (s : State) (t : StreamId) (ts : List Touch) : Nat :=
  if (s.pureOf t).isSome then 0
  else ((ts.filter fun x => s.pageRefuses t 0x05 x || s.pageRefuses t 0x06 x).map fun x =>
    ((s.devPlace t.core x.addr).map (·.rkey), x.store)).eraseDups.length

/-- Every home has answered: the cause that refuses the lowest address, 0x05 before 0x06 (R251; log 83). Each probe refused at a home counts
(R404). `must` are the stretches whose region must be Private (R290). -/
def State.probeEnds (s : State) (t : StreamId) (ts must : List Touch) (pages : List AwayPage) (asked : List Byte) : Run State :=
  let refused (cause : Byte) : Option Word := lowerOf (lowestFailing (s.pageRefuses t cause) ts) (awayRefused pages asked cause)
  let state : Option Word := lowerOf (refused 0x06) (lowestFailing (s.notPrivate t.core) must)
  let counted := s.modCore t.core fun c => c.pmCount 0x22 none (s.refusedHere t ts + (asked.filter (· != 0)).length)
  match refused 0x05, state, lowestFailing (s.outOfBuffer t) ts with
  | some a, _, _ => .error (.hold (counted.precise t 0x05 (some a)))
  | none, some a, b => .error (.hold (counted.precise t 0x06 (lowerOf (some a) b)))
  | none, none, some b => trapAt 0x06 b
  | none, none, none => .ok s

/-- Several places on other modules are asked at once, each about its own bytes; the stream waits for the lowest of those that have not
answered (R204, R251). -/
def State.askPages (s : State) (t : StreamId) (i : Instr) (asked : List Byte) (pages : List AwayPage) (base : Word) : Run State :=
  let s := (s.await t .remote i (some (s.time + s.limit)) (some base)).modStrm t fun st => { st with asked := asked }
  .error (.hold { s with weltOut := s.weltOut ++ pages.map fun q => .request q.module (s.core t.core).gpid q.addr i })

/-- The read windows (R251, R252): those of this module, and those of other modules as they have answered. -/
def State.windowsEnd (s : State) (t : StreamId) (ts : List Touch) (wins : List (List Touch)) (asked : List Byte) : Run Unit :=
  match lowerOf (lowestFailing (fun x => wins.any fun g => g.contains x && s.outOfWindow t.core g x) ts)
      (awayRefused (s.windowPages t.core ts) asked 0x06) with
  | some a => trapAt 0x06 a
  | none => .ok ()

/-- The translations, and then the homes, once no die on the way relocks (R251, R394). `asked` are the answers of the windows. -/
def State.probeHomes (s : State) (t : StreamId) (i : Instr) (ts must : List Touch) (asked : List Byte) : Run State :=
  if ts.any fun x => !s.reachable t.core x.addr then .error (.hold s)
  else
  let s := s.touchPages t.core ts
  match lowestFailing (fun x => s.isDev t.core x.addr && (s.devPlace t.core x.addr).isNone) ts with
  | some a => .error (.hold (s.trapEntry t 0x04 a 0 (some (granuleOf a))))
  | none =>
    match s.homePages t.core ts with
    | [] => s.probeEnds t ts must [] []
    | q :: qs => s.askPages t i asked (q :: qs) q.base

/-- The cause that an answer stands for: a window and a source refuse with 0x06, a destination with 0x05, and with 0x06 where it must be
Private (R251, R290). -/
def State.probeCause (s : State) (p : Nat) (must : List Touch) (q : AwayPage) : RemoteReply → Byte
  | .refused c =>
    if q.store && !(c == 0x06 && (must.filterMap (s.awayPage p)).any fun x => x.module == q.module && x.page == q.page) then 0x05 else 0x06
  | _ => 0

/-- One of the places on other modules has answered: the next is waited for, and after the last window the homes are asked (R204, R251). -/
def State.probeAnswer (s : State) (t : StreamId) (i : Instr) (ts must : List Touch) (wins : List (List Touch)) (r : RemoteReply) : Run State :=
  let ws := s.windowPages t.core ts
  let pages := ws ++ s.homePages t.core ts
  let st := s.strm t
  let asked := st.asked ++ ((pages[st.asked.length]?).map fun q => s.probeCause t.core must q r).toList
  if asked.length = ws.length then do
    s.windowsEnd t ts wins asked
    s.probeHomes t i ts must asked
  else match pages[asked.length]? with
    | some q =>
      .error (.hold (s.modStrm t fun st =>
        { st with asked := asked, pend := st.pend.map fun w => { w with reply := none, line := some q.base } }))
    | none => s.probeEnds t ts must (pages.drop ws.length) (asked.drop ws.length)

/-- Step 3 of R251 over every stretch; `wins` are the ranges each of which must lie inside one read window (R252, R290), `must` the stretches
whose region must be Private (R290). That 0x0D stands between 0x08 and 0x06 is the model's choice (R364, log 104). -/
def State.probe (s : State) (t : StreamId) (i : Instr) (ts : List Touch) (wins : List (List Touch)) (must : List Touch := []) : Run State :=
  match s.answer t with
  | some r => s.probeAnswer t i ts must wins r
  | none => do
    failAt 0x04 (s.badForm t.core) ts
    failAt 0x07 (fun x => x.addr.toNat % x.align ≠ 0) ts
    failAt 0x08 (s.outOfLocal t.core) ts
    failAt 0x0D (s.hitsFrames t) ts
    match s.windowPages t.core ts with
    | q :: qs => s.askPages t i [] (q :: qs) q.base
    | [] => do
      s.windowsEnd t ts wins []
      s.probeHomes t i ts must []

/-! ### Reads and writes at the home (R227, R259) -/

/-- A number of `n` bytes that nothing constrains. -/
def State.freeNat (s : State) (n : Nat) : Nat × State :=
  ((List.range n).foldr (fun i a => (Config.freeByte (s.free + i)).toNat + 256 * a) 0, { s with free := s.free + n })

/-- Whether another module answers, which nothing here decides but for a port that is down (R204, R417; log 17). -/
def State.moduleAnswers (s : State) (m : BitVec 13) : Bool × State := (Config.genuine s.free && !s.portDown m, { s with free := s.free + 1 })

/-- How an access by an engine or a lane ends at another module, which nothing here decides: served (0), no answer within the domain access
limit (0x03), refused there (0x04), or met by an uncorrectable error (0x05) (R165, R204, R259; log 17). Behind a port that is down no
access is served (R417). -/
def State.awayOutcome (s : State) (m : BitVec 13) : Byte × State :=
  if s.portDown m then (0x03, s)
  else ((s.freeWord.1.extractLsb' 0 2).setWidth 8 + (if s.freeWord.1.extractLsb' 0 2 = 0 then 0 else 2), s.freeWord.2)

/-- `n` bytes read at another module. -/
def State.awayRead (s : State) (m : BitVec 13) (n : Nat) : Except Byte Nat × State :=
  let r := s.awayOutcome m
  if r.1 = 0 then (.ok (r.2.freeNat n).1, (r.2.freeNat n).2) else (.error r.1, r.2)

/-- The offset of the lowest of `n` bytes that lies in a unit with an uncorrectable error. -/
def State.badOffset (s : State) (k n : Nat) : Nat :=
  (s.bad.filter fun b => decide (b < k + n) && decide (k < b + errUnit b)).foldl (fun o b => min o (max b k - k)) n

/-- An engine of core `p` reads `n` bytes: what it reads, or the late status with the lowest address that fails. A place past the end of its
unit is refused (R103, R262). -/
def State.engineRead (s : State) (p : Nat) (a : Word) (n : Nat) : Except (Byte × Word) Nat × State :=
  let bad (k : Nat) : Word := a + BitVec.ofNat 64 (s.badOffset k n)
  match s.engineSpace p a with
  | some (.lm q off) =>
    if q = p && decide (localSize < off + n) then (.error (0x07, a), s)
    else if q ≠ p && !((s.core q).valid && (s.core q).tag == (s.core p).tag && (s.core q).windowCovers off n) then (.error (0x04, a), s)
    else if (s.badIn (localKey q off) n).isSome then (.error (0x05, bad (localKey q off)), s)
    else (.ok (s.mem.readNat (localKey q off) n), s)
  | some sp =>
    if (boundsCause sp n).isSome then (.error (0x04, a), s)
    else
    match s.devPlace p a with
    | none => (.error (0x03, a), s)
    | some pl =>
      if pl.module ≠ 0x1FFF then
        match s.awayRead pl.module n with
        | (.ok x, s) => (.ok x, s)
        | (.error e, s) => (.error (e, a), s)
      else
        let r := s.region pl.rkey
        if (r.refuses ((s.core p).holds r) false false).isSome then (.error (0x04, a), s)
        else if (s.badIn pl.key n).isSome then (.error (0x05, bad pl.key), s)
        else (.ok (s.mem.readNat pl.key n), s)
  | none => (.error (0x04, a), s)

/-- The bytes from an address, each at its own place. -/
def State.engineBytes (s : State) (p : Nat) (a : Word) : Nat → Except (Byte × Word) Nat × State
  | 0 => (.ok 0, s)
  | n + 1 =>
    match s.engineRead p a 1 with
    | (.error e, s) => (.error e, s)
    | (.ok b, s) =>
      match s.engineBytes p (a + 1) n with
      | (.error e, s) => (.error e, s)
      | (.ok x, s) => (.ok (b + 256 * x), s)

/-- The holder's requests issued before its HAND still write while the region changes hands; at its issue a request finds the region refused
(R206, R211, R260). -/
def Core.mayFinish (c : Core) (r : Region) : Bool := r.st == .handing && c.mayHold r

/-- An engine of core `p` writes `n` bytes: the late status, if any, and the state after it. A write at another module is done when its home
has acknowledged it; one that finds no answer may have been performed there (R204, R227). -/
def State.engineWrite (s : State) (p : Nat) (a : Word) (n x : Nat) : Except Byte Unit × State :=
  match s.engineSpace p a with
  | some (.lm q off) =>
    if (s.badPartial (localKey q off) n).isSome then (.error 0x05, s) else (.ok (), s.store (localKey q off) n x)
  | some _ =>
    match s.devPlace p a with
    | none => (.error 0x03, s)
    | some pl =>
      let c := s.core p
      if pl.module ≠ 0x1FFF then
        let sent (s : State) : State :=
          { s with weltOut := s.weltOut ++
              [.store pl.module c.gpid (lineOf pl.key) (lineMask (pl.key % 64) n) (lineData (pl.key % 64) x)] }
        let o := s.awayOutcome pl.module
        if o.1 = 0 then (.ok (), sent o.2) else (.error o.1, if o.1 = 0x03 then sent o.2 else o.2)
      else
        let r := s.region pl.rkey
        if (r.refuses (c.mayHold r) true false).isSome && !c.mayFinish r then (.error 0x04, s)
        else if (s.badPartial pl.key n).isSome then (.error 0x05, s)
        else (.ok (), (s.store pl.key n x).dirty c.tag c.ctx pl.rkey pl.va)
  | none => (.error 0x04, s)

/-! ### The command FIFO (R248) -/

/-- An entry that an instruction waiting for its probe has reserved. -/
def Strm.reserves (st : Strm) : Bool :=
  match st.pend with
  | some ⟨.remote, .copy _, _, _, _⟩ | some ⟨.remote, .copyb _, _, _, _⟩ | some ⟨.remote, .copyp _, _, _, _⟩
  | some ⟨.remote, .gath _, _, _, _⟩ | some ⟨.remote, .lace _, _, _, _⟩ => true
  | _ => false

def Core.reserved (c : Core) : Nat :=
  (c.slots.toList.map fun sl => (if sl.x.reserves then 1 else 0) + (if sl.a.reserves then 1 else 0)).sum

/-- Entries that no request holds and no instruction has reserved. -/
def Core.fifoFree (c : Core) : Nat := 32 - c.reqs.length - (c.tours.filter fun u => !u.ended).length - c.reserved

/-- The stream has an entry: its own reservation, or a free one. -/
def State.fifoOk (s : State) (t : StreamId) : Bool := (s.strm t).reserves || decide (0 < (s.core t.core).fifoFree)

/-- A record in the issuing core's own local memory: its offset, and its bytes as a number. A granule with an error raises trap 0x11 as for
a scalar load (R181). -/
def State.ownRecord (s : State) (t : StreamId) (ea : Word) (align n : Nat) (boundsFirst : Bool) : Run (Nat × Nat) := do
  let off ← s.ownLocal t ea
  if boundsFirst && decide (localSize < off + n) then trapAt 0x08 ea
  else if off % align ≠ 0 then trapAt 0x07 ea
  else if localSize < off + n then trapAt 0x08 ea
  else match s.badIn (localKey t.core off) n with
    | some b => trapAt 0x11 (localAddr t.core (b - localKey t.core 0))
    | none => .ok (off, s.mem.readNat (localKey t.core off) n)

/-! ### Tickets and delivery (R173, R257, R258, R292) -/

/-- The number, issuer and status register of an operation that issues now. -/
def State.ticket (s : State) (t : StreamId) (d : BitVec 6) : Ticket :=
  ⟨t.slot, t.acc, (s.slot t).fseq, (s.strm t).pc, (s.core t.core).dseq, d, (s.slot t).launch⟩

/-- The status word W. -/
def statusWord (done : Nat) (seq : BitVec 16) (status : Byte) : Word := BitVec.ofNat 32 done ++ seq ++ 0#8 ++ status

/-- How a completion is delivered: to s[D], by a message, or as a failure. `msg` sends the message, when there is one. -/
def State.deliver (s : State) (p : Nat) (tk : Ticket) (done : Nat) (status : Byte) (addr : Word) (msg : Option (State → State)) : State :=
  let w := statusWord done tk.seq status
  let end_ : DState := if status = 0 || status = 0x0C || status = 0x0D then .completed else .faulted
  let s := s.dispatchEnd p tk.seq end_ status
  let s := s.modCore p fun c =>
    { c with ring := c.ring.map fun e => if e.seq == tk.seq then { e with done := BitVec.ofNat 32 done } else e }
  let s := s.putStatus p tk.slot tk.fseq tk.d w
  match msg with
  | some send => send s
  | none =>
    if tk.d = 0 && status ≠ 0 then s.lateFault ⟨p, tk.slot, tk.acc⟩ tk.fseq tk.seq status (tk.pc.setWidth 64) addr none else s

/-- A refusal at issue: it takes a sequence number, enters the ring as faulted and is delivered at once (R251, R273, R291). The status is
written directly, for no scoreboard is set. -/
def State.refuse (s : State) (t : StreamId) (word : IWord) (d : BitVec 6) (status : Byte) (msg : Option (Ticket → State → State)) :
    State :=
  let tk := s.ticket t d
  let s := s.dispatch t word .faulted status
  let s := s.setReg t d (statusWord 0 tk.seq status)
  match msg with
  | some send => send tk s
  | none =>
    if d = 0 then s.lateFault t tk.fseq tk.seq status (tk.pc.setWidth 64) 0 none else s

/-- s[D] enters the scoreboard (R88). -/
def State.boardSet (s : State) (t : StreamId) (d : BitVec 6) : State :=
  if d = 0 then s else s.modSlot t fun sl => { sl with board := sl.board ||| (1#64 <<< d.toNat) }

/-! ### The control word (R249, R253) -/

def ctlMsg (w : Word) : Bool := w.getLsbD 31
def ctlChanNo (w : Word) : BitVec 6 := w.extractLsb' 25 6
def ctlLcore (w : Word) : BitVec 12 := w.extractLsb' 13 12
def ctlCookie (w : Word) : BitVec 32 := w.extractLsb' 32 32
def ctlFill (w : Word) : Bool := w.extractLsb' 6 2 == 1
def ctlEsz (w : Word) : Nat := 2 ^ (w.extractLsb' 4 2).toNat

/-- The message fields are malformed, or the word is malformed otherwise. A number whose entry has V = 0 is refused as N or more is
(R349). -/
def State.ctlMsgBad (s : State) (p : Nat) (w : Word) : Bool :=
  if ctlMsg w then ctlChanNo w == 0 || ctlChanNo w == 63 || (s.lct p (ctlLcore w).toNat).isNone
  else ctlCookie w != 0 || ctlChanNo w != 0 || ctlLcore w != 0
def ctlRestBad (w : Word) : Bool := w.extractLsb' 8 5 != 0 || w.extractLsb' 0 4 != 0 || w.getLsbD 7

/-- The completion message of a request (R258). -/
def ctlMessage (p : Nat) (w : Word) (done : Nat) (seq : BitVec 16) (status : Byte) (addr : Word) (s : State) : State :=
  s.sendTo p none (targetWord (ctlChanNo w) 0x1FFF (ctlLcore w)) 2 false
    [ctlCookie w ++ (statusWord done seq status).extractLsb' 0 32, BitVec.ofNat 64 (done % 2 ^ 32), addr]

end Sys2Proof.Machine
end

