-- ==== Sys2Proof/Machine/Copy.lean ====
section
/-!
DEFINITION. The copy and gather engines, OP 0xC0 to 0xC4 (R248 to R264).
-/
namespace Sys2Proof.Machine

/-- The group takes neither FMT nor REP (R250). -/
def entEngine (op : Byte) (u : Used) : Entry := ⟨op, u, false, false, none⟩
def usedDabce : Used := ⟨true, true, true, true, true⟩

/-- The offsets of element `k` from the source and the destination base (R253, R255). -/
def elemOffs : List (Nat × Int × Int) → Nat → Int × Int
  | [], _ => (0, 0)
  | (n, a, b) :: ds, k =>
    let r := elemOffs ds (k / n)
    ((k % n : Nat) * a + r.1, (k % n : Nat) * b + r.2)

def plusOff (base : Word) (off : Int) : Word := base + BitVec.ofInt 64 off

/-- Every stretch of bytes of a copy (R251 step 3). -/
def copyTouches (ctl src dst : Word) (dims : List (Nat × Int × Int)) (total : Nat) : List Touch :=
  let e := ctlEsz ctl
  (List.range total).flatMap fun k =>
    let o := elemOffs dims k
    let d : Touch := ⟨dst, plusOff dst o.2, e, e, true⟩
    if ctlFill ctl then [d] else [⟨src, plusOff src o.1, e, e, false⟩, d]

/-- The refusal of a request whose content fails (R251 step 2, R258). -/
def State.refuseReq (s : State) (t : StreamId) (op : Byte) (f : FmtE) (status : Byte) : State :=
  let ctl := s.reg t f.a
  let send : Option (Ticket → State → State) :=
    if !s.ctlMsgBad t.core ctl && ctlMsg ctl then some fun tk s => ctlMessage t.core ctl 0 tk.seq status 0 s else none
  s.refuse t (packE op f) f.d status send

/-- The reserved entry becomes the request's (R251 step 4). -/
def State.acceptReq (s : State) (t : StreamId) (op : Byte) (f : FmtE) (dims : List (Nat × Int × Int)) (g : Option Gather) (total : Nat) :
    State :=
  let r : Req := ⟨s.ticket t f.d, s.reg t f.a, s.reg t f.b, s.reg t f.c, dims, g, total, 0, [], [], false⟩
  let s := s.dispatch t (packE op f) .issued 0
  (s.modCore t.core fun c => { c with reqs := c.reqs ++ [r] }).boardSet t f.d

/-- The checks that every control word takes: its fields, then channel 62 (R251 step 2, R253). -/
def State.ctlBad (s : State) (t : StreamId) (w : Word) : Bool := s.ctlMsgBad t.core w || ctlRestBad w
def State.ctlPrivilege (s : State) (t : StreamId) (w : Word) : Run Unit :=
  if ctlMsg w && ctlChanNo w == 62 && (s.strm t).pl == 0 then trap 0x0D else .ok ()

/-- COPY and COPYB once they have an entry (R251, R253). -/
def copyRun (i : FmtE → Instr) (op : Byte) (t : StreamId) (f : FmtE) (s : State) : Run State := do
  let ctl := s.reg t f.a
  let len := s.reg t f.e
  let e := ctlEsz ctl
  if s.ctlBad t ctl || len.extractLsb' 32 32 != 0 || decide (len.toNat % e ≠ 0) then .ok (s.refuseReq t op f 0x08)
  else do
    s.ctlPrivilege t ctl
    let n := len.toNat / e
    let dims : List (Nat × Int × Int) := [(n, e, e)]
    let ts := copyTouches ctl (s.reg t f.b) (s.reg t f.c) dims n
    let s ← s.probe t (i f) ts [ts]
    .ok (s.acceptReq t op f dims none n)

def copyBody (t : StreamId) (f : FmtE) (s : State) : Run State :=
  if s.fifoOk t then copyRun .copy 0xC0 t f s else .error (.hold s)

/-- COPY (R250, R251, R253). -/
def execCopy (f : FmtE) (s : State) : Host.Outcome State Fault Refusal := issueE (entEngine 0xC0 usedDabce) copyBody f s

def copybBody (t : StreamId) (f : FmtE) (s : State) : Run State :=
  if s.fifoOk t then copyRun .copyb 0xC1 t f s else .ok (s.setReg t f.d 0x01)

/-- COPYB: a full FIFO gives 0x01 at once (R248). -/
def execCopyb (f : FmtE) (s : State) : Host.Outcome State Fault Refusal := issueE (entEngine 0xC1 usedDabce) copybBody f s

/-! ### Parameter blocks (R254, R255) -/

/-- A field of `n` bytes of a block. -/
def blockField (b : Nat) (off n : Nat) : Nat := b / 256 ^ off % 256 ^ n

/-- The dimensions of a block, or none when it breaks the table of R254. -/
def blockDims (b : Nat) (fill : Bool) (e : Nat) : Option (List (Nat × Int × Int)) :=
  let nd := blockField b 0 8
  let size (k : Nat) := blockField b (8 + 4 * k) 4
  let sstr (k : Nat) : Int := (BitVec.ofNat 64 (blockField b (48 + 8 * k) 8)).toInt
  let dstr (k : Nat) : Int := (BitVec.ofNat 64 (blockField b (120 + 8 * k) 8)).toInt
  let okDim (k : Nat) : Bool :=
    if k < nd then decide (size k ≠ 0) && (fill || decide (sstr k % e = 0)) && decide (dstr k % e = 0)
    else decide (size k = 0) && (fill || decide (sstr k = 0)) && decide (dstr k = 0)
  if decide (1 ≤ nd) && decide (nd ≤ 9) && decide (blockField b 44 4 = 0) && (List.range 9).all okDim then
    some ((List.range nd).map fun k => (size k, if fill then 0 else sstr k, dstr k))
  else none

/-- The address has the tag and kind of device memory: tag 0x00, 0x01 with KIND 01, or 0x03 (R254). -/
def blockForm (a : Word) : Bool := addrTag a == 0 || addrTag a == 1 && a.extractLsb' 29 2 == 1 || addrTag a == 3

/-- The block at an address on another module: its home answers with the block, or that it holds an error, or refuses it, which is that its
region is not Published (R57, R254). -/
def State.blockAway (s : State) (t : StreamId) (f : FmtE) (m : BitVec 13) (a : Word) : Run (Except Byte Nat) :=
  match s.answer t with
  | some (.refused st) => .ok (.error (if st = 0x05 then 0x05 else 0x0F))
  | _ => do
    let ws ← s.atModule t (.copyp f) m a
    .ok (.ok (wordsNat ws % 256 ^ 192))

/-- The block at an address: its bytes, or the status that refuses it (R254). That a lace-once region counts as not Published here is the
model's choice (log 103). -/
def State.readBlock (s : State) (t : StreamId) (f : FmtE) (a : Word) : Run (Except Byte Nat) :=
  if !blockForm a then .ok (.error 0x0F)
  else
    match s.engineSpace t.core a with
    | none => trapAt 0x04 a
    | some sp =>
      if (boundsCause sp 192).isSome then trapAt 0x04 a
      else if a.toNat % 256 ≠ 0 then trapAt 0x07 a
      else
        match s.devPlace t.core a with
        | none => .error (.walkFault a)
        | some pl =>
          if !s.reachable t.core a then .error (.hold s)
          else if pl.module ≠ 0x1FFF then s.blockAway t f pl.module a
          else
            let r := s.region pl.rkey
            if r.st ≠ .published || r.lace.isSome then .ok (.error 0x0F)
            else if (s.badIn pl.key 192).isSome then .ok (.error 0x05)
            else .ok (.ok (s.mem.readNat pl.key 192))

/-- The snapshot of step 2: what the stream has read already, while its probe waits, or the block now, which its stream keeps (R255). -/
def State.blockSnapshot (s : State) (t : StreamId) (f : FmtE) : Run (Except Byte Nat × State) :=
  match (s.strm t).snap with
  | b :: _ => .ok (.ok b, s)
  | [] => do
    let r ← s.readBlock t f (s.reg t f.e)
    match r with
    | .error st => .ok (.error st, s)
    | .ok b =>
      .ok (.ok b, s.modStrm t fun st => { st with snap := [b], pend := st.pend.map fun w => { w with reply := none } })

def dimsTotal (dims : List (Nat × Int × Int)) : Nat := dims.foldr (fun d a => d.1 * a) 1

def copypBody (t : StreamId) (f : FmtE) (s : State) : Run State := do
  let ctl := s.reg t f.a
  if !s.fifoOk t then .error (.hold s)
  else if s.ctlBad t ctl then .ok (s.refuseReq t 0xC2 f 0x08)
  else do
    let blk ← s.blockSnapshot t f
    match blk with
    | (.error st, _) => .ok (s.refuseReq t 0xC2 f st)
    | (.ok b, s) =>
      match blockDims b (ctlFill ctl) (ctlEsz ctl) with
      | none => .ok (s.refuseReq t 0xC2 f 0x08)
      | some dims => do
        s.ctlPrivilege t ctl
        let ts := copyTouches ctl (s.reg t f.b) (s.reg t f.c) dims (dimsTotal dims)
        let s ← s.probe t (.copyp f) ts [ts]
        .ok (s.acceptReq t 0xC2 f dims none (dimsTotal dims))

/-- COPYP (R254, R255). -/
def execCopyp (f : FmtE) (s : State) : Host.Outcome State Fault Refusal := issueE (entEngine 0xC2 usedDabce) copypBody f s

/-! ### GATH (R262, R263) -/

def gathN (w : Word) : Nat := (w.extractLsb' 20 20).toNat
def gathWide (w : Word) : Bool := w.getLsbD 40
def gathOff (w : Word) : Nat := (w.extractLsb' 0 20).toNat
def gathSize (w : Word) : Nat := if gathWide w then 8 else 4

/-- The stretches of the index list, in the issuing core's own local memory (R262, R263). -/
def gathList (p : Nat) (x : Word) : List Touch :=
  (List.range (gathN x)).map fun j =>
    ⟨localAddr p 0, localAddr p (gathOff x + j * gathSize x), gathSize x, gathSize x, false⟩

def gathBody (t : StreamId) (f : FmtE) (s : State) : Run State := do
  let ctl := s.reg t f.a
  let x := s.reg t f.e
  let dst := s.reg t f.c
  let row := (f.imm.extractLsb' 0 20).toNat
  let e := ctlEsz ctl
  let n := gathN x
  if !s.fifoOk t then .error (.hold s)
  else if s.ctlBad t ctl || ctlFill ctl || decide (row % e ≠ 0) || x.extractLsb' 41 23 != 0 || decide (gathOff x % gathSize x ≠ 0) then
    .ok (s.refuseReq t 0xC3 f 0x08)
  else do
    s.ctlPrivilege t ctl
    let touches := (List.range (n * row / e)).map fun k => (⟨dst, plusOff dst (k * e : Nat), e, e, true⟩ : Touch)
    let s ← s.probe t (.gath f) (touches ++ gathList t.core x) []
    .ok (s.acceptReq t 0xC3 f [] (some ⟨row, f.mode.getLsbD 0, gathWide x, gathOff x⟩) n)

/-- GATH (R262). -/
def execGath (f : FmtE) (s : State) : Host.Outcome State Fault Refusal := issueE (entEngine 0xC3 usedDabce) gathBody f s

/-! ### The engines at work (R255 to R259, R262) -/

/-- Write a row or element piece by piece: the late status with its address, if one fails, and the state after it. -/
def State.enginePieces (s : State) (p : Nat) (a : Word) (e x : Nat) : Nat → Except (Byte × Word) Unit × State
  | 0 => (.ok (), s)
  | n + 1 =>
    match s.engineWrite p a e (x % 256 ^ e) with
    | (.error st, s) => (.error (st, a), s)
    | (.ok _, s) => s.enginePieces p (a + BitVec.ofNat 64 e) e (x / 256 ^ e) n

/-- The source and the destination of element `k` of a copy. -/
def Req.elemSrc (r : Req) (k : Nat) : Word := plusOff r.src (elemOffs r.dims k).1
def Req.elemDst (r : Req) (k : Nat) : Word := plusOff r.dst (elemOffs r.dims k).2

/-- Write a row, all of it or, where a piece of it fails, none (R257). -/
def State.engineRow (s : State) (p : Nat) (a : Word) (e x n : Nat) : Except (Byte × Word) Unit × State :=
  match s.enginePieces p a e x n with
  | (.ok u, s') => (.ok u, s')
  | (.error st, s') => (.error st, { s with free := s'.free })

/-- What element `k` of a copy delivers, or the late status with its address: a fill's value, what was read ahead, or the source as it
stands. -/
def State.elemValue (s : State) (p : Nat) (r : Req) (k : Nat) : Except (Byte × Word) Nat × State :=
  match r.ahead.find? fun x => x.1 == k with
  | some x => (.ok x.2, s)
  | none =>
    if ctlFill r.ctl then (.ok (r.src.toNat % 256 ^ ctlEsz r.ctl), s) else s.engineRead p (r.elemSrc k) (ctlEsz r.ctl)

/-- The key of a byte that an engine of core `p` names on this module. -/
def State.keyAt (s : State) (p : Nat) (a : Word) : Option Nat :=
  match s.engineSpace p a with
  | some (.lm q off) => some (localKey q off)
  | some _ => (s.devPlace p a).bind fun pl => if pl.module = 0x1FFF then some pl.key else none
  | none => none

/-- The element that has taken the place of an address before its turn; elements are aligned, so that two places are one or apart. -/
def State.earlyAt (s : State) (p : Nat) (r : Req) (a : Word) : Option Nat :=
  (r.early.find? fun x => (s.keyAt p (r.elemDst x.1)).isSome && s.keyAt p (r.elemDst x.1) == s.keyAt p a).map (·.1)

/-- Element `k` is written in its turn, unless it has been written early. A place that a later element has taken keeps what that one wrote,
and this element's value is what that one replaced (R256). -/
def State.copyElement (s : State) (p : Nat) (r : Req) (k : Nat) : Except (Byte × Word) Unit × State × Req :=
  if r.early.any fun x => x.1 == k then (.ok (), s, r)
  else match s.elemValue p r k with
    | (.error st, s) => (.error st, s, r)
    | (.ok x, s) =>
      match s.earlyAt p r (r.elemDst k) with
      | some q => (.ok (), s, { r with early := r.early.map fun y => if y.1 = q then (q, x, y.2.2) else y })
      | none =>
        match s.engineWrite p (r.elemDst k) (ctlEsz r.ctl) x with
        | (.error st, s) => (.error (st, r.elemDst k), s, r)
        | (.ok _, s) => (.ok (), s, r)

/-- What the elements from DONE to `k` deliver when each is read after those before it are written (R256), and the state after them. -/
def State.aheadTo (s : State) (p : Nat) (r : Req) (k : Nat) : Option (List (Nat × Nat) × State) :=
  (List.range (k + 1 - r.done)).foldl (fun x i =>
    x.bind fun x =>
      match x.2.elemValue p r (r.done + i) with
      | (.error _, _) => none
      | (.ok v, sc) =>
        match sc.engineWrite p (r.elemDst (r.done + i)) (ctlEsz r.ctl) v with
        | (.error _, _) => none
        | (.ok _, sc) => some (x.1 ++ [(r.done + i, v)], sc)) (some ([], s))

/-- No die relocks on the way to the elements of a copy from DONE to `k` (R394). -/
def State.elemsOpen (s : State) (p : Nat) (r : Req) (k : Nat) : Bool :=
  !s.relocks || (List.range (k + 1 - r.done)).all fun i =>
    (ctlFill r.ctl || s.reachable p (r.elemSrc (r.done + i))) && s.reachable p (r.elemDst (r.done + i))

/-- An element of a copy becomes visible before its turn, with what it replaces kept until then; the elements before it have been read by
then, so that they deliver what they would have delivered (R256). -/
def State.earlyElement (s : State) (p : Nat) (r : Req) (k : Nat) : State × Req :=
  let e := ctlEsz r.ctl
  if r.gather.isNone && decide (r.done < k) && decide (k < r.total) && !(r.early.any fun x => x.1 == k) &&
      (s.earlyAt p r (r.elemDst k)).isNone && s.elemsOpen p r k then
    match s.keyAt p (r.elemDst k), s.aheadTo p r k with
    | some d, some (vs, sc) =>
      let x := ((vs.find? fun v => v.1 == k).map (·.2)).getD 0
      match { s with free := sc.free }.engineWrite p (r.elemDst k) e x with
      | (.ok _, s') =>
        (s', { r with ahead := vs ++ r.ahead.filter (fun v => decide (k < v.1)), early := (k, s.mem.readNat d e, x) :: r.early })
      | _ => (s, r)
    | _, _ => (s, r)
  else (s, r)

/-- The elements beyond DONE take back what they replaced, where nothing else has been stored there since (R257; log 84). -/
def State.undoEarly (s : State) (p : Nat) (r : Req) : State :=
  let e := ctlEsz r.ctl
  r.early.foldl (fun s x =>
    match s.keyAt p (r.elemDst x.1) with
    | none => s
    | some k => if s.mem.readNat k e = x.2.2 then { s with mem := s.mem.writeNat k e x.2.1 } else s) s

/-- One row of a gather; a row in local memory is read whole, so that it lies in one window (R252). A table in the issuer's own local memory
is left by any row that does not lie there (R262). -/
def State.gatherRow (s : State) (p : Nat) (r : Req) (g : Gather) : Except (Byte × Word) Unit × State :=
  let e := ctlEsz r.ctl
  let own (a : Word) : Bool := match s.engineSpace p a with | some (.lm q _) => q == p | _ => false
  let isz := if g.wide then 8 else 4
  let at_ := g.off + r.done * isz
  let dst := plusOff r.dst (r.done * g.row : Nat)
  if (s.badIn (localKey p at_) isz).isSome then (.error (0x05, localAddr p at_), s)
  else
    let raw := s.mem.readNat (localKey p at_) isz
    let idx : Int := signedOf (8 * isz) raw
    if g.zpad && raw = 256 ^ isz - 1 then s.engineRow p dst e 0 (g.row / e)
    else
      let src := plusOff r.src (idx * g.row)
      if addrTag src ≠ addrTag r.src || (own r.src && !own src) then (.error (0x07, src), s)
      else
        let whole := match s.engineSpace p src with | some (.lm _ _) => true | _ => false
        match if whole then s.engineRead p src g.row else s.engineBytes p src g.row with
        | (.error st, s) => (.error st, s)
        | (.ok x, s) => s.engineRow p dst e x (g.row / e)

def Core.setReq (c : Core) (r : Req) : Core := { c with reqs := c.reqs.map fun q => if q.tk.seq == r.tk.seq then r else q }

/-- The completion of a request; its entry frees after the delivery (R258). -/
def State.endReq (s : State) (p : Nat) (r : Req) (status : Byte) (addr : Word) : State :=
  let send : Option (State → State) :=
    if ctlMsg r.ctl then some (ctlMessage p r.ctl r.done r.tk.seq status addr) else none
  let s := s.deliver p r.tk r.done status addr send
  s.modCore p fun c =>
    { c with
      reqs := c.reqs.filter fun q => q.tk.seq != r.tk.seq
      ring := c.ring.map fun e => if e.seq == r.tk.seq then { e with res := r.resumed } else e }

/-- No die relocks on the way to what the element or row `k` of a request reads and writes (R394). -/
def State.reqOpen (s : State) (p : Nat) (r : Req) (k : Nat) : Bool :=
  !s.relocks || match r.gather with
    | none => (ctlFill r.ctl || s.reachable p (r.elemSrc k)) && s.reachable p (r.elemDst k)
    | some g =>
      let isz := if g.wide then 8 else 4
      let src := plusOff r.src (signedOf (8 * isz) (s.mem.readNat (localKey p (g.off + k * isz)) isz) * g.row)
      let dst := plusOff r.dst (k * g.row : Nat)
      [src, plusOff src (g.row - 1 : Nat), dst, plusOff dst (g.row - 1 : Nat)].all (s.reachable p)

/-- Up to `n` more elements or rows of a request, and its delivery when it has come to its end. -/
def State.runReq (s : State) (p : Nat) (r : Req) : Nat → State
  | 0 => if r.done = r.total then s.endReq p r 0 0 else s.modCore p fun c => c.setReq r
  | n + 1 =>
    if r.done = r.total then s.endReq p r 0 0
    else if !s.reqOpen p r r.done then s.modCore p fun c => c.setReq r
    else
      let res : Except (Byte × Word) Unit × State × Req := match r.gather with
        | none => s.copyElement p r r.done
        | some g => ((s.gatherRow p r g).1, (s.gatherRow p r g).2, r)
      match res with
      | (.ok _, s, r) =>
        let bytes := match r.gather with | none => ctlEsz r.ctl | some g => g.row
        let r := { r with
          done := r.done + 1
          early := r.early.filter fun x => x.1 != r.done
          ahead := r.ahead.filter fun x => x.1 != r.done }
        State.runReq (s.modCore p fun c => c.pmCount 0x08 (some r.tk.slot) bytes) p r n
      | (.error (st, a), s, r) => (s.undoEarly p r).endReq p r st a

/-- GATH requests are served one at a time in their order (R248). -/
def Core.reqTurn (c : Core) (r : Req) : Bool :=
  r.gather.isNone || ((c.reqs.filter fun q => q.gather.isSome).head?.map (·.tk.seq)) == some r.tk.seq

/-- A few elements, that nothing constrains, become visible before their turn (R256). -/
def State.earlySome (s : State) (p : Nat) (r : Req) : State × Req :=
  (Config.earlyElems s.free).foldl (fun x k => x.1.earlyElement p x.2 k) ({ s with free := s.free + 1 }, r)

/-- The copy or gather engine moves up to `n` elements or rows of a request, and of a copy others may be seen new already (R255 to R259). -/
def execCopyCompletion (core : Nat) (seq : BitVec 16) (n : Nat) (s : State) : Host.Outcome State Fault Refusal :=
  let c := s.core core
  match c.reqs.find? fun r => r.tk.seq == seq with
  | none => .next s
  | some r =>
    .next (if c.reqTurn r then
        let x := s.earlySome core r
        x.1.runReq core x.2 n
      else s)

/-! ### CSTAT (R264) -/

/-- CSTAT: the free entries. -/
def execCstat (f : FmtE) (s : State) : Host.Outcome State Fault Refusal :=
  issueE (entEngine 0xC4 usedD) (fun t f s => .ok (s.setReg t f.d (BitVec.ofNat 64 (s.core t.core).fifoFree))) f s

/-- STATE of a ring entry (R264, R308). -/
def DState.code : DState → BitVec 3
  | .issued => 2
  | .completed => 3
  | .faulted => 4
  | .cancelled => 5

def cstatWord (done : BitVec 32) (seq : BitVec 16) (res : Bool) (st : BitVec 3) (status : Byte) : Word :=
  done ++ seq ++ 0#4 ++ bit 1 res ++ st ++ status

def Core.cstatSeq (c : Core) (seq : BitVec 16) : Word :=
  match c.reqs.find? fun r => r.tk.seq == seq with
  | some r =>
    let running := r.done ≠ 0 || c.reqTurn r
    cstatWord (BitVec.ofNat 32 r.done) seq r.resumed (if running then 2 else 1) (if running && r.resumed then 0x0A else 0)
  | none =>
    match c.ring.reverse.find? fun e => e.seq == seq with
    | some e => cstatWord e.done seq e.res e.st.code e.status
    | none => 0

/-- A sequence number in a register; with a bit of 63:16 set the manual states no result (log 18). -/
def State.bySeq (s : State) (t : StreamId) (a d : BitVec 6) (g : BitVec 16 → Word) : State :=
  let w := s.reg t a
  if w.extractLsb' 16 48 ≠ 0 then s.freeWord.2.setReg t d s.freeWord.1 else s.setReg t d (g (w.extractLsb' 0 16))

/-- CSTAT.seq. -/
def execCstatSeq (f : FmtE) (s : State) : Host.Outcome State Fault Refusal :=
  issueE (entEngine 0xC4 usedDa) (fun t f s => .ok (s.bySeq t f.a f.d (s.core t.core).cstatSeq)) f s

end Sys2Proof.Machine
end

