-- ==== Sys2Proof/Machine/Lace.lean ====
section
/-!
DEFINITION. Laced tiles, OP 0xC8 to 0xCB: lace slots, tours and their steps (R265 to R281).
-/
namespace Sys2Proof.Machine

/-! ### Lace slots (R265, R275) -/

def lsOut (w : Word) : Nat := (w.extractLsb' 57 2).toNat
def lsStop (w : Word) : Nat := (w.extractLsb' 53 4).toNat
def lsTseq (w : Word) : BitVec 16 := w.extractLsb' 25 16
def lsPois (w : Word) : Bool := w.getLsbD 60
def lsOvr (w : Word) : Bool := w.getLsbD 59

/-- A slot word with its fields 63:25 replaced. -/
def lsMake (w : Word) (st : BitVec 3) (pois ovr : Bool) (out : BitVec 2) (stop : BitVec 4) (issuer : BitVec 12) (tseq : BitVec 16) : Word :=
  st ++ bit 1 pois ++ bit 1 ovr ++ out ++ stop ++ issuer ++ tseq ++ w.extractLsb' 0 25

/-- STATE, OVR and OUT change; the tile's description stays. -/
def lsMove (w : Word) (st : BitVec 3) (ovr : Bool) (out : BitVec 2) : Word :=
  lsMake w st (lsPois w) ovr out (w.extractLsb' 53 4) (w.extractLsb' 41 12) (lsTseq w)

/-- Back to Empty: fields 60:25 are zero. -/
def lsEmpty (w : Word) : Word := w &&& 0x1FFFFFF

def State.setLaceWord (s : State) (p i : Nat) (w : Word) : State :=
  s.modCore p fun c => c.setLace i { c.laceSlot i with word := w }
def State.laceWord (s : State) (p i : Nat) : Word := ((s.core p).laceSlot i).word
def State.laceIssuer (s : State) (p i : Nat) : Nat := ((s.core p).laceSlot i).issuer

/-! ### Tours (R274, R276, R278) -/

def State.tour (s : State) (p : Nat) (seq : BitVec 16) : Option Tour := (s.core p).tours.find? fun u => u.tk.seq == seq
def State.modTour (s : State) (p : Nat) (seq : BitVec 16) (f : Tour → Tour) : State :=
  s.modCore p fun c => { c with tours := c.tours.map fun u => if u.tk.seq == seq then f u else u }

def stopBit (k : Nat) : BitVec 16 := 1#16 <<< k

/-- A stop reports (R278). -/
def State.stopReports (s : State) (p : Nat) (seq : BitVec 16) : State := s.modTour p seq fun u => { u with reports := u.reports + 1 }
/-- A stop is skipped without having held the tile. -/
def State.stopSkipped (s : State) (p : Nat) (seq : BitVec 16) (k : Nat) : State :=
  (s.modTour p seq fun u => { u with skipped := u.skipped ||| stopBit k }).stopReports p seq

/-- The slot returns to Empty after a tile, and its stop reports. -/
def State.laceFree (s : State) (p i : Nat) : State :=
  let w := s.laceWord p i
  (s.setLaceWord p i (lsEmpty w)).stopReports (s.laceIssuer p i) (lsTseq w)

/-- The outbound copy of a sender completes (R275). -/
def State.outDone (s : State) (sender : Option (Nat × Nat)) : State :=
  match sender with
  | none => s
  | some (p, i) =>
    let w := s.laceWord p i
    if lsState w = 5 then s.laceFree p i
    else if lsState w = 4 then s.setLaceWord p i (lsMove w 4 (lsOvr w) 2)
    else s

/-- A copy begins to wait for the first stop from `k` on that is not skipped; with none left the copy is done. The sending stop's lace unit
resolves the stop, for stop 0 the issuing core (R276). -/
def State.sendOn (s : State) (p : Nat) (seq : BitVec 16) (sender : Option (Nat × Nat)) (frozen : Option (Nat × List Nat)) :
    List TourStop → Nat → State
  | [], _ => s.outDone sender
  | x :: xs, k =>
    match s.lct ((sender.map (·.1)).getD p) x.lcore.toNat with
    | none => (s.stopSkipped p seq k).sendOn p seq sender frozen xs (k + 1)
    | some q =>
      if (s.core q).lost then (s.stopSkipped p seq k).sendOn p seq sender frozen xs (k + 1)
      else { s with outbound := s.outbound ++ [⟨p, seq, sender, k, q, x.slot, .waiting, 0, false, frozen⟩] }

/-- The copy from stop `k` of a tour, or from the issuer, goes on from stop `k'`. -/
def State.sendFrom (s : State) (p : Nat) (seq : BitVec 16) (sender : Option (Nat × Nat)) (frozen : Option (Nat × List Nat))
    (k' : Nat) : State :=
  match s.tour p seq with
  | none => s
  | some u => s.sendOn p seq sender frozen (u.stops.drop k') k'

/-- Granules of a slot that are uncorrectable, by their byte offsets. -/
def State.poisonIn (s : State) (p off n : Nat) : List Nat :=
  (s.bad.filter fun b => decide (localKey p off ≤ b) && decide (b < localKey p off + n)).map fun b => b - localKey p off

/-- The tile in a slot as it stands: its bytes and its poisoned granules. -/
def State.slotTile (s : State) (p i : Nat) : Nat × List Nat :=
  let off := 64 * lsBase (s.laceWord p i)
  let n := match s.tour (s.laceIssuer p i) (lsTseq (s.laceWord p i)) with | some u => 64 * u.tsz | none => 0
  (s.mem.readNat (localKey p off) n, s.poisonIn p off n)

/-- Whether a slot's tile has a next stop. -/
def State.lastStop (s : State) (p i : Nat) : Bool :=
  match s.tour (s.laceIssuer p i) (lsTseq (s.laceWord p i)) with
  | none => true
  | some u => decide (u.stops.length ≤ lsStop (s.laceWord p i) + 1)

/-- The outbound copy of slot `i` of core `p` starts; after a release it reads what the release left (R276). -/
def State.startOut (s : State) (p i : Nat) (released : Bool) : State :=
  s.sendFrom (s.laceIssuer p i) (lsTseq (s.laceWord p i)) (some (p, i)) (if released then some (s.slotTile p i) else none)
    (lsStop (s.laceWord p i) + 1)

/-! ### LACE (R270, R273) -/

/-- An itinerary record: its stops, or none when it breaks R270; `known` says which logical cores there are (R349). -/
def stopsOf (hdr : Nat) (stop : Nat → BitVec 32) (known : Nat → Bool) : Option (List TourStop) :=
  let ns := hdr % 16
  let st (k : Nat) : TourStop := ⟨(stop k).extractLsb' 20 12, ((stop k).extractLsb' 16 4).toNat, (stop k).extractLsb' 8 8⟩
  if hdr / 16 ≠ 0 || ns = 0 || (List.range 15).any (fun k => decide (ns ≤ k) && stop k != 0) ||
      (List.range ns).any (fun k => (stop k).extractLsb' 0 8 != 0 || !known (st k).lcore.toNat) ||
      (List.range (ns - 1)).any (fun k => (st k).lcore == (st (k + 1)).lcore && (st k).slot == (st (k + 1)).slot) then none
  else some ((List.range ns).map st)

/-- The stops that the 64 bytes of a record name. -/
def recordStops (x : Nat) (known : Nat → Bool) : Option (List TourStop) :=
  stopsOf (x % 256 ^ 4) (fun k => BitVec.ofNat 32 (x / 256 ^ (4 + 4 * k))) known
def State.itinerary (s : State) (p x : Nat) : Option (List TourStop) := recordStops x fun n => (s.lct p n).isSome

/-- The tile grid (R267). -/
def gridCols (w : Word) : Nat := (w.extractLsb' 29 13).toNat
def gridRows (w : Word) : Nat := (w.extractLsb' 16 13).toNat
def gridTsz (w : Word) : Nat := (w.extractLsb' 0 11).toNat

/-- The message of a tour's end or refusal (R279). -/
def laceMessage (p : Nat) (ctl tile : Word) (seq : BitVec 16) (status : Byte) (masks : Word) (s : State) : State :=
  let target := if ctlMsg ctl then targetWord (ctlChanNo ctl) 0x1FFF (ctlLcore ctl) else targetWord 1 0x1FFF (s.core p).lcore
  s.sendTo p none target 2 false [ctlCookie ctl ++ seq ++ 0#8 ++ status, masks, tile]

def State.laceRefuse (s : State) (t : StreamId) (f : FmtE) (status : Byte) : State :=
  let ctl := s.reg t f.a
  let tile := s.reg t f.b
  let send : Option (Ticket → State → State) :=
    if (s.answer t).isNone && s.ctlMsgBad t.core ctl then none
    else some fun tk s => laceMessage t.core ctl tile tk.seq status 0 s
  s.refuse t (packE 0xC8 f) f.d status send

/-- The home's answer to LACE's probe (R268, R273): the refusing status, or the tile size; the region takes the tag of the first LACE that
finds none, and the bit of a tile that it accepts. -/
def State.laceProbe (s : State) (t : StreamId) (pl : Place) : Except Byte Nat × State :=
  let r := s.region pl.rkey
  let me := ((s.core t.core).tag, (s.slot t).launch)
  match r.lace with
  | none => (.error 0x04, s)
  | some g =>
    let off := pl.key - pl.rkey
    let unit := 64 * gridTsz g
    let tagged := s.setRegion pl.rkey { r with laceLaunch := some me }
    if !(r.st = .published || (r.st = .shadowed && !r.side)) then (.error 0x04, s)
    else if r.laceLaunch.isSome && r.laceLaunch ≠ some me then (.error 0x04, s)
    else if off % unit ≠ 0 then (.error 0x06, tagged)
    else if gridRows g * gridCols g ≤ off / unit then (.error 0x07, tagged)
    else if r.laceRead.contains (off / unit) then (.error 0x0B, tagged)
    else (.ok (gridTsz g), s.setRegion pl.rkey { r with laceRead := (off / unit) :: r.laceRead, laceLaunch := some me })

/-- The tours of a core: one that has ended is looked up as long as the ring holds its number (R280). -/
def Core.liveTours (c : Core) : List Tour := c.tours.filter fun u => !u.ended || c.ring.any fun e => e.seq == u.tk.seq

def laceAccept (t : StreamId) (f : FmtE) (stops : List TourStop) (tsz : Nat) (data : Option Nat) (s : State) : State :=
  let u : Tour := ⟨s.ticket t f.d, s.reg t f.a, s.reg t f.b, tsz, stops, data, false, false, 0, 0, 0, 0, 0, false⟩
  let live := (s.core t.core).liveTours
  let s := s.dispatch t (packE 0xC8 f) .issued 0
  (s.modCore t.core fun c => { c with tours := live ++ [u] }).boardSet t f.d

/-- Step 3 of R273, once no die on the way to the home relocks (R394). -/
def laceHome (t : StreamId) (f : FmtE) (stops : List TourStop) (rec_ : Nat) (s : State) : Run State :=
  let a := s.reg t f.b
  if !blockForm a || (s.engineSpace t.core a).isNone || ((s.space t.core a).bind (boundsCause · 1)).isSome then trapAt 0x04 a
  else
    let s := if (s.answer t).isSome then s else s.touchPage t.core a
    match s.devPlace t.core a with
    | none => .error (.hold (s.trapEntry t 0x04 a 0 (some (granuleOf a))))
    | some pl =>
      if !s.reachable t.core a then .error (.hold s)
      else if pl.module ≠ 0x1FFF then
        match s.answer t with
        | some (.data ws) =>
          let st := (ws.headD 0).extractLsb' 0 8
          if st ≠ 0 then .ok (s.laceRefuse t f st) else .ok (laceAccept t f stops (gridTsz (ws.getD 1 0)) none s)
        | some _ => .error (.hold s)
        | none =>
          let pages := s.awayPages t.core [⟨a, a, 1, 1, false⟩]
          (s.modStrm t fun st => { st with snap := [rec_] }).askPages t (.lace f) [] pages ((pages.head?.map (·.base)).getD a)
      else
        match s.laceProbe t pl with
        | (.error st, s) => .ok (s.laceRefuse t f st)
        | (.ok tsz, s') => .ok (laceAccept t f stops tsz (some (s.mem.readNat pl.key (64 * tsz))) s')

/-- Steps 2 and 3. A stream whose probe has its answer from another module has passed step 2, and has kept the record (R273). -/
def laceBody (t : StreamId) (f : FmtE) (s : State) : Run State :=
  let ctl := s.reg t f.a
  if !s.fifoOk t then .error (.hold s)
  else match s.answer t, (s.strm t).snap with
  | some _, x :: _ => laceHome t f ((recordStops x fun _ => true).getD []) x s
  | _, _ =>
    if s.ctlBad t ctl || ctlFill ctl || ctlEsz ctl ≠ 1 then .ok (s.laceRefuse t f 0x08)
    else do
      let (_, x) ← s.ownRecord t (s.reg t f.c) 64 64 true
      match s.itinerary t.core x with
      | none => .ok (s.laceRefuse t f 0x08)
      | some stops => do
        s.ctlPrivilege t ctl
        laceHome t f stops x s

/-- LACE (R273). -/
def execLace (f : FmtE) (s : State) : Host.Outcome State Fault Refusal := issueE (entEngine 0xC8 usedDabc) laceBody f s

/-- The whole tile is read at its home, and the copy to stop 0 begins (R274). -/
def State.tourEnds (s : State) (p : Nat) (u : Tour) (done : Nat) (status : Byte) (masks : Word) : State :=
  let s := s.deliver p u.tk done status 0 (some (laceMessage p u.ctl u.tile u.tk.seq status masks))
  s.modTour p u.tk.seq fun u => { u with told := true, ended := true }

def execLaceTileRead (core : Nat) (seq : BitVec 16) (s : State) : Host.Outcome State Fault Refusal :=
  match s.tour core seq with
  | none => .next s
  | some u =>
    if u.read || u.ended then .next s
    else
      let n := 64 * u.tsz
      let go (data : Nat) (s : State) : State :=
        (s.modTour core seq fun u => { u with data := some data, read := true }).sendFrom core seq none none 0
      match s.devPlace core u.tile with
      | none => .next (s.tourEnds core u 0 0x03 0)
      | some pl =>
        if pl.module ≠ 0x1FFF then
          match s.awayRead pl.module n with
          | (.ok x, s) => .next (go x s)
          | (.error st, s) => .next (s.tourEnds core u 0 (if st = 0x05 then 0x05 else 0x03) 0)
        else if (s.badIn pl.key n).isSome then .next (s.tourEnds core u 0 0x05 0)
        else .next (go (u.data.getD 0) s)

/-! ### Outbound copies (R276, R277) -/

def Outbound.of (o : Outbound) (p : Nat) (seq : BitVec 16) (ph : OutPhase) : Bool := o.issuer == p && o.seq == seq && o.phase == ph

def State.setOut (s : State) (o o' : Outbound) : State := { s with outbound := s.outbound.map fun x => if x == o then o' else x }

/-- The next `n` granules go from the sender into the stop's slot, each read whole as it stands, or as LREL left it, and poisoned ones with
their mark (R266, R276, R277). -/
def State.moveTile (s : State) (o : Outbound) (u : Tour) (n : Nat) : State × Outbound :=
  let at_ := 8 * o.sent
  let len := 8 * (min n (8 * u.tsz - o.sent))
  let dst := localKey o.pos (64 * lsBase (s.laceWord o.pos o.slot)) + at_
  let tile : Nat × List Nat := match o.frozen, o.sender with
    | some x, _ => x
    | none, none => (u.data.getD 0, [])
    | none, some (p, i) => s.slotTile p i
  let pois := tile.2.filter fun k => decide (at_ ≤ k) && decide (k < at_ + len)
  let s' := s.store dst len (tile.1 / 256 ^ at_)
  let o' : Outbound := { o with sent := o.sent + len / 8, pois := o.pois || !pois.isEmpty }
  ({ s' with bad := s'.bad ++ pois.map fun k => dst + (k - at_) }.setOut o o', o')

/-- The waiting copy of a tour starts when its slot is Empty and its turn has come: it reserves the slot, or skips a stop that is lost,
disabled or too small. A copy that is sending sends a number of granules that nothing constrains. -/
def execLaceOutboundStart (core : Nat) (seq : BitVec 16) (s : State) : Host.Outcome State Fault Refusal :=
  match s.outbound.find? (fun o => o.of core seq .waiting || o.of core seq .sending), s.tour core seq with
  | some o, some u =>
    let w := s.laceWord o.pos o.slot
    let skip : State :=
      ({ s with outbound := s.outbound.filter (· != o) }.stopSkipped core seq o.stop).sendFrom core seq o.sender o.frozen (o.stop + 1)
    if o.phase == .sending then .next (s.freeWord.2.moveTile o u (s.freeWord.1.toNat % (8 * u.tsz))).1
    else if (s.core o.pos).lost then .next skip
    else if lsState w ≠ 0 then .next s
    else if (s.outbound.find? fun x => x.phase == .waiting && x.pos == o.pos && x.slot == o.slot) ≠ some o then .next s
    else if lsSize w < u.tsz then .next skip
    else
      .next ((s.setOut o { o with phase := .sending }).modCore o.pos fun c => c.setLace o.slot ⟨lsMake w 1 false false 0 0 0 0, 0, core⟩)
  | _, _ => .next s

/-- The last byte has arrived: the slot is Held, and the first arrival writes the tour's status (R274, R275). -/
def execLaceLastByte (core : Nat) (seq : BitVec 16) (s : State) : Host.Outcome State Fault Refusal :=
  match s.outbound.find? (·.of core seq .sending), s.tour core seq with
  | some o, some u =>
    let r := s.moveTile o u (8 * u.tsz)
    let s := r.1
    let o := r.2
    let w := s.laceWord o.pos o.slot
    let word := lsMake w 2 o.pois false 0 (BitVec.ofNat 4 o.stop) (s.core core).lcore seq
    let s := s.modCore o.pos fun c => c.setLace o.slot ⟨word, s.time, core⟩
    let s := s.modTour core seq fun u =>
      { u with
        told := true
        visited := u.visited ||| stopBit o.stop
        poisoned := if o.pois then u.poisoned ||| stopBit o.stop else u.poisoned }
    let s := if u.told then s else s.putStatus core u.tk.slot u.tk.fseq u.tk.d (statusWord 1 seq 0)
    .next { s with outbound :=
      match o.sender with
      | none => s.outbound.filter (· != o)
      | some _ => s.outbound.map fun x => if x == o then { o with phase := .arrived } else x }
  | _, _ => .next s

/-- The sender's outbound copy completes (R275). -/
def execLaceOutboundDone (core slot : Nat) (s : State) : Host.Outcome State Fault Refusal :=
  match s.outbound.find? fun o => o.sender == some (core, slot) && o.phase == .arrived with
  | none => .next s
  | some o =>
    .next (({ s with outbound := s.outbound.filter (· != o) }.outDone o.sender).modCore core fun c => c.pmCount 0x09 none 1)

/-- The hold limit of a code in ticks; code 0xFF has none (R271). -/
def holdLimit (h : Byte) : Option Nat :=
  if h = 0xFF then none else some ((16 + (h.extractLsb' 0 4).toNat) * 2 ^ (h.extractLsb' 4 4).toNat)

def State.holdCode (s : State) (p i : Nat) : Byte :=
  match s.tour (s.laceIssuer p i) (lsTseq (s.laceWord p i)) with
  | none => 0xFF
  | some u => (u.stops.map (·.hold)).getD (lsStop (s.laceWord p i)) 0xFF

/-- The time that a slot has held its tile. -/
def State.held (s : State) (p i : Nat) : Word := s.time - ((s.core p).laceSlot i).since

/-- How long ago the hold limit of a slot expired, in ticks, where it has and the slot has not moved yet. -/
def State.overdue (s : State) (p i : Nat) : Option Nat :=
  let w := s.laceWord p i
  if lsState w = 2 || lsState w = 3 then
    (holdLimit (s.holdCode p i)).bind fun limit => if (s.held p i).toNat ≤ limit then none else some ((s.held p i).toNat - limit)
  else none

/-- The hold limit expires at the first tick at which the hold time exceeds it (R271, R275). -/
def State.expireHold (s : State) (p i : Nat) : State :=
  if (s.overdue p i).isSome then
    let w := s.laceWord p i
    let last := s.lastStop p i
    let s := s.modTour (s.laceIssuer p i) (lsTseq w) fun u => { u with overrun := u.overrun ||| stopBit (lsStop w) }
    let s := s.setLaceWord p i (lsMove w 4 true (if last then 2 else 1))
    if last then s else s.startOut p i false
  else s

/-- A slot in the list of those that have expired, the one that expired first at the head. -/
def insertOverdue (x : Nat × Nat × Nat) : List (Nat × Nat × Nat) → List (Nat × Nat × Nat)
  | [] => [x]
  | y :: ys => if y.1 < x.1 then x :: y :: ys else y :: insertOverdue x ys

/-- Every limit that has expired takes its effect, in the order of expiry. -/
def State.expireHolds (s : State) : State :=
  let due : List (Nat × Nat × Nat) :=
    s.cores.flatMap fun e => (List.range 16).filterMap fun i => (s.overdue e.1 i).map fun n => (n, e.1, i)
  (due.foldr insertOverdue []).foldl (fun s x => s.expireHold x.2.1 x.2.2) s

/-- LACE_HOLD_EXPIRE. -/
def execLaceHoldExpire (core slot : Nat) (s : State) : Host.Outcome State Fault Refusal := .next (s.expireHold core slot)

/-- The masks in the layout of word 2 (R279). -/
def Tour.masks (u : Tour) : Word := u.poisoned ++ u.skipped ++ u.overrun ++ u.visited

/-- The last report has arrived: the completion message goes out and the FIFO entry frees (R279). -/
def execLaceTourComplete (core : Nat) (seq : BitVec 16) (s : State) : Host.Outcome State Fault Refusal :=
  match s.tour core seq with
  | none => .next s
  | some u =>
    if u.ended || !u.read || decide (u.reports < u.stops.length) then .next s
    else
      let status : Byte := if u.skipped ≠ 0 then 0x0D else if u.overrun ≠ 0 then 0x0C else 0
      let s := laceMessage core u.ctl u.tile seq status u.masks s
      let s := s.dispatchEnd core seq .completed status
      let s := if u.told then s else s.putStatus core u.tk.slot u.tk.fseq u.tk.d (statusWord 0 seq 0x0D)
      .next (s.modTour core seq fun u => { u with told := true, ended := true })

/-! ### LTAKE, LREL, LSTAT (R272, R275, R280) -/

def laceNo (f : FmtE) : Nat := (f.imm.extractLsb' 0 4).toNat

/-- The address of a slot that a firing may use, or none. -/
def State.takeSlot (s : State) (p i : Nat) : Option (Word × State) :=
  let w := s.laceWord p i
  let a := localAddr p (64 * lsBase w)
  if lsState w = 2 then some (a, s.setLaceWord p i (lsMove w 3 (lsOvr w) (w.extractLsb' 57 2)))
  else if lsState w = 3 || lsState w = 4 then some (a, s)
  else none

/-- A read of the slot's older accesses of local memory is still to be performed (R195, R275). -/
def State.olderAccess (s : State) (t : StreamId) : Bool := (s.core t.core).ldrs.any fun l => l.slot == t.slot

/-- LTAKE (R275). -/
def execLtake (f : FmtE) (s : State) : Host.Outcome State Fault Refusal :=
  issueE (entEngine 0xC9 usedD) (fun t f s =>
    if s.olderAccess t then .error (.hold s)
    else match s.takeSlot t.core (laceNo f) with
      | some (a, s) => .ok (s.setReg t f.d a)
      | none => .error (.hold s)) f s
/-- LTAKE.nb (R275). -/
def execLtakeNb (f : FmtE) (s : State) : Host.Outcome State Fault Refusal :=
  issueE (entEngine 0xC9 usedD) (fun t f s =>
    if s.olderAccess t then .error (.hold s)
    else match s.takeSlot t.core (laceNo f) with
      | some (a, s) => .ok (s.setReg t f.d a)
      | none => .ok (s.setReg t f.d 0)) f s

/-- What an outbound copy under way has still to read is what the release leaves (R276). -/
def State.freezeOut (s : State) (p i : Nat) : State :=
  { s with outbound := s.outbound.map fun o => if o.sender == some (p, i) then { o with frozen := some (s.slotTile p i) } else o }

/-- A release, or none in a state that has nothing to release. -/
def State.releaseSlot (s : State) (p i : Nat) : Option State :=
  let w := s.laceWord p i
  if lsState w = 2 || lsState w = 3 then
    some (if s.lastStop p i then s.laceFree p i
      else (s.setLaceWord p i (lsMove w 5 (lsOvr w) 1)).startOut p i true)
  else if lsState w = 4 then
    some (if lsOut w = 2 then s.laceFree p i else (s.freezeOut p i).setLaceWord p i (lsMove w 5 (lsOvr w) 1))
  else none

/-- LREL (R275). -/
def execLrel (f : FmtE) (s : State) : Host.Outcome State Fault Refusal :=
  issueE (entEngine 0xCA usedD) (fun t f s =>
    if s.olderAccess t then .error (.hold s)
    else match s.releaseSlot t.core (laceNo f) with
      | some s => .ok (s.setReg t f.d 0)
      | none => .ok (s.setReg t f.d 0x04)) f s

/-- LSTAT. -/
def execLstat (f : FmtE) (s : State) : Host.Outcome State Fault Refusal :=
  issueE (entEngine 0xCB usedD) (fun t f s => .ok (s.setReg t f.d (s.laceWord t.core (laceNo f)))) f s
/-- LSTAT.hold. -/
def execLstatHold (f : FmtE) (s : State) : Host.Outcome State Fault Refusal :=
  issueE (entEngine 0xCB usedD) (fun t f s =>
    let st := lsState (s.laceWord t.core (laceNo f))
    .ok (s.setReg t f.d (if st = 2 || st = 3 || st = 4 then s.held t.core (laceNo f) else 0))) f s

/-- The tour word: bit 15 found, bit 31 ended; a refused LACE of the ring has no masks. -/
def Core.tourWord (c : Core) (seq : BitVec 16) : Word :=
  let inRing := c.ring.reverse.find? fun e => e.seq == seq && opOf e.word == 0xC8
  match c.tours.find? fun u => u.tk.seq == seq with
  | some u => if !u.ended || inRing.isSome then u.masks ||| 0x8000 ||| (if u.ended then 0x80000000 else 0) else 0
  | none => if inRing.isSome then 0x80008000 else 0

/-- LSTAT.tour. -/
def execLstatTour (f : FmtE) (s : State) : Host.Outcome State Fault Refusal :=
  issueE (entEngine 0xCB usedDa) (fun t f s => .ok (s.bySeq t f.a f.d (s.core t.core).tourWord)) f s

end Sys2Proof.Machine
end

