-- ==== Sys2Proof/Machine/Num.lean ====
section
/-!
DEFINITION. Number formats, the one rounding function and the exact approximations (spec/03_number_formats.md, R59 to R84). Types are
named by their codes 0 to 15. An exact value is a dyadic; a quotient or root that is no dyadic is held as a value strictly between two
neighbours.
-/
namespace Sys2Proof.Machine

/-! ### Types -/

/-- A floating-point format: width, exponent and fraction bits, bias, the encoding of MAXF without its sign, whether it has infinities,
and its canonical NaN (R61). e2m1 has no NaN: a NaN converts to +0 (R71). -/
structure FTy where
  w : Nat
  eb : Nat
  fb : Nat
  bias : Nat
  maxMag : Nat
  hasInf : Bool
  nan : Nat
  deriving DecidableEq, Repr

def isFloat (c : Nat) : Bool := decide (9 ≤ c)

def fty (c : Nat) : FTy :=
  match c with
  | 9 => ⟨16, 5, 10, 15, 0x7BFF, true, 0x7E00⟩
  | 10 => ⟨16, 8, 7, 127, 0x7F7F, true, 0x7FC0⟩
  | 11 => ⟨32, 8, 23, 127, 0x7F7FFFFF, true, 0x7FC00000⟩
  | 12 => ⟨64, 11, 52, 1023, 0x7FEFFFFFFFFFFFFF, true, 0x7FF8000000000000⟩
  | 13 => ⟨8, 4, 3, 7, 0x7E, false, 0x7F⟩
  | 14 => ⟨8, 5, 2, 15, 0x7B, true, 0x7E⟩
  | _ => ⟨4, 2, 1, 1, 0x7, false, 0x0⟩

/-- Width in bits of an element type (R59, R61). -/
def tyW (c : Nat) : Nat := 2 ^ lgWidth (BitVec.ofNat 4 c)
/-- The signed integer types are codes 0 to 4, the unsigned ones 5 to 8 (R59). -/
def isSigned (c : Nat) : Bool := decide (c ≤ 4)
def intMin (c : Nat) : Int := if isSigned c then -(2 ^ (tyW c - 1) : Nat) else 0
def intMax (c : Nat) : Int := if isSigned c then (2 ^ (tyW c - 1) : Nat) - 1 else (2 ^ tyW c : Nat) - 1

/-! ### Values -/

/-- A value: NaN, an infinity, or (−1)^neg × m × 2^e; with `between` the exact value lies strictly between m × 2^e and (m + 1) × 2^e. -/
inductive Val where
  | nan
  | inf (neg : Bool)
  | fin (neg : Bool) (m : Nat) (e : Int) (between : Bool)
  deriving DecidableEq, Repr

def Val.isNan : Val → Bool
  | .nan => true
  | _ => false
def Val.isInf : Val → Bool
  | .inf _ => true
  | _ => false
def Val.isZero : Val → Bool
  | .fin _ m _ b => m == 0 && !b
  | _ => false
def Val.neg : Val → Bool
  | .nan => false
  | .inf n => n
  | .fin n _ _ _ => n
def Val.zero (neg : Bool) : Val := .fin neg 0 0 false
def Val.negate : Val → Val
  | .nan => .nan
  | .inf n => .inf (!n)
  | .fin n m e b => .fin (!n) m e b
def Val.abs : Val → Val
  | .nan => .nan
  | .inf _ => .inf false
  | .fin _ m e b => .fin false m e b
def Val.ofInt (x : Int) : Val := .fin (decide (x < 0)) x.natAbs 0 false

/-- The value of a floating encoding (R61, R62). -/
def floatVal (c : Nat) (bits : Nat) : Val :=
  let t := fty c
  let neg := bits / 2 ^ (t.w - 1) % 2 = 1
  let mag := bits % 2 ^ (t.w - 1)
  let ex := mag / 2 ^ t.fb
  let fr := mag % 2 ^ t.fb
  if t.hasInf && ex = 2 ^ t.eb - 1 then (if fr = 0 then .inf neg else .nan)
  else if c = 13 && mag = 0x7F then .nan
  else if ex = 0 then .fin neg fr (1 - (t.bias : Int) - t.fb) false
  else .fin neg (2 ^ t.fb + fr) ((ex : Int) - t.bias - t.fb) false

/-- VAL (R85): the value of the low bits as an encoding of the type. -/
def valOf (c : Nat) (bits : Nat) : Val :=
  let x := bits % 2 ^ tyW c
  if isFloat c then floatVal c x
  else if isSigned c && 2 ^ (tyW c - 1) ≤ x then .ofInt ((x : Int) - 2 ^ tyW c)
  else .ofInt x

/-- The magnitude of a value as numerator over a power of two, for comparisons: m and e. -/
def Val.toDyadic : Val → Int × Int
  | .fin n m e _ => (if n then -(m : Int) else m, e)
  | _ => (0, 0)

/-- Compare two exact dyadics. -/
def cmpDyadic (x y : Int × Int) : Ordering :=
  let lo := min x.2 y.2
  compare (x.1 * 2 ^ (x.2 - lo).toNat) (y.1 * 2 ^ (y.2 - lo).toNat)

/-- The order of two values that are no NaN; the zeros compare equal (R110). -/
def Val.cmp (x y : Val) : Ordering :=
  match x, y with
  | .inf a, .inf b => if a == b then .eq else if a then .lt else .gt
  | .inf a, _ => if a then .lt else .gt
  | _, .inf b => if b then .gt else .lt
  | x, y => cmpDyadic x.toDyadic y.toDyadic

/-! ### Rounding (R68 to R71) -/

/-- What rounding does with the part below the last place: `gt` and `eq` compare it with one half, `any` says that it is not zero. -/
def roundUp (rm : Nat) (neg : Bool) (lo : Nat) (gt eq any : Bool) : Nat :=
  match rm with
  | 0 => if gt || (eq && lo % 2 = 1) then lo + 1 else lo
  | 1 => lo
  | 2 => if any && neg then lo + 1 else lo
  | 3 => if any && !neg then lo + 1 else lo
  | _ => if any then lo ||| 1 else lo

/-- The integer that rounding gives for m × 2^e (or a value just above it) in units of 2^q. -/
def roundAt (rm : Nat) (neg : Bool) (m : Nat) (e q : Int) (between : Bool) : Nat :=
  if q ≤ e then m * 2 ^ (e - q).toNat
  else
    let sh := (q - e).toNat
    if Nat.log2 m + 1 < sh then roundUp rm neg 0 false false (m != 0 || between)
    else
      let lo := m / 2 ^ sh
      let r := m % 2 ^ sh
      let half := 2 ^ (sh - 1)
      roundUp rm neg lo (decide (half < r) || (r = half && between)) (r = half && !between) (r != 0 || between)

def FTy.signBit (t : FTy) (neg : Bool) : Nat := if neg then 2 ^ (t.w - 1) else 0
def FTy.infMag (t : FTy) : Nat := if t.hasInf then (2 ^ t.eb - 1) * 2 ^ t.fb else t.maxMag

/-- OVF (R69) as an encoding. -/
def ovf (c : Nat) (rm : Nat) (neg : Bool) : Nat :=
  let t := fty c
  let inf := match rm with
    | 0 => true
    | 2 => neg
    | 3 => !neg
    | _ => false
  t.signBit neg + (if inf then t.infMag else t.maxMag)

/-- RND to a floating type of an exact finite value, as an encoding (R68). -/
def rndFloat (c : Nat) (rm : Nat) (neg : Bool) (m : Nat) (e : Int) (between : Bool) : Nat :=
  let t := fty c
  if m = 0 && !between then t.signBit neg
  else
    let emin : Int := 1 - t.bias
    let top : Int := Nat.log2 m + e
    let q := max top emin - t.fb
    let n := roundAt rm neg m e q between
    let (n, q) := if n = 2 ^ (t.fb + 1) then (2 ^ t.fb, q + 1) else (n, q)
    if n < 2 ^ t.fb then t.signBit neg + n
    else
      let mag := (q + t.fb + t.bias).toNat * 2 ^ t.fb + (n - 2 ^ t.fb)
      if t.maxMag < mag then ovf c rm neg else t.signBit neg + mag

/-- RND to an integer type: clamped to the type's range (R70), as the low bits. -/
def clampInt (c : Nat) (x : Int) : Int := max (intMin c) (min (intMax c) x)
def encInt (c : Nat) (x : Int) : Nat := (x % (2 ^ tyW c : Nat)).toNat
def rndInt (c : Nat) (rm : Nat) (neg : Bool) (m : Nat) (e : Int) (between : Bool) : Nat :=
  let n : Int := roundAt rm neg m e 0 between
  encInt c (clampInt c (if neg then -n else n))

/-- CVT: any value to any type, as an encoding (R71). -/
def cvt (c : Nat) (rm : Nat) (v : Val) : Nat :=
  match v with
  | .nan => if isFloat c then (fty c).nan else 0
  | .inf neg =>
    if c = 13 then 0x7F
    else if isFloat c then (fty c).signBit neg + (fty c).infMag
    else encInt c (if neg then intMin c else intMax c)
  | .fin neg m e b => if isFloat c then rndFloat c rm neg m e b else rndInt c rm neg m e b

/-- NARROW: round to odd through the intermediate types, then once (R73). -/
def narrow (via : List Nat) (c rm : Nat) (v : Val) : Nat :=
  match via with
  | [] => cvt c rm v
  | t :: ts => narrow ts c rm (valOf t (cvt t 4 v))

/-! ### Exact operations and the rules of R72 -/

/-- The sum of two finite dyadics; an exact zero takes its sign from R72 item 4. -/
def addFin (rm : Nat) (nx : Bool) (mx : Nat) (ex : Int) (ny : Bool) (my : Nat) (ey : Int) : Val :=
  let lo := min ex ey
  let a : Int := mx * 2 ^ (ex - lo).toNat
  let b : Int := my * 2 ^ (ey - lo).toNat
  let r := (if nx then -a else a) + (if ny then -b else b)
  if r = 0 then .zero (if nx == ny then nx else rm == 2)
  else .fin (decide (r < 0)) r.natAbs lo false

def addV (rm : Nat) (x y : Val) : Val :=
  match x, y with
  | .nan, _ => .nan
  | _, .nan => .nan
  | .inf a, .inf b => if a == b then .inf a else .nan
  | .inf a, _ => .inf a
  | _, .inf b => .inf b
  | .fin nx mx ex _, .fin ny my ey _ => addFin rm nx mx ex ny my ey

def mulV (x y : Val) : Val :=
  match x, y with
  | .nan, _ => .nan
  | _, .nan => .nan
  | .inf a, v => if v.isZero then .nan else .inf (a != v.neg)
  | v, .inf b => if v.isZero then .nan else .inf (b != v.neg)
  | .fin nx mx ex _, .fin ny my ey _ => .fin (nx != ny) (mx * my) (ex + ey) false

/-- x × y + z; an infinity times zero gives NaN whatever z is (R109). -/
def fmaV (rm : Nat) (x y z : Val) : Val := addV rm (mulV x y) z

/-- The quotient of two dyadics with enough bits that rounding sees every tie. -/
def divFin (neg : Bool) (mx : Nat) (ex : Int) (my : Nat) (ey : Int) : Val :=
  let n := mx * 2 ^ 160
  .fin neg (n / my) (ex - ey - 160) (n % my != 0)

/-- DIVX (R83). -/
def divV (x y : Val) : Val :=
  let neg := x.neg != y.neg
  match x, y with
  | .nan, _ => .nan
  | _, .nan => .nan
  | .inf _, .inf _ => .nan
  | .inf _, _ => .inf neg
  | _, .inf _ => .zero neg
  | .fin _ mx ex _, .fin _ my ey _ =>
    if my = 0 then (if mx = 0 then .nan else .inf neg)
    else if mx = 0 then .zero neg
    else divFin neg mx ex my ey

/-- The integer square root, bit by bit from bit `k - 1` down. -/
def isqrtFrom (n : Nat) : Nat → Nat → Nat
  | 0, r => r
  | k + 1, r => isqrtFrom n k (if (r + 2 ^ k) * (r + 2 ^ k) ≤ n then r + 2 ^ k else r)

/-- SQRT (R83). -/
def sqrtV (x : Val) : Val :=
  match x with
  | .nan => .nan
  | .inf n => if n then .nan else .inf false
  | .fin neg m e _ =>
    if m = 0 then .zero neg
    else if neg then .nan
    else
      let odd := e % 2 ≠ 0
      let m' := (if odd then 2 * m else m) * 2 ^ 128
      let e' := (if odd then e - 1 else e) - 128
      let r := isqrtFrom m' 96 0
      .fin false r (e' / 2) (r * r != m')

/-- RSQ (R83). -/
def rsqV (x : Val) : Val :=
  match x with
  | .nan => .nan
  | .inf n => if n then .nan else .zero false
  | .fin neg m e _ =>
    if m = 0 then .inf neg
    else if neg then .nan
    else
      let odd := e % 2 ≠ 0
      let m' := if odd then 2 * m else m
      let e' := if odd then e - 1 else e
      let r := isqrtFrom (2 ^ 192 / m') 98 0
      .fin false r (-(e' / 2) - 96) (r * r * m' != 2 ^ 192)

/-- RCP (R83). -/
def rcpV (x : Val) : Val := divV (.fin false 1 0 false) x

/-- The smaller value with −0 below +0, and the larger (R109); a NaN gives NaN. -/
def minV (x y : Val) : Val :=
  if x.isNan || y.isNan then .nan
  else match x.cmp y with
    | .lt => x
    | .gt => y
    | .eq => if x.neg then x else y
def maxV (x y : Val) : Val :=
  if x.isNan || y.isNan then .nan
  else match x.cmp y with
    | .lt => y
    | .gt => x
    | .eq => if x.neg then y else x

/-! ### Scales (R66, R67) -/

/-- The scale kinds: 1 e8m0, 2 ue4m3. -/
def scaleVal (kind : Nat) (b : Byte) : Val :=
  if kind = 1 then (if b = 0xFF then .nan else .fin false 1 ((b.toNat : Int) - 127) false)
  else if b.getLsbD 7 || b = 0x7F then .nan
  else
    let ex := (b.toNat / 8) % 16
    if ex = 0 then .fin false (b.toNat % 8) (-9) false else .fin false (8 + b.toNat % 8) ((ex : Int) - 10) false

def scaleV (x s : Val) : Val :=
  if s.isNan || x.isNan then .nan
  else if s.isZero then (if x.isInf then .nan else .zero x.neg)
  else mulV x s

/-! ### cb2 (R75 to R77) -/

/-- The eight weights of a code with its codebook entry, in units of one half. -/
def cb2 (code : BitVec 16) (entry : Word) : List Int :=
  let h : Int := if code.getLsbD 0 then 1 else 0
  let sg (k : Nat) : Bool :=
    if k < 7 then code.getLsbD (1 + k)
    else (List.range 7).foldl (fun b i => b != code.getLsbD (1 + i)) (entry.getLsbD 32)
  (List.range 8).map fun k =>
    let w := 2 * ((entry.extractLsb' (4 * k) 4).toNat : Int) + h
    if sg k then -w else w

/-! ### EXP2 and LOG2 (R78 to R82) -/

/-- RNE(2^(i/64) × 2^30). -/
def tx : List Nat := [
  1073741824, 1085434106, 1097253708, 1109202018, 1121280436, 1133490379, 1145833280, 1158310587,
  1170923762, 1183674286, 1196563654, 1209593378, 1222764986, 1236080024, 1249540052, 1263146652,
  1276901417, 1290805962, 1304861917, 1319070932, 1333434672, 1347954824, 1362633090, 1377471191,
  1392470869, 1407633882, 1422962010, 1438457051, 1454120821, 1469955159, 1485961921, 1502142985] ++ [
  1518500250, 1535035634, 1551751076, 1568648537, 1585730000, 1602997467, 1620452965, 1638098541,
  1655936265, 1673968228, 1692196547, 1710623359, 1729250827, 1748081133, 1767116489, 1786359126,
  1805811301, 1825475297, 1845353420, 1865448001, 1885761398, 1906295993, 1927054196, 1948038440,
  1969251188, 1990694927, 2012372174, 2034285470, 2056437387, 2078830522, 2101467502, 2124350982]

/-- RNE(log2(2^30 / INV[i]) × 2^30). -/
def lg : List Nat := [
  12055174, 35887674, 59359063, 82480119, 105261147, 127712005, 149842123, 171660540,
  193175914, 214396548, 235330406, 255985139, 276368091, 296486322, 316346620, 335955515,
  355319292, 374444004, 393335483, 411999348, 430441018, 448665722, 466678505, 484484243,
  502087635, 519493234, 536705434, 553728484, 570566499, 587223454, 603703206, 620009482] ++ [
  636145900, 652115959, 667923056, 683570482, 699061430, 714399001, 729586202, 744625951,
  759521085, 774274358, 788888447, 803365956, 817709408, 831921271, 846003931, 859959719,
  873790901, 887499680, 901088207, 914558568, 927912807, 941152904, 954280797, 967298369,
  980207461, 993009865, 1005707330, 1018301561, 1030794224, 1043186947, 1055481315, 1067678873]

/-- INV[i] = RNE(2^30 × 128 / (129 + 2i)). -/
def inv (i : Nat) : Nat := roundUp 0 false (2 ^ 37 / (129 + 2 * i))
  (decide (129 + 2 * i < 2 * (2 ^ 37 % (129 + 2 * i)))) (decide (2 * (2 ^ 37 % (129 + 2 * i)) = 129 + 2 * i)) true

/-- EXP2 as an encoding of type `c` (R79). -/
def exp2 (c rm : Nat) (x : Val) : Nat :=
  match x with
  | .nan => cvt c rm .nan
  | .inf n => if n then cvt c rm (.zero false) else cvt c rm (.inf false)
  | .fin neg m e _ =>
    if !neg && (cmpDyadic (m, e) (128, 0)) != .lt then ovf c rm false
    else
      let k := roundAt 0 neg m (e + 24) 0 false
      let X : Int := if neg then -(k : Int) else k
      let n := X / 2 ^ 24
      let F := (X % 2 ^ 24).toNat
      let u := (F % 2 ^ 18) * 2 ^ 6
      let t := 59597083 * u / 2 ^ 30
      let t := (257941248 + t) * u / 2 ^ 30
      let t := (744261118 + t) * u / 2 ^ 30
      cvt c rm (.fin false (tx.getD (F / 2 ^ 18) 0 * (2 ^ 30 + t)) (n - 60) false)

/-- LOG2 as an encoding of type `c` (R81). -/
def log2 (c rm : Nat) (x : Val) : Nat :=
  match x with
  | .nan => cvt c rm .nan
  | .inf n => if n then cvt c rm .nan else cvt c rm (.inf false)
  | .fin neg m e _ =>
    if m = 0 then cvt c rm (.inf true)
    else if neg then cvt c rm .nan
    else
      let top := Nat.log2 m
      let M := if top ≤ 23 then m * 2 ^ (23 - top) else m / 2 ^ (top - 23)
      let E : Int := top + e
      if M = 2 ^ 23 then cvt c rm (.ofInt E)
      else
        let i := M / 2 ^ 17 % 64
        let z : Int := ((M * inv i : Nat) - 2 ^ 53 : Int) / 2 ^ 23
        let t : Int := 516360668 - 387270501 * z / 2 ^ 30
        let t := t * z / 2 ^ 30 - 774541002
        let t := 1549082005 + t * z / 2 ^ 30
        let y := t * z / 2 ^ 30
        let L : Int := E * 2 ^ 30 + lg.getD i 0 + y
        cvt c rm (.fin (decide (L < 0)) L.natAbs (-30) false)

/-! ### Reductions (R84) -/

/-- One level of the tree: neighbours are combined. -/
def treeLevel {α : Type} (op : α → α → α) : List α → List α
  | x :: y :: r => op x y :: treeLevel op r
  | r => r

/-- `k` levels over 2^k operands. -/
def tree {α : Type} (op : α → α → α) : Nat → List α → List α
  | 0, l => l
  | k + 1, l => tree op k (treeLevel op l)

end Sys2Proof.Machine
end

