-- ==== Sys2Proof/Machine/Slices.lean ====
section
/-!
DEFINITION. The arithmetic of the matrix engines: exponents, the digit split, scales, the W-accumulator, the class pass and the final rounding
(R289, R293 to R301).
-/
namespace Sys2Proof.Machine

/-! ### The fields of a task (R288, R289) -/

inductive MMode where
  | int
  | cb2
  | sliced
  deriving DecidableEq, Repr

def sliceType (c : BitVec 4) : Bool := (9#4).ule c
/-- The mode that an FMT selects, or none (R289). -/
def mmode (f : FmtF) : Option MMode :=
  let plain := f.slc == 0 && !f.pset
  if (f.ta == 1 && f.tb == 1 || f.ta == 0 && f.tb == 0) && f.ts.ule 2 && plain &&
      ((f.ts == 0 && (f.tc == 3 || f.tc == 4)) || ((9#4).ule f.tc && f.tc.ule 12)) then some .int
  else if f.ta == 1 && f.tb == 1 && (f.ts == 3 || f.ts == 4) && plain && (9#4).ule f.tc && f.tc.ule 11 then some .cb2
  else if sliceType f.ta && sliceType f.tb && f.ts.ule 2 && (9#4).ule f.tc && f.tc.ule 12 then some .sliced
  else none

def mK (d : Word) : Nat := (d.extractLsb' 40 24).toNat
def mN (d : Word) : Nat := (d.extractLsb' 32 8).toNat + 1
def mM (d : Word) : Nat := (d.extractLsb' 26 6).toNat + 1
def mAcc (d : Word) : Bool := d.getLsbD 25
def mId (d : Word) : BitVec 16 := d.extractLsb' 0 16

/-- Bytes of an element; 4-bit types count one (R290). -/
def elemBytes (c : Nat) : Nat := max 1 (tyW c / 8)
def rowBytes (c k : Nat) : Nat := (k * tyW c + 7) / 8
/-- Bytes of a column of B (R293). -/
def colBytes (m : MMode) (tb k : Nat) : Nat := if m = .cb2 then k / 4 else rowBytes tb k
def bElem (m : MMode) (tb : Nat) : Nat := if m = .cb2 then 2 else elemBytes tb

/-- Element `k` of width `w` bits in a row of bytes. -/
def elemAt (row w k : Nat) : Nat := row / 2 ^ (w * k) % 2 ^ w

/-! ### The operands of a task once they are read -/

structure MData where
  mode : MMode
  f : FmtF
  k : Nat
  /-- the rows of A and the columns of B with their scales, as the bytes they hold -/
  a : List Nat
  sa : List Nat
  b : List Nat
  sb : List Nat
  table : List Word

def MData.scaled (d : MData) : Bool := d.f.ts != 0
/-- KB (R294). -/
def MData.kb (d : MData) : Nat := if d.scaled then 32 else 4096
def MData.blocks (d : MData) : Nat := (d.k + d.kb - 1) / d.kb
def MData.blockLen (d : MData) (b : Nat) : Nat := min d.kb (d.k - b * d.kb)
def MData.scaleKind (d : MData) : Nat := if d.f.ts = 1 || d.f.ts = 3 then 1 else 2

def MData.aVal (d : MData) (i k : Nat) : Val := valOf d.f.ta.toNat (elemAt (d.a.getD i 0) (tyW d.f.ta.toNat) k)
/-- A weight of a cb2 column in units of one half (R77). -/
def MData.cbInt (d : MData) (j k : Nat) : Int :=
  let code := BitVec.ofNat 16 (elemAt (d.b.getD j 0) 16 (k / 8))
  (cb2 code (d.table.getD (code.extractLsb' 8 8).toNat 0)).getD (k % 8) 0
def MData.bVal (d : MData) (k j : Nat) : Val :=
  if d.mode = .cb2 then .ofInt (d.cbInt j k) else valOf d.f.tb.toNat (elemAt (d.b.getD j 0) (tyW d.f.tb.toNat) k)
def MData.aScale (d : MData) (i b : Nat) : Val :=
  if d.scaled then scaleVal d.scaleKind (BitVec.ofNat 8 (elemAt (d.sa.getD i 0) 8 b)) else .fin false 1 0 false
def MData.bScale (d : MData) (j b : Nat) : Val :=
  if d.scaled then scaleVal d.scaleKind (BitVec.ofNat 8 (elemAt (d.sb.getD j 0) 8 b)) else .fin false 1 0 false

/-! ### Exponents and digits (R294, R295) -/

/-- floor(log2) + 1 of the largest finite magnitude; 0 when there is none. -/
def topExp (vs : List Val) : Int :=
  (vs.foldl (fun (b : Option Int) v =>
    match v with
    | .fin _ m e _ =>
      if m = 0 then b else some (match b with | none => Nat.log2 m + e | some x => max x (Nat.log2 m + e))
    | _ => b) none).elim 0 (· + 1)

def MData.expA (d : MData) (i : Nat) : Int :=
  match d.mode with
  | .sliced => topExp ((List.range d.k).map (d.aVal i))
  | _ => if d.f.ta = 0 then 4 else 8
def MData.expB (d : MData) (j : Nat) : Int :=
  match d.mode with
  | .sliced => topExp ((List.range d.k).map fun k => d.bVal k j)
  | .cb2 => 5
  | .int => if d.f.tb = 0 then 4 else 8

/-- The nearest integer to n / den, ties to even. -/
def nearest (n : Int) (den : Nat) : Int :=
  let q := n / (den : Int)
  let r := n % (den : Int)
  if 2 * r < den then q else if den < 2 * r then q + 1 else if q % 2 = 0 then q else q + 1

/-- `s` digits of n / den. -/
def digits (n : Int) (den : Nat) : Nat → List Int
  | 0 => []
  | s + 1 =>
    let d := nearest n den
    d :: digits ((n - d * den) * 128) den s

/-- SPLIT(x, e, s). -/
def split (x : Val) (e : Int) (s : Nat) : List Int :=
  match x with
  | .fin neg m ex _ =>
    let sh := ex + 6 - e
    let n : Int := if neg then -(m : Int) else m
    if 0 ≤ sh then digits (n * 2 ^ sh.toNat) 1 s else digits n (2 ^ (-sh).toNat) s
  | _ => List.replicate s 0

def valInt (x : Val) : Int :=
  match x with
  | .fin neg m e _ => let n := (m : Int) * 2 ^ e.toNat; if neg then -n else n
  | _ => 0

def MData.slices (d : MData) : Nat := d.f.slc.toNat + 1

/-- The pairs in pair order (R296). -/
def MData.pairs (d : MData) : List (Nat × Nat) :=
  match d.mode with
  | .sliced =>
    let s := d.slices
    let top := if d.f.pset then 2 * s else s + 1
    (List.range (top + 1)).flatMap fun t =>
      (List.range s).filterMap fun p0 =>
        let p := p0 + 1
        if p < t && t - p ≤ s then some (p, t - p) else none
  | _ => [(1, 1)]

def MData.digitA (d : MData) (eA : Int) (i k p : Nat) : Int :=
  if d.mode = .sliced then (split (d.aVal i k) eA d.slices).getD (p - 1) 0 else valInt (d.aVal i k)
def MData.digitB (d : MData) (eB : Int) (k j q : Nat) : Int :=
  if d.mode = .sliced then (split (d.bVal k j) eB d.slices).getD (q - 1) 0 else valInt (d.bVal k j)

/-! ### Scales and the anchor (R297, R300) -/

/-- S(i, j, b) as m × 2^e; a scale that is a NaN contributes nothing, for the class pass decides the element. -/
def MData.scale (d : MData) (i j b : Nat) : Nat × Int :=
  match mulV (d.aScale i b) (d.bScale j b) with
  | .fin _ m e _ => (m, e)
  | _ => (0, 0)

def ceilLog2 (m : Nat) : Int := if m = 2 ^ Nat.log2 m then Nat.log2 m else Nat.log2 m + 1

def MData.sigma (d : MData) (i j : Nat) : Int :=
  if !d.scaled then 0
  else
    ((List.range d.blocks).foldl (fun (b : Option Int) k =>
      let s := d.scale i j k
      if s.1 = 0 then b
      else
        let x := ceilLog2 s.1 + s.2
        some (match b with | none => x | some y => max x y)) none).getD 0

/-- λ. -/
def MData.lambda (d : MData) (eA eB : Int) (i j : Nat) (acc : Bool) (c0 : Val) : Int :=
  let p := eA + eB + 26 + d.sigma i j
  let q := match c0 with
    | .fin _ m e _ => if acc && m != 0 then Nat.log2 m + e + 1 else p
    | _ => p
  max p q + 1 - 255

/-- ADDW of n × 2^x. -/
def addW (c : MCell) (lam n x : Int) : MCell :=
  let sh := x - lam
  if 0 ≤ sh then { c with w := c.w + n * 2 ^ sh.toNat }
  else
    let den : Int := 2 ^ (-sh).toNat
    { c with w := c.w + n / den, st := c.st || n % den != 0 }

def valParts (v : Val) : Int × Int :=
  match v with
  | .fin neg m e _ => (if neg then -(m : Int) else m, e)
  | _ => (0, 0)

/-- One K-block of a pair at cell (i, j) (R298, R299). -/
def MData.addBlock (d : MData) (eA eB lam : Int) (i j : Nat) (pq : Nat × Nat) (b : Nat) (c : MCell) : MCell :=
  let part : Int := ((List.range (d.blockLen b)).map fun k0 =>
    let k := b * d.kb + k0
    d.digitA eA i k pq.1 * d.digitB eB k j pq.2).sum
  let s := d.scale i j b
  let wt : Int := match d.mode with
    | .sliced => eA + eB + 2 - 7 * ((pq.1 : Int) + pq.2)
    | .cb2 => -1
    | .int => 0
  addW c lam (part * s.1) (wt + s.2)

/-! ### The class pass (R301) -/

def classProduct (x y : Val) (c : MCell) : MCell :=
  if x.isNan || y.isNan || (x.isInf && y.isZero) || (x.isZero && y.isInf) then { c with pn := true }
  else if x.isInf || y.isInf then (if x.neg != y.neg then { c with pm := true } else { c with pp := true })
  else c

def MData.classBlock (d : MData) (i j b : Nat) (c : MCell) : MCell :=
  (List.range (d.blockLen b)).foldl (fun c k0 =>
    let k := b * d.kb + k0
    classProduct (scaleV (d.aVal i k) (d.aScale i b)) (scaleV (d.bVal k j) (d.bScale j b)) c) c

def classC0 (v : Val) (c : MCell) : MCell :=
  match v with
  | .nan => { c with pn := true }
  | .inf true => { c with pm := true }
  | .inf false => { c with pp := true }
  | _ => c

def Val.special (v : Val) : Bool := v.isNan || v.isInf

def MData.special (d : MData) : Bool :=
  (List.range d.a.length).any (fun i =>
    (List.range d.k).any (fun k => (d.aVal i k).special) || (List.range d.blocks).any fun b => (d.aScale i b).special) ||
  (List.range d.b.length).any (fun j =>
    (List.range d.k).any (fun k => (d.bVal k j).special) || (List.range d.blocks).any fun b => (d.bScale j b).special)

/-! ### The result (R298, R301) -/

def cellResult (f : FmtF) (lam : Int) (c : MCell) : Nat :=
  let tc := f.tc.toNat
  let rm := f.rnd.toNat
  if c.pn || (c.pp && c.pm) then cvt tc rm .nan
  else if c.pp then cvt tc rm (.inf false)
  else if c.pm then cvt tc rm (.inf true)
  else
    let v := 2 * c.w + (if c.st then 1 else 0)
    if !isFloat tc then cvt tc rm (.fin (decide (v < 0)) v.natAbs (lam - 1) false)
    else if v = 0 then (fty tc).signBit (rm == 2)
    else rndFloat tc rm (decide (v < 0)) v.natAbs (lam - 1) false

end Sys2Proof.Machine
end

