-- ==== Sys2Proof/Machine/Matrix.lean ====
section
/-!
DEFINITION. The matrix engines, OP 0xD0 to 0xD3: half-arrays and their queues (R282 to R286), MTASK (R287 to R292), the B image (R293), the
running task with its save area (R304, R305), MQRY, MCBL and DSEQ (R308 to R310).
-/
namespace Sys2Proof.Machine

/-! ### Half-arrays (R282) -/

def State.half (s : State) (h : Nat) : Half := NMap.get Half.reset s.halves h
def State.setHalf (s : State) (h : Nat) (x : Half) : State := { s with halves := NMap.set s.halves h x }
def State.modHalf (s : State) (h : Nat) (f : Half → Half) : State := s.setHalf h (f (s.half h))

/-- The physical half of a logical number in a partition's half table; none when it is not allotted. -/
def State.halfNo (s : State) (tag : BitVec 6) (w : Word) : Option Nat := NMap.find (s.part tag.toNat).halves w.toNat
def halfCluster (h : Nat) : Nat := h / 4
def Half.count (x : Half) (i : Nat) : Word := vget 0 x.counters i
def Half.bump (x : Half) (i n : Nat) : Half := { x with counters := vset x.counters i (x.count i + BitVec.ofNat 64 n) }

/-! ### The ramp (R398) -/

/-- The length of a ramp in ticks. -/
def State.rampTicks (s : State) : Nat := 1000 * s.rampTime.toNat
/-- Eighths of the ramp that have passed. -/
def State.eighths (s : State) (start : Word) : Nat := 8 * (s.time - start).toNat / max 1 s.rampTicks

/-- RPH and RSTEP of a ramp now. -/
def State.rampNow (s : State) (r : Ramp) : BitVec 2 × Nat :=
  match r with
  | .rising t => if 8 ≤ s.eighths t then (0, 0) else (1, 7 - s.eighths t)
  | .falling t => if 8 ≤ s.eighths t then (0, 0) else (2, s.eighths t)
  | _ => (0, 0)

/-- A task arrives: a falling ramp turns at the matching point. -/
def State.rampTurn (s : State) (h : Nat) : State :=
  s.modHalf h fun x =>
    match x.ramp with
    | .falling t =>
      if 8 ≤ s.eighths t then { x with ramp := .quiescent }
      else { x with ramp := .rising (s.time - BitVec.ofNat 64 (125 * s.rampTime.toNat * (7 - s.eighths t))) }
    | _ => x

/-- A task starts: a quiescent half rises. -/
def State.rampUp (s : State) (h : Nat) : State :=
  (s.rampTurn h).modHalf h fun x => match x.ramp with | .quiescent => { x with ramp := .rising s.time } | _ => x

/-- A half whose last record has gone falls. -/
def State.rampDown (s : State) (h : Nat) : State :=
  s.modHalf h fun x =>
    if x.run.isNone && x.queue.isEmpty then
      match x.ramp with
      | .rising _ | .full => { x with ramp := .falling s.time }
      | _ => x
    else x

/-- The ramp's time has passed. -/
def execRampEnd (half : Nat) (s : State) : Host.Outcome State Fault Refusal :=
  .next (s.modHalf half fun x =>
    match x.ramp with
    | .rising t => if 8 ≤ s.eighths t then { x with ramp := .full } else x
    | .falling t => if 8 ≤ s.eighths t then { x with ramp := .quiescent } else x
    | _ => x)

/-! ### A task's record (R287) -/

def MRec.word (r : MRec) (i : Nat) : Word := r.desc.getD i 0
def MRec.shape (r : MRec) : Word := r.word 0
def MRec.id (r : MRec) : BitVec 16 := mId r.shape
def MRec.mode (r : MRec) : MMode := (mmode r.fmt).getD .int
def MRec.sA (r : MRec) : Nat := ((r.word 7).extractLsb' 0 24).toNat
def MRec.sB (r : MRec) : Nat := ((r.word 7).extractLsb' 24 24).toNat
def MRec.sC (r : MRec) : Nat := ((r.word 8).extractLsb' 0 32).toNat
def MRec.k (r : MRec) : Nat := mK r.shape
def MRec.n (r : MRec) : Nat := mN r.shape
def MRec.m (r : MRec) : Nat := mM r.shape
def MRec.acc (r : MRec) : Bool := mAcc r.shape
def MRec.cSize (r : MRec) : Nat := tyW r.fmt.tc.toNat / 8
def MRec.aBytes (r : MRec) : Nat := rowBytes r.fmt.ta.toNat r.k
def MRec.bBytes (r : MRec) : Nat := colBytes r.mode r.fmt.tb.toNat r.k
def MRec.scBytes (r : MRec) : Nat := if r.fmt.ts = 0 then 0 else r.k / 32
def MRec.imageBytes (r : MRec) : Nat := r.n * (r.bBytes + r.scBytes)

/-- Row or column `i` of an operand. -/
def lineAt (base : Word) (stride i : Nat) : Word := base + BitVec.ofNat 64 (i * stride)
def MRec.cAddr (r : MRec) (e : Nat) : Word := r.word 4 + BitVec.ofNat 64 (e / r.n * r.sC + e % r.n * r.cSize)

/-- A descriptor that R288, R289 or R421 refuses with status 0x08. -/
def State.descBad (s : State) (p : Nat) (r : MRec) : Bool :=
  let w0 := r.shape
  let predBad (x : BitVec 32) := x.extractLsb' 26 5 != 0
  match mmode r.fmt with
  | none => true
  | some m =>
    let ta := r.fmt.ta.toNat
    let tb := r.fmt.tb.toNat
    let four := tyW ta = 4 || tyW tb = 4
    decide (r.k = 0) || decide (128 < r.n) || w0.extractLsb' 16 9 != 0 ||
    predBad ((r.word 1).extractLsb' 0 32) || predBad ((r.word 1).extractLsb' 32 32) ||
    (r.word 7).extractLsb' 48 16 != 0 || (r.word 8).extractLsb' 32 32 != 0 || (List.range 6).any (fun i => r.word (10 + i) != 0) ||
    (r.fmt.ts != 0 && decide (r.k % 32 ≠ 0)) || (four && decide (r.k % 2 ≠ 0)) ||
    decide (r.sA % elemBytes ta ≠ 0) || decide (r.sB % bElem m tb ≠ 0) || decide (r.sC % r.cSize ≠ 0) ||
    decide (r.sA < r.aBytes) || decide (r.sB < r.bBytes) || decide (r.sC < r.n * r.cSize) ||
    (r.fmt.ts == 0 && (r.word 5 != 0 || r.word 6 != 0)) || !s.replyOk p (r.word 9)

/-! ### The stretches of a task (R290) -/

/-- Bytes from an address, piece by piece. -/
def pieces (base addr : Word) (e n : Nat) (store : Bool) : List Touch :=
  (List.range (n / e)).map fun i => ⟨base, addr + BitVec.ofNat 64 (i * e), e, e, store⟩

def MRec.aRows (r : MRec) : List Touch :=
  (List.range r.m).flatMap fun i => pieces (r.word 2) (lineAt (r.word 2) r.sA i) (elemBytes r.fmt.ta.toNat) r.aBytes false
def MRec.aScales (r : MRec) : List Touch :=
  (List.range r.m).flatMap fun i => pieces (r.word 5) (lineAt (r.word 5) r.scBytes i) 1 r.scBytes false
def MRec.aTouches (r : MRec) : List Touch := r.aRows ++ r.aScales
def MRec.bTouches (r : MRec) : List Touch :=
  (List.range r.n).flatMap fun j =>
    pieces (r.word 3) (lineAt (r.word 3) r.sB j) (bElem r.mode r.fmt.tb.toNat) r.bBytes false ++
    pieces (r.word 6) (lineAt (r.word 6) r.scBytes j) 1 r.scBytes false
def MRec.cTouches (r : MRec) : List Touch :=
  (List.range (r.m * r.n)).map fun e => ⟨r.word 4, r.cAddr e, r.cSize, r.cSize, true⟩
/-- The save area is aligned on 64 KiB. -/
def saveLen : Nat := 0x43000
def MRec.saveTouches (r : MRec) : List Touch :=
  ⟨r.save, r.save, 64, 0x10000, true⟩ :: pieces r.save r.save 64 saveLen true

/-- A kind of place that R290 does not allow: A outside the half's cluster, B or C in another core's memory, a save area in local
memory. -/
def State.notInCluster (s : State) (p h : Nat) (x : Touch) : Bool :=
  match s.engineSpace p x.addr with
  | some (.lm q _) => clusterOf q != halfCluster h
  | _ => true
def State.notOwnOrDev (s : State) (p : Nat) (x : Touch) : Bool :=
  match s.engineSpace p x.addr with
  | some sp => sp.foreign p
  | none => true

/-- Step 4 of R291. -/
def State.taskProbe (s : State) (t : StreamId) (f : FmtE) (h : Nat) (r : MRec) : Run State := do
  let p := t.core
  let wrong := r.aTouches.filter (s.notInCluster p h) ++ (r.bTouches ++ r.cTouches).filter (s.notOwnOrDev p) ++
    r.saveTouches.filter fun x => !s.isDev p x.addr
  let all := r.aTouches ++ r.bTouches ++ r.cTouches ++ r.saveTouches
  failAt 0x04 (fun _ => true) (wrong ++ all.filter (s.badForm p))
  s.probe t (.mtask f) all [r.aRows, r.aScales] (r.saveTouches ++ if r.acc then r.cTouches else [])

/-! ### MTASK (R291) -/

/-- The completion message of a task (R292). -/
def replyMessage (p : Nat) (reply : Word) (done : Nat) (seq : BitVec 16) (status : Byte) (addr : Word) (s : State) : State :=
  s.reply p reply [tgtCookie reply ++ (statusWord done seq status).extractLsb' 0 32, BitVec.ofNat 64 (done % 2 ^ 32), addr]

def State.taskRefuse (s : State) (t : StreamId) (f : FmtE) (r : MRec) (status : Byte) : State :=
  let reply := r.word 9
  let send : Option (Ticket → State → State) :=
    if tgtV reply && s.replyOk t.core reply then some fun tk s => replyMessage t.core reply 0 tk.seq status 0 s else none
  s.refuse t (packE 0xD0 f) f.d status send

/-- The place of the next record in the order of issue (R284). -/
def State.nextOrder (s : State) : Nat :=
  1 + (s.halves.flatMap fun e => e.2.queue.map (·.order) ++ (e.2.run.map (·.r.order)).toList).foldl max 0

/-- A record of a context that a half holds; a pre-empted task counts as running (R291). -/
def Half.holdsId (x : Half) (ctx : BitVec 3) (id : BitVec 16) : Bool :=
  (x.queue.any fun r => r.table.isNone && r.ctx == ctx && r.id == id) ||
    x.run.any fun u => u.r.ctx == ctx && u.r.id == id

/-- The snapshot of step 2: what the stream has read already, while its probe waits, or the descriptor now, which its stream keeps (R291). -/
def State.descSnapshot (s : State) (t : StreamId) (f : FmtE) : Run (Nat × State) :=
  match (s.strm t).snap with
  | b :: _ => .ok (b, s)
  | [] => do
    let (_, bytes) ← s.ownRecord t (s.reg t f.b) 64 128 false
    .ok (bytes, s.modStrm t fun st => { st with snap := [bytes] })

/-- A stream that stalls in step 5 has not executed its instruction, which begins anew (R291). -/
def State.stall (s : State) (t : StreamId) : State := s.modStrm t fun st => { st with pend := none, snap := [], asked := [] }

def mtaskBody (t : StreamId) (f : FmtE) (s : State) : Run State :=
  match (s.strm t).fmt with
  | none => trap 0x01
  | some fmt => do
    let c := s.core t.core
    let (bytes, s) ← s.descSnapshot t f
    let r : MRec := ⟨s.nextOrder, t.core, s.ticket t f.d, c.tag, c.ctx, fmt, wordsOf 16 bytes, s.reg t f.c, none, false, 0⟩
    if s.descBad t.core r then .ok (s.taskRefuse t f r 0x08)
    else if tgtV (r.word 9) && tgtChan (r.word 9) == 62 && (s.strm t).pl == 0 then trap 0x0D
    else
      match s.halfNo c.tag (s.reg t f.a) with
      | none => .ok (s.taskRefuse t f r 0x04)
      | some h =>
        if 0x200000 < r.imageBytes then .ok (s.taskRefuse t f r 0x07)
        else do
          let s ← s.taskProbe t f h r
          let x := s.half h
          if 64 ≤ x.queue.length then .error (.hold (s.stall t))
          else if x.holdsId c.ctx r.id then .ok (s.taskRefuse t f r 0x08)
          else
            let s := s.dispatch t (packE 0xD0 f) .issued 0
            .ok (((s.modHalf h fun x => { x with queue := x.queue ++ [r] }).rampTurn h).boardSet t f.d)

/-- MTASK (R291). -/
def execMtask (f : FmtE) (s : State) : Host.Outcome State Fault Refusal :=
  issueE ⟨0xD0, usedDabc, true, false, none⟩ mtaskBody f s

/-! ### Reading the operands (R290, R293) -/

/-- Several stretches of bytes, or the first late status with its address. -/
def State.readLines (s : State) (p : Nat) : List (Word × Nat) → Except (Byte × Word) (List Nat) × State
  | [] => (.ok [], s)
  | (a, n) :: xs =>
    match s.engineBytes p a n with
    | (.error e, s) => (.error e, s)
    | (.ok x, s) =>
      match s.readLines p xs with
      | (.error e, s) => (.error e, s)
      | (.ok ys, s) => (.ok (x :: ys), s)

/-- The statuses of R292: a refusal, an error, or a lost translation. -/
def lateStatus (e : Byte) : Byte := if e = 0x07 then 0x04 else e

/-- An address in every page of a stretch: one in each 64 KiB, and the last. -/
def pagesIn (base : Word) (n : Nat) : List Word :=
  if n = 0 then [] else (List.range (n / 0x10000 + 1)).map (fun i => base + BitVec.ofNat 64 (0x10000 * i)) ++ [base + BitVec.ofNat 64 (n - 1)]

/-- The columns of B and of its scales: address and length. -/
def MRec.bCols (r : MRec) : List (Word × Nat) := (List.range r.n).map fun j => (lineAt (r.word 3) r.sB j, r.bBytes)
def MRec.scCols (r : MRec) : List (Word × Nat) := (List.range r.n).map fun j => (lineAt (r.word 6) r.scBytes j, r.scBytes)

/-- The place of an address and the VERSION of its region, where it is Published device memory; of another module's region this model does
not hold the VERSION (log 17). -/
def State.versionAt (s : State) (p : Nat) (a : Word) : Option (List Nat) :=
  match s.devPlace p a with
  | some pl =>
    let r := s.region pl.rkey
    if !s.isDev p a then none
    else if pl.module ≠ 0x1FFF then some [pl.key, 2 ^ 32 + pl.module.toNat]
    else if r.st == .published then some [pl.key, r.version.toNat] else none
  | none => none

/-- Some of a B image comes from another module, which alone knows whether its region is Published still with the VERSION of the key. -/
def State.imageAway (s : State) (r : MRec) : Bool :=
  (r.bCols ++ r.scCols).any fun c => (pagesIn c.1 c.2).any fun a => (s.devPlace r.core a).any fun pl => pl.module != 0x1FFF

/-- The key of a B image: its description, and the place and VERSION of every page that it comes from; and whether it may serve again
(R293). -/
def State.imageKey (s : State) (r : MRec) : List Nat × Bool :=
  let vs := ((r.bCols ++ r.scCols).flatMap fun c => pagesIn c.1 c.2).map (s.versionAt r.core)
  ([(r.word 3).toNat, (r.word 6).toNat, r.fmt.tb.toNat, r.fmt.ts.toNat, r.k, r.n, r.sB] ++ vs.flatMap (·.getD []),
    vs.all (·.isSome))

/-- The pieces of a column by the lines in which they lie: where each begins in the column, and its length. -/
def linePieces (a n : Nat) : List (Nat × Nat) :=
  (List.range ((a % 64 + n + 63) / 64)).map fun i =>
    let lo := if i = 0 then 0 else 64 * i - a % 64
    (lo, min n (64 * (i + 1) - a % 64) - lo)

/-- The pieces in which an image is loaded: whether of a scale column, the column, where the piece begins in it, its address and length. -/
def MRec.imagePieces (r : MRec) : List (Bool × Nat × Nat × Word × Nat) :=
  let of (sc : Bool) (cs : List (Word × Nat)) : List (Bool × Nat × Nat × Word × Nat) :=
    (cs.mapIdx fun j c => (linePieces c.1.toNat c.2).map fun x => (sc, j, x.1, c.1 + BitVec.ofNat 64 x.1, x.2)).flatten
  of false r.bCols ++ of true r.scCols

/-- A piece of a column joins the image. -/
def BImage.put (b : BImage) (x : Bool × Nat × Nat × Word × Nat) (bytes : Nat) : BImage :=
  let add (cs : List Nat) : List Nat := cs.mapIdx fun j c => if j = x.2.1 then c + bytes * 256 ^ x.2.2.1 else c
  if x.1 then { b with scales := add b.scales } else { b with cols := add b.cols }

/-- The image of a task is to be loaded: nothing of it stands in the slice yet. -/
def State.emptyImage (s : State) (r : MRec) : BImage :=
  ⟨(s.imageKey r).1, List.replicate r.n 0, List.replicate r.n 0, (s.imageKey r).2⟩

/-- A task has its whole image. -/
def MRun.ready (u : MRun) : Bool := decide (u.r.imagePieces.length ≤ u.loaded)

/-- Up to `n` further pieces of a task's image are read at their homes (R227, R293). -/
def State.loadPieces (s : State) (h : Nat) (u : MRun) : Nat → State × MRun × Option (Byte × Word)
  | 0 => (s, u, none)
  | n + 1 =>
    match u.r.imagePieces[u.loaded]? with
    | none => (s, u, none)
    | some x =>
      match s.engineBytes u.r.core x.2.2.2.1 x.2.2.2.2 with
      | (.error e, s) => (s, u, some e)
      | (.ok bytes, s) =>
        (s.modHalf h fun y => { y with image := y.image.map fun b => b.put x bytes }).loadPieces h { u with loaded := u.loaded + 1 } n

/-! ### Completion (R286, R292) -/

/-- The running task of a half ends. -/
def State.taskEnds (s : State) (h : Nat) (u : MRun) (status : Byte) (addr : Word) : State :=
  let r := u.r
  let send : Option (State → State) :=
    if tgtV (r.word 9) then some (replyMessage r.core (r.word 9) u.done r.tk.seq status addr) else none
  let s := s.deliver r.core r.tk u.done status addr send
  let s := s.modCore r.core fun c =>
    { c with ring := c.ring.map fun e => if e.seq == r.tk.seq then { e with res := decide (0 < r.resumes) } else e }
  (s.modHalf h fun x =>
    Half.bump { x with run := none, image := if status = 0x05 || !u.ready then none else x.image } 0 1).rampDown h

/-! ### Choosing a record (R284) -/

/-- A half holds a record of a context with this ID that was issued before the given place in the order. -/
def Half.holdsOlder (x : Half) (ctx : BitVec 3) (id : BitVec 16) (order : Nat) : Bool :=
  { x with
    queue := x.queue.filter fun r => decide (r.order < order)
    run := x.run.filter fun u => decide (u.r.order < order) }.holdsId ctx id

/-- A predecessor is satisfied when the half that it names holds no record of the context with its ID; one that had not been issued is
none. -/
def State.predOk (s : State) (r : MRec) (x : BitVec 32) : Bool :=
  !x.getLsbD 31 ||
    match s.halfNo r.tag ((x.extractLsb' 16 10).setWidth 64) with
    | none => true
    | some h => !(s.half h).holdsOlder r.ctx (x.extractLsb' 0 16) r.order

def State.ready (s : State) (r : MRec) : Bool :=
  s.predOk r ((r.word 1).extractLsb' 0 32) && s.predOk r ((r.word 1).extractLsb' 32 32)

/-- The oldest ready task; none passes an MCBL record. -/
def State.nextTask (s : State) (h : Nat) : Option MRec :=
  ((s.half h).queue.takeWhile fun r => r.table.isNone).find? s.ready

/-! ### The save area (R305) -/

/-- A word and a byte of a save area that can be read. -/
def State.saveWord (s : State) (r : MRec) (off : Nat) : Word :=
  match s.engineRead r.core (r.save + BitVec.ofNat 64 off) 8 with
  | (.ok x, _) => BitVec.ofNat 64 x
  | _ => 0
def State.saveByte (s : State) (r : MRec) (off : Nat) : Nat :=
  match s.engineRead r.core (r.save + BitVec.ofNat 64 off) 1 with
  | (.ok x, _) => x
  | _ => 0

/-- A save area on another module, which gives back what was written there. -/
def State.saveAway (s : State) (r : MRec) : Bool := (s.devPlace r.core r.save).any fun pl => pl.module != 0x1FFF

/-- The first word of a save area that cannot be read, with the late status. -/
def State.saveFails (s : State) (r : MRec) : Option (Byte × Word) :=
  (List.range (saveLen / 8)).findSome? fun i =>
    match (s.engineRead r.core (r.save + BitVec.ofNat 64 (8 * i)) 8).1 with
    | .error e => some e
    | .ok _ => none

def saveHeader (u : MRun) : Word :=
  BitVec.ofNat 32 u.done ++ BitVec.ofNat 8 u.pidx ++ BitVec.ofNat 2 u.phase ++ bit 1 u.cls ++ bit 1 u.accd ++ 0#4 ++ u.r.tk.seq

/-- The cell of array position (i, j), when the task has it. -/
def MRun.cell (u : MRun) (i j : Nat) : Option MCell :=
  if i < u.r.m && j < u.r.n then u.cells[i * u.r.n + j]? else none

def cellWord (c : MCell) (k : Nat) : Word := BitVec.ofInt 64 (c.w / 2 ^ (64 * k))
def cellFlags (c : MCell) : Nat :=
  (if c.st then 1 else 0) + (if c.pn then 2 else 0) + (if c.pp then 4 else 0) + (if c.pm then 8 else 0)

/-- Byte range `off` to `off + 7` of the save area. -/
def MRun.saveWordAt (u : MRun) (off : Nat) : Word :=
  if off = 0 then saveHeader u
  else if off = 8 then BitVec.ofNat 64 u.kpos
  else if off = 16 then BitVec.ofNat 64 u.r.resumes
  else if 0x40 ≤ off ∧ off < 0x240 then BitVec.ofInt 64 (u.eA.getD ((off - 0x40) / 8) 0)
  else if 0x240 ≤ off ∧ off < 0x640 then BitVec.ofInt 64 (u.eB.getD ((off - 0x240) / 8) 0)
  else if 0x1000 ≤ off ∧ off < 0x41000 then
    let c := (off - 0x1000) / 32
    match u.cell (c / 128) (c % 128) with
    | some x => cellWord x ((off - 0x1000) % 32 / 8)
    | none => 0
  else if 0x41000 ≤ off then
    BitVec.ofNat 64 (((List.range 8).map fun b =>
      let c := off - 0x41000 + b
      (match u.cell (c / 128) (c % 128) with | some x => cellFlags x | none => 0) * 256 ^ b).sum)
  else 0

def State.writeSave (s : State) (u : MRun) : State :=
  iter (saveLen / 8) (fun i s =>
    (s.engineWrite u.r.core (u.r.save + BitVec.ofNat 64 (8 * i)) 8 (u.saveWordAt (8 * i)).toNat).2) s

def cellOf (w : Nat → Word) (flags : Nat) : MCell :=
  let raw : Nat := ((List.range 4).map fun k => (w k).toNat * 2 ^ (64 * k)).sum
  ⟨if 2 ^ 255 ≤ raw then (raw : Int) - 2 ^ 256 else raw, flags.testBit 0, flags.testBit 1, flags.testBit 2, flags.testBit 3⟩

/-- The state of a task as its save area holds it (R304); its anchors, which the save area does not hold, stay with its record (log 92). -/
def State.readSave (s : State) (u : MRun) : MRun :=
  let r := u.r
  let h := s.saveWord r 0
  { r := { r with saved := false, resumes := r.resumes + 1 }
    loaded := 0
    phase := (h.extractLsb' 22 2).toNat
    cls := h.getLsbD 21
    accd := h.getLsbD 20
    pidx := (h.extractLsb' 24 8).toNat
    kpos := (s.saveWord r 8).toNat
    done := (h.extractLsb' 32 32).toNat
    eA := (List.range r.m).map fun i => (s.saveWord r (0x40 + 8 * i)).toInt
    eB := (List.range r.n).map fun j => (s.saveWord r (0x240 + 8 * j)).toInt
    lams := u.lams
    cells := (List.range (r.m * r.n)).map fun e =>
      let c := 128 * (e / r.n) + e % r.n
      cellOf (fun k => s.saveWord r (0x1000 + 32 * c + 8 * k)) (s.saveByte r (0x41000 + c)) }

def MRun.fresh (r : MRec) : MRun := ⟨r, 0, 0, false, false, 0, 0, 0, [], [], [], []⟩

/-! ### The computation (R294 to R301) -/

/-- The operands of a running task: A is read now, B stands in the image. -/
def State.taskData (s : State) (x : Half) (r : MRec) : Except (Byte × Word) MData × State :=
  match s.readLines r.core ((List.range r.m).map fun i => (lineAt (r.word 2) r.sA i, r.aBytes)) with
  | (.error e, s) => (.error e, s)
  | (.ok a, s) =>
    match s.readLines r.core ((List.range r.m).map fun i => (lineAt (r.word 5) r.scBytes i, r.scBytes)) with
    | (.error e, s) => (.error e, s)
    | (.ok sa, s) =>
      let b := x.image.getD ⟨[], [], [], false⟩
      (.ok ⟨r.mode, r.fmt, r.k, a, sa, b.cols, b.scales, x.codebook⟩, s)

/-- C as it stands, where the task adds to it. -/
def State.readC0 (s : State) (r : MRec) : Except (Byte × Word) (List Nat) × State :=
  if r.acc then s.readLines r.core ((List.range (r.m * r.n)).map fun e => (r.cAddr e, r.cSize)) else (.ok [], s)

/-- The anchor of cell `e`. -/
def MRun.lam (u : MRun) (e : Nat) : Int := u.lams.getD e 0

/-- The scan: exponents, the anchors, which stay as they are from here on (R297), C0, and whether a class pass runs. -/
def MRun.scan (u : MRun) (d : MData) (c0 : List Nat) : MRun :=
  let r := u.r
  let val (e : Nat) : Val := valOf r.fmt.tc.toNat (c0.getD e 0)
  let special := d.special || (List.range (r.m * r.n)).any fun e => r.acc && (val e).special
  let eA := (List.range r.m).map d.expA
  let eB := (List.range r.n).map d.expB
  let lam (e : Nat) : Int := d.lambda (eA.getD (e / r.n) 0) (eB.getD (e % r.n) 0) (e / r.n) (e % r.n) r.acc (val e)
  { u with
    eA := eA
    eB := eB
    lams := (List.range (r.m * r.n)).map lam
    phase := if special then 1 else 2
    accd := r.acc
    cells := (List.range (r.m * r.n)).map fun e =>
      let z : MCell := ⟨0, false, false, false, false⟩
      if r.acc then classC0 (val e) (addW z (lam e) (valParts (val e)).1 (valParts (val e)).2) else z }

/-- One K-block of the current pass over every cell (R298, R301). -/
def MRun.block (u : MRun) (d : MData) : MRun :=
  let b := u.kpos / d.kb
  let last := d.blocks ≤ b + 1
  let on (g : Nat → Nat → Nat → MCell → MCell) : List MCell :=
    u.cells.mapIdx fun e c => g e (e / u.r.n) (e % u.r.n) c
  if u.phase = 1 then
    let u := { u with cells := on fun _ i j c => d.classBlock i j b c }
    if last then { u with phase := 2, cls := true, kpos := 0 } else { u with kpos := u.kpos + d.kb }
  else
    let pq := d.pairs.getD u.pidx (1, 1)
    let u := { u with cells := on fun e i j c => d.addBlock (u.eA.getD i 0) (u.eB.getD j 0) (u.lam e) i j pq b c }
    if last then
      (if d.pairs.length ≤ u.pidx + 1 then { u with phase := 3, kpos := 0 } else { u with pidx := u.pidx + 1, kpos := 0 })
    else { u with kpos := u.kpos + d.kb }

/-- Up to `n` combine points, the K steps that they took, and what is left of `n`. -/
def MRun.blocks (u : MRun) (d : MData) : Nat → MRun × Nat × Nat
  | 0 => (u, 0, 0)
  | n + 1 =>
    if u.phase = 3 then (u, 0, n + 1)
    else
      let r := (u.block d).blocks d n
      (r.1, r.2.1 + d.blockLen (u.kpos / d.kb), r.2.2)

/-- Up to `n` elements of C are written in order; the failing status, if any. -/
def State.writeC (s : State) (u : MRun) : Nat → State × MRun × Option (Byte × Word)
  | 0 => (s, u, none)
  | n + 1 =>
    if u.r.m * u.r.n ≤ u.done then (s, u, none)
    else
      let c := u.cells.getD u.done ⟨0, false, false, false, false⟩
      let a := u.r.cAddr u.done
      match s.engineWrite u.r.core a u.r.cSize (cellResult u.r.fmt (u.lam u.done) c) with
      | (.error e, s) => (s, u, some (lateStatus e, a))
      | (.ok _, s) => s.writeC { u with done := u.done + 1 } n

/-- The scan reads C0; each pass after it reads A and its scales anew, and neither reads C (R292, R297, R307). -/
def State.taskScan (s : State) (u : MRun) (d : MData) : Except (Byte × Word) MRun × State :=
  if u.phase ≠ 0 then (.ok u, s)
  else match s.readC0 u.r with
    | (.error e, s) => (.error e, s)
    | (.ok c0, s) => (.ok (u.scan d c0), s)

/-- What a task's work over `n` combine points and element writes comes to, once it has its image. The write phase reads neither A nor C. -/
def State.taskPasses (s : State) (h n : Nat) (u : MRun) : State × MRun × Option (Byte × Word) :=
  if u.phase = 3 then s.writeC u n
  else match s.taskData (s.half h) u.r with
  | (.error (e, a), s) => (s, u, some (lateStatus e, a))
  | (.ok d, s) =>
    match s.taskScan u d with
    | (.error (e, a), s) => (s, u, some (lateStatus e, a))
    | (.ok u, s) =>
      let r := u.blocks d n
      let s := s.modHalf h fun x => x.bump 1 r.2.1
      if r.1.phase = 3 then s.writeC r.1 r.2.2 else (s, r.1, none)

/-- A task's work over `n` pieces of its image, combine points and element writes. -/
def State.taskRun (s : State) (h n : Nat) (u : MRun) : State × MRun × Option (Byte × Word) :=
  let missing := u.r.imagePieces.length - u.loaded
  match s.loadPieces h u (min n missing) with
  | (s, u, some (e, a)) => (s, u, some (lateStatus e, a))
  | (s, u, none) =>
    let s := if missing ≠ 0 && u.ready then s.modHalf h fun x => x.bump 4 1 else s
    if u.ready && (missing = 0 || decide (missing < n)) then s.taskPasses h (n - missing) u else (s, u, none)

/-- Pieces, combine points and elements that a task has at most. -/
def taskWork (u : MRun) : Nat := u.r.imagePieces.length + 66 * (u.r.k + 1) + u.r.m * u.r.n + 1

/-! ### Start (R284, R293, R304) -/

/-- A task takes the resident image, or begins to load its own. Whether an image from another module may serve again nothing here decides
(log 17). -/
def State.takeImage (s : State) (h : Nat) (u : MRun) : State :=
  let key := s.imageKey u.r
  let x := if s.imageAway u.r then (s.freeWord.1.getLsbD 0, s.freeWord.2) else (true, s)
  let s := x.2
  if x.1 && (s.half h).image.any fun b => b.keep && key.2 && b.key == key.1 then
    s.modHalf h fun x => { x.bump 5 1 with run := some { u with loaded := u.r.imagePieces.length } }
  else s.modHalf h fun x => { x with run := some u, image := some (s.emptyImage u.r) }

/-- A pre-empted task goes on from its save area with its image loaded anew; a save area that cannot be read fails it (R285, R304). -/
def State.resumeTask (s : State) (h : Nat) (u : MRun) : State :=
  if s.saveAway u.r then s.takeImage h { u with r := { u.r with saved := false, resumes := u.r.resumes + 1 }, loaded := 0 }
  else match s.saveFails u.r with
    | some (e, a) => s.taskEnds h u (lateStatus e) a
    | none => s.takeImage h (s.readSave u)

/-- A number of pieces, combine points or elements of a running task, which goes on with what stands in its half (R304, R307). -/
def State.taskSome (s : State) (h n : Nat) (u : MRun) : State :=
  match s.taskRun h n u with
  | (s, u, none) => s.modHalf h fun x => { x with run := some u }
  | (s, u, some (e, a)) => s.taskEnds h u e a

/-- The half starts its oldest ready task, or resumes one that a switch stopped; a running one goes on by an amount that nothing
constrains, so that what happens to its operands in between is read old or new. -/
def execMatrixTaskStart (half : Nat) (s : State) : Host.Outcome State Fault Refusal :=
  match (s.half half).run, s.nextTask half with
  | some u, _ =>
    if u.r.saved then .next ((s.rampUp half).resumeTask half u)
    else .next (s.freeWord.2.taskSome half (s.freeWord.1.toNat % taskWork u) u)
  | none, some r =>
    .next (((s.modHalf half fun x => { x with queue := x.queue.filter fun q => !(q.core == r.core && q.tk.seq == r.tk.seq) }).rampUp half).takeImage
      half (MRun.fresh r))
  | none, none => .next s

/-- The running task completes or fails (R292). -/
def execMatrixTaskComplete (half : Nat) (s : State) : Host.Outcome State Fault Refusal :=
  match (s.half half).run with
  | none => .next s
  | some u =>
    if u.r.saved then .next s
    else match s.taskRun half (taskWork u) u with
      | (s, u, none) => .next (s.taskEnds half u 0 0)
      | (s, u, some (e, a)) => .next (s.taskEnds half u e a)

/-- The running task stops after `points` more pieces, combine points or element writes, and its state goes to the save area; it stays the
half's running task (R304). -/
def State.preemptHalf (s : State) (h points : Nat) : State :=
  match (s.half h).run with
  | none => s
  | some u =>
    let keep (s : State) (u : MRun) : State :=
      (s.writeSave u).modHalf h fun x => { x.bump 6 1 with run := some { u with r := { u.r with saved := true } }, image := none }
    if u.r.saved then s
    else if points = 0 then keep s u
    else
      match s.taskRun h points u with
      | (s, u, none) => keep s u
      | (s, u, some (e, a)) => s.taskEnds h u e a

def execMatrixPreempt (half points : Nat) (s : State) : Host.Outcome State Fault Refusal := .next (s.preemptHalf half points)

/-- An uncorrectable error fails the running task and drops the image (R285). -/
def execHalfUncorrectableError (half : Nat) (s : State) : Host.Outcome State Fault Refusal :=
  match (s.half half).run with
  | none => .next s
  | some u => .next (s.taskEnds half u 0x05 0)

/-! ### MQRY (R308) -/

/-- The queued or running record of a core's sequence number. -/
def State.findTask (s : State) (p : Nat) (seq : BitVec 16) : Option (MRec × Option MRun) :=
  s.halves.findSome? fun e =>
    match e.2.run with
    | some u =>
      if u.r.core = p && u.r.tk.seq == seq then some (u.r, some u)
      else (e.2.queue.find? fun r => r.core == p && r.tk.seq == seq).map fun r => (r, none)
    | none => (e.2.queue.find? fun r => r.core == p && r.tk.seq == seq).map fun r => (r, none)

def mqryWord (pidx done : Nat) (seq : BitVec 16) (phase : Nat) (res : Bool) (st : BitVec 3) (status : Byte) : Word :=
  BitVec.ofNat 8 pidx ++ 0#8 ++ BitVec.ofNat 16 done ++ seq ++ BitVec.ofNat 2 phase ++ 0#2 ++ bit 1 res ++ st ++ status

def State.taskWord (s : State) (p : Nat) (seq : BitVec 16) : Word :=
  match s.findTask p seq with
  | some (r, none) => mqryWord 0 0 seq 0 (decide (0 < r.resumes)) 1 0
  | some (_, some u) =>
    mqryWord u.pidx u.done seq u.phase (decide (0 < u.r.resumes)) 2 (if u.r.resumes = 0 then 0 else 0x0A)
  | none =>
    match (s.core p).ring.reverse.find? fun e => e.seq == seq with
    | some e => mqryWord 0 e.done.toNat seq 0 e.res e.st.code e.status
    | none => mqryWord 0 0 seq 0 false 0 0

/-- MQRY. -/
def execMqry (f : FmtE) (s : State) : Host.Outcome State Fault Refusal :=
  issueE (entEngine 0xD1 usedDa) (fun t f s => .ok (s.bySeq t f.a f.d (s.taskWord t.core))) f s

def State.halfWord (s : State) (h : Nat) : Word :=
  let x := s.half h
  0#14 ++ bit 1 (x.image.isSome && x.run.all (·.ready)) ++ bit 1 x.run.isSome ++ (match x.run with | some u => u.r.id | none => 0) ++ 0#7 ++
    BitVec.ofNat 7 (64 - x.queue.length) ++ BitVec.ofNat 8 (halfCluster h) ++ BitVec.ofNat 10 h

/-- MQRY.half. -/
def execMqryHalf (f : FmtE) (s : State) : Host.Outcome State Fault Refusal :=
  issueE (entEngine 0xD1 usedDa) (fun t f s =>
    .ok (s.setReg t f.d (match s.halfNo (s.core t.core).tag (s.reg t f.a) with | some h => s.halfWord h | none => 0))) f s
/-- MQRY.ctr. -/
def execMqryCtr (f : FmtE) (s : State) : Host.Outcome State Fault Refusal :=
  issueE (entEngine 0xD1 usedDa) (fun t f s =>
    .ok (s.setReg t f.d (match s.halfNo (s.core t.core).tag (s.reg t f.a) with
      | some h => (s.half h).count (f.imm.extractLsb' 0 4).toNat
      | none => 0))) f s

/-- The logical number of the n-th half of a cluster that a partition holds. -/
def State.nearHalf (s : State) (tag : BitVec 6) (cluster n : Nat) : Option Nat :=
  let table := (s.part tag.toNat).halves
  let mine := (List.range 4).filterMap fun i => (table.find? fun e => e.2 == 4 * cluster + i).map (·.1)
  mine[n]?

/-- MQRY.near. -/
def execMqryNear (f : FmtE) (s : State) : Host.Outcome State Fault Refusal :=
  issueE (entEngine 0xD1 usedD) (fun t f s =>
    .ok (s.setReg t f.d (match s.nearHalf (s.core t.core).tag (clusterOf t.core) (f.imm.extractLsb' 0 2).toNat with
      | some l => BitVec.ofNat 64 l
      | none => BitVec.allOnes 64))) f s

/-! ### MCBL (R309) -/

def mcblBody (t : StreamId) (f : FmtE) (s : State) : Run State := do
  let c := s.core t.core
  let (_, bytes) ← s.ownRecord t (s.reg t f.b) 8 2048 false
  let table := wordsOf 256 bytes
  let refuse (st : Byte) : State := (s.dispatch t (packE 0xD2 f) .faulted st).setReg t f.d (st.setWidth 64)
  match s.halfNo c.tag (s.reg t f.a) with
  | none => .ok (refuse 0x04)
  | some h =>
    if 64 ≤ (s.half h).queue.length then .error (.hold s)
    else if table.any fun w => w.extractLsb' 33 31 != 0 then .ok (refuse 0x08)
    else
      let r : MRec := ⟨s.nextOrder, t.core, s.ticket t 0, c.tag, c.ctx, ⟨0, 0, 0, 0, 0, false, 0⟩, [], 0, some table, false, 0⟩
      let s := s.dispatch t (packE 0xD2 f) .issued 0
      .ok ((s.modHalf h fun x => { x with queue := x.queue ++ [r] }).setReg t f.d 0)

/-- MCBL (R309). -/
def execMcbl (f : FmtE) (s : State) : Host.Outcome State Fault Refusal := issueE (entEngine 0xD2 usedDab) mcblBody f s

/-- The table of the oldest record is applied once every older record has completed (R284). -/
def execMcblApply (half : Nat) (s : State) : Host.Outcome State Fault Refusal :=
  let x := s.half half
  match x.run, x.queue with
  | none, r :: rs =>
    match r.table with
    | some table =>
      .next (((s.setHalf half { x with queue := rs, codebook := table }).dispatchEnd r.core r.tk.seq .completed 0).rampDown half)
    | none => .next s
  | _, _ => .next s

/-! ### DSEQ (R310) -/

def DState.code2 : DState → BitVec 2
  | .issued => 0
  | .completed => 1
  | .faulted => 2
  | .cancelled => 3

def ringWord (e : Option DEntry) (n : Nat) : Word :=
  match e with
  | none => 0
  | some e =>
    match n with
    | 0 => 0#16 ++ (if e.st = .issued then 0 else e.status) ++ 1#1 ++ 0#4 ++ BitVec.ofNat 3 e.slot ++ 0#14 ++ e.st.code2 ++ e.seq
    | 1 => e.pc.setWidth 64
    | 2 => e.word.extractLsb' 0 64
    | _ => (e.word.extractLsb' 64 32).setWidth 64

/-- DSEQ. -/
def execDseq (f : FmtE) (s : State) : Host.Outcome State Fault Refusal :=
  issueE (entEngine 0xD3 usedDa) (fun t f s =>
    .ok (s.bySeq t f.a f.d fun seq =>
      ringWord ((s.core t.core).ring.reverse.find? fun e => e.seq == seq) (f.imm.extractLsb' 0 2).toNat)) f s
/-- DSEQ.idx. -/
def execDseqIdx (f : FmtE) (s : State) : Host.Outcome State Fault Refusal :=
  issueE (entEngine 0xD3 usedDa) (fun t f s =>
    .ok (s.setReg t f.d (ringWord ((s.core t.core).ring.reverse[(s.reg t f.a).toNat]?) (f.imm.extractLsb' 0 2).toNat))) f s

end Sys2Proof.Machine
end

