-- ==== Sys2Proof/Machine/Capability.lean ====
section
/-!
DEFINITION. The capability instructions, OP 0x68 to 0x6D, and the home's steps that complete them (R207, R210 to R217).
-/
namespace Sys2Proof.Machine

/-! ### The region that an instruction names -/

/-- The address is virtual, or a vault address of tag 0x01 or 0x03; any other kind raises trap 0x04; then it is translated. It waits
while a die on the way to the home relocks (R394). -/
def State.capPlace (s : State) (t : StreamId) (a : Word) : Run (Place × State) :=
  if !blockForm a || (s.engineSpace t.core a).isNone || ((s.space t.core a).bind (boundsCause · 1)).isSome then trapAt 0x04 a
  else
    let s := s.touchPage t.core a
    match s.devPlace t.core a with
    | some pl => if s.reachable t.core a then .ok (pl, s) else .error (.hold s)
    | none => .error (.hold (s.trapEntry t 0x04 a 0 (some (granuleOf a))))

/-- A firing of a pure stage may not change a capability (R331). -/
def State.notPure (s : State) (t : StreamId) (a : Word) : Run Unit := if (s.pureOf t).isSome then trapAt 0x05 a else .ok ()

/-- The instruction at the home of a region on another module: its answer is the status or the result, and `after` what follows a success
here (R204). -/
def State.capAway (s : State) (t : StreamId) (i : Instr) (f : FmtA) (pl : Place) (after : List Word → State → State)
    (here : State → Run State) : Run State :=
  if pl.module = 0x1FFF then here s
  else do
    let ws ← s.atModule t i pl.module (s.reg t f.a)
    let st := ws.headD 0
    setD (if st = 0 then after ws s else s) t f st

/-- Nothing follows. -/
def noAfter (_ : List Word) (s : State) : State := s

/-- The core's firings are the holder of the region in this state. -/
def Core.inState (c : Core) (r : Region) (st : RState) : Bool := r.st == st && c.holds r

/-! ### Draining (R211, R260, R307) -/

/-- An address of core `p` lies in the region with a grant key. -/
def State.inRegion (s : State) (p key : Nat) (a : Word) : Bool :=
  s.isDev p a && ((s.devPlace p a).any fun pl => grantKey pl == key)

/-- Where a request writes its element or row `k`: the address of every piece. -/
def Req.writes (r : Req) (k : Nat) : List Word :=
  match r.gather with
  | none => [r.elemDst k]
  | some g => (List.range (g.row / ctlEsz r.ctl)).map fun i => plusOff r.dst (k * g.row + i * ctlEsz r.ctl : Nat)

/-- A request still has to write to the region. -/
def State.reqWrites (s : State) (p key : Nat) (r : Req) : Bool :=
  (List.range r.total).any fun k => decide (r.done ≤ k) && (r.writes k).any (s.inRegion p key)

/-- A task of the core has its C or its save area in the region. -/
def State.taskWrites (s : State) (p key : Nat) (r : MRec) : Bool := (r.cTouches ++ r.saveTouches).any fun x => s.inRegion p key x.addr

/-- Every engine write of the core to the region has performed, and the tasks that write there have delivered (R260, R307). -/
def State.enginesDrained (s : State) (p key : Nat) : Bool :=
  !((s.core p).reqs.any (s.reqWrites p key)) &&
    !(s.halves.any fun e =>
      (e.2.queue.any fun r => r.core == p && r.table.isNone && s.taskWrites p key r) ||
        e.2.run.any fun u => u.r.core == p && s.taskWrites p key u.r)

/-- Every store of the core to the region has performed, too. -/
def State.regionDrained (s : State) (p key : Nat) : Bool :=
  !((s.core p).sbuf.any fun e => e.key == key) && s.enginesDrained p key

/-- A tour that a home here has accepted has still to be read in the region (R214, R217). -/
def State.tourReads (s : State) (key : Nat) : Bool :=
  s.cores.any fun e => e.2.tours.any fun u => !u.read && !u.ended && s.inRegion e.1 key u.tile

/-- The core's grant for a region goes (R208). -/
def State.ungrant (s : State) (p key : Nat) : State := s.modCore p fun c => c.ungrant key

/-- An instruction that changes a region of another module leaves when the core's writes to it have performed; its grant has gone at issue
(R208, R211, R213). -/
def State.leaves (s : State) (t : StreamId) (pl : Place) (here : State → Run State) : Run State :=
  let s := s.ungrant t.core (grantKey pl)
  if pl.module ≠ 0x1FFF && (s.answer t).isNone && !s.regionDrained t.core (grantKey pl) then .error (.hold s) else here s

/-! ### CAPQ (R215) -/

def RState.code : RState → BitVec 3
  | .unclaimed => 0
  | .priv => 1
  | .published => 2
  | .handing => 3
  | .shadowed => 4

def Region.word (r : Region) (size : BitVec 2) (vault mine : Bool) : Word :=
  r.version ++ (if r.st = .published then r.readers else 0) ++ 0#7 ++ bit 1 mine ++ size ++ bit 1 r.lace.isSome ++
    bit 1 (decide (r.st = .shadowed) && r.side) ++ bit 1 vault ++ r.st.code

def capqWord (s : State) (p : Nat) (pl : Place) : Word :=
  let r := s.region pl.rkey
  let mine := (r.st = .priv || r.st = .shadowed || r.st = .published) && (s.core p).holds r
  r.word pl.size pl.vault mine

def capqHoldWord (s : State) (_ : Nat) (pl : Place) : Word :=
  let r := s.region pl.rkey
  if r.st = .unclaimed || r.st = .handing then 0 else targetWord 0 (if s.isOwn r.hmod then 0x1FFF else r.hmod) r.hcore

def capqBody (i : FmtA → Instr) (g : State → Nat → Place → Word) (t : StreamId) (f : FmtA) (s : State) : Run State := do
  let (pl, s) ← s.capPlace t (s.reg t f.a)
  s.capAway t (i f) f pl noAfter fun s => setD s t f (g s t.core pl)

/-- CAPQ (R215). -/
def execCapq (f : FmtA) (s : State) : Host.Outcome State Fault Refusal :=
  issueA (entMem 0x6B usedDa none) anyFields (capqBody .capq capqWord) f s
/-- CAPQ.hold (R215). -/
def execCapqHold (f : FmtA) (s : State) : Host.Outcome State Fault Refusal :=
  issueA (entMem 0x6B usedDa none) anyFields (capqBody .capqHold capqHoldWord) f s

/-! ### HAND (R211, R212) -/

/-- The holder that a target word names. -/
def Region.heldBy (r : Region) (s : State) (w : Word) : Region :=
  { r with st := .priv, hmod := if s.isOwn (tgtModule w) then 0x1FFF else tgtModule w, hcore := tgtCore w }

/-- The base of the region in the form of an address. -/
def regionBase (a : Word) (size : BitVec 2) : Word := a &&& ~~~(BitVec.ofNat 64 (pageLen size - 1))

/-- The handover message: base address, the record as the new holder reads it, and s[C]. -/
def State.handoverWith (s : State) (t : StreamId) (f : FmtA) (pl : Place) (record : Word) : State :=
  s.sendTo t.core (s.sender t) (s.reg t f.b) 2 false [regionBase (s.reg t f.a) pl.size, record, s.reg t f.c]
def State.handover (s : State) (t : StreamId) (f : FmtA) (pl : Place) : State :=
  s.handoverWith t f pl ((s.region pl.rkey).word pl.size pl.vault true)

def handBody (t : StreamId) (f : FmtA) (s : State) : Run State := do
  let a := s.reg t f.a
  let w := s.reg t f.b
  s.notPure t a
  let (pl, s) ← s.capPlace t a
  s.checkTarget t w
  let c := s.core t.core
  let r := s.region pl.rkey
  if pl.module = 0x1FFF && !c.inState r .priv then setD s t f 0x04
  else if pl.module = 0x1FFF && s.isOwn (tgtModule w) && tgtCore w == c.lcore then setD (s.handover t f pl) t f 0
  else s.leaves t pl fun s =>
    s.capAway t (.hand f) f pl (fun ws s => s.handoverWith t f pl (ws.getD 1 0)) fun s =>
      .error (.hold ((s.setRegion pl.rkey { r with st := .handing }).await t .hand (.hand f) none))

/-- HAND (R211). One that names its holder changes no state, and the model logs no write for it (R222; log 80, DESIGN CHOICE). -/
def execHand (f : FmtA) (s : State) : Host.Outcome State Fault Refusal := issueA (entMem 0x68 usedDabc none) anyFields handBody f s

/-- The home flips a region once the holder's writes have drained (R211, R222). -/
def execHandFlip (t : StreamId) (s : State) : Host.Outcome State Fault Refusal :=
  match (s.strm t).pend with
  | some ⟨.hand, .hand f, _, _, _⟩ =>
    match s.capPlace t (s.reg t f.a) with
    | .error e => .next (s.finish t (.error e))
    | .ok (pl, s) =>
      if !s.regionDrained t.core pl.rkey then .next s
      else
        let s := s.modRegion pl.rkey fun r => r.heldBy s (s.reg t f.b)
        let s := s.dirty (s.core t.core).tag (s.core t.core).ctx pl.rkey pl.va
        .next (s.finish t (setD (s.handover t f pl) t f 0))
  | _ => .next s

def handInitBody (t : StreamId) (f : FmtA) (s : State) : Run State := do
  s.supervisor t
  let a := s.reg t f.a
  let w := s.reg t f.b
  s.notPure t a
  let (pl, s) ← s.capPlace t a
  s.checkTarget t w
  s.capAway t (.handInit f) f pl noAfter fun s =>
    let c := s.core t.core
    let r := s.region pl.rkey
    if r.st ≠ .unclaimed then setD s t f 0x04
    else
      let r : Region := { Region.reset with size := pl.size, tag := c.tag, ctx := c.ctx }
      setD (s.setRegion pl.rkey (r.heldBy s w)) t f 0

/-- HAND.init (R212). -/
def execHandInit (f : FmtA) (s : State) : Host.Outcome State Fault Refusal :=
  issueA (entMem 0x68 usedDab none) anyFields handInitBody f s

/-! ### PUBL (R213, R267) -/

/-- A well-formed tile grid word for a region. -/
def gridOk (w : Word) (size : BitVec 2) : Bool :=
  let rows := gridRows w
  let cols := gridCols w
  let tsz := gridTsz w
  w.extractLsb' 42 22 == 0 && w.extractLsb' 11 5 == 0 && decide (1 ≤ rows) && decide (1 ≤ cols) && decide (1 ≤ tsz) &&
    decide (rows ≤ 4096) && decide (cols ≤ 4096) && decide (tsz ≤ 1024) && decide (rows * cols ≤ 4096) &&
    decide (rows * cols * tsz * 64 ≤ pageLen size)

def publBody (i : FmtA → Instr) (lace : Bool) (t : StreamId) (f : FmtA) (s : State) : Run State := do
  let a := s.reg t f.a
  let n := s.reg t f.b
  let g := s.reg t f.c
  s.notPure t a
  let (pl, s) ← s.capPlace t a
  let r := s.region pl.rkey
  if pl.module = 0x1FFF && !(s.core t.core).inState r .priv then setD s t f 0x04
  else if pl.module = 0x1FFF && n.extractLsb' 16 48 ≠ 0 then setD s t f 0x08
  else if pl.module = 0x1FFF && lace && !gridOk g pl.size then setD s t f 0x08
  else s.leaves t pl fun s => s.capAway t (i f) f pl (fun _ s => s.ungrant t.core (grantKey pl)) fun s =>
    if !s.regionDrained t.core pl.rkey then .error (.hold s)
    else
      let r := { r with
        st := .published
        readers := n.extractLsb' 0 16
        version := r.version + 1
        lace := if lace then some g else r.lace
        laceRead := if lace then [] else r.laceRead
        laceLaunch := if lace then none else r.laceLaunch }
      setD (s.setRegion pl.rkey r) t f 0

/-- PUBL (R213). -/
def execPubl (f : FmtA) (s : State) : Host.Outcome State Fault Refusal :=
  issueA (entMem 0x69 usedDab none) anyFields (publBody .publ false) f s
/-- PUBL.lace (R213, R267). -/
def execPublLace (f : FmtA) (s : State) : Host.Outcome State Fault Refusal :=
  issueA (entMem 0x69 usedDabc none) anyFields (publBody .publLace true) f s

/-! ### RECL (R214) -/

/-- Every cluster's instruction cache drops the lines of a region, by its grant key (R44). -/
def State.icDropRegion (s : State) (key : Nat) : State :=
  { s with
    icache := s.icache.map fun e =>
      (e.1, e.2.filter fun l =>
        match s.walk l.tag l.ctx l.va false with
        | some x => grantKey (s.leafPlace l.va x) != key
        | none => true) }

def reclBody (nb : Bool) (t : StreamId) (f : FmtA) (s : State) : Run State := do
  let (pl, s) ← s.capPlace t (s.reg t f.a)
  let i : Instr := if nb then .reclNb f else .recl f
  s.capAway t i f pl (fun _ s => s.icDropRegion (grantKey pl)) fun s =>
    let c := s.core t.core
    let r := s.region pl.rkey
    if !c.inState r .published then setD s t f 0x04
    else if r.readers ≠ 0 then (if nb then setD s t f 0x04 else .error (.hold (s.await t .recl i none)))
    else
      let r := { r with st := .priv, version := r.version + 1, lace := none, laceRead := [], laceLaunch := none }
      setD ((s.icDropRegion pl.rkey).setRegion pl.rkey r) t f 0

/-- RECL (R214). -/
def execRecl (f : FmtA) (s : State) : Host.Outcome State Fault Refusal :=
  issueA (entMem 0x6A usedDa none) anyFields (reclBody false) f s
/-- RECL.nb (R214). -/
def execReclNb (f : FmtA) (s : State) : Host.Outcome State Fault Refusal :=
  issueA (entMem 0x6A usedDa none) anyFields (reclBody true) f s

/-- The readers of a waiting RECL have all dropped (R214). -/
def execReclReadersDone (t : StreamId) (s : State) : Host.Outcome State Fault Refusal :=
  match (s.strm t).pend with
  | some ⟨.recl, .recl f, _, _, _⟩ => .next (s.finish t (reclBody false t f s))
  | _ => .next s

def reclDropBody (t : StreamId) (f : FmtA) (s : State) : Run State := do
  let (pl, s) ← s.capPlace t (s.reg t f.a)
  s.capAway t (.reclDrop f) f pl noAfter fun s =>
    let r := s.region pl.rkey
    if r.st ≠ .published || r.readers = 0 then setD s t f 0x04
    else setD (s.setRegion pl.rkey { r with readers := r.readers - 1 }) t f 0

/-- RECL.drop (R214). -/
def execReclDrop (f : FmtA) (s : State) : Host.Outcome State Fault Refusal :=
  issueA (entMem 0x6A usedDa none) anyFields reclDropBody f s

/-! ### Shadows (R216, R217) -/

/-- The homes of other modules are asked one after the other, and each answers 0 or 0x04. -/
def State.askHomes (s : State) (t : StreamId) (i : Instr) (homes : List (BitVec 13 × Word)) : Run (List Byte) :=
  let st := s.strm t
  let asked := match s.answer t with
    | none => st.asked
    | some (.data ws) => st.asked ++ [(ws.headD 0).extractLsb' 0 8]
    | some _ => st.asked ++ [0x04]
  match homes[asked.length]? with
  | none => .ok asked
  | some q =>
    let s := (s.await t .remote i (some (s.time + s.limit)) (some q.2)).modStrm t fun st => { st with asked := asked }
    .error (.hold { s with weltOut := s.weltOut ++ [.request q.1 (s.core t.core).gpid q.2 i] })

/-- SHAD of two regions with different homes, of which one at least is another module's: 0x08 where the core owns the first and holds the
partner, else 0x04 (R216). -/
def shadApart (t : StreamId) (f : FmtA) (pl q : Place) (s : State) : Run State := do
  let c := s.core t.core
  let ask (x : Place) (a : Word) : List (BitVec 13 × Word) := if x.module = 0x1FFF then [] else [(x.module, a)]
  if pl.module = 0x1FFF && !c.inState (s.region pl.rkey) .published || q.module = 0x1FFF && !c.inState (s.region q.rkey) .priv then
    setD s t f 0x04
  else do
    let sts ← s.askHomes t (.shad f) (ask pl (s.reg t f.a) ++ ask q (s.reg t f.b))
    setD s t f (if sts.all (· == 0) then 0x08 else 0x04)

/-- A shadow of two regions of one other module: its home decides, and this module keeps what SWAPM needs of it. -/
def State.noteShadow (s : State) (pl q : Place) : State :=
  { s with awayShadows := NMap.set s.awayShadows (grantKey pl) ⟨grantKey q, pl.pte, q.pte, pl.va, q.va⟩ }

def shadBody (t : StreamId) (f : FmtA) (s : State) : Run State := do
  let a := s.reg t f.a
  s.notPure t a
  let (pl, s) ← s.capPlace t a
  let (q, s) ← s.capPlace t (s.reg t f.b)
  if pl.module ≠ q.module then shadApart t f pl q s
  else
    let c := s.core t.core
    let r := s.region pl.rkey
    let x := s.region q.rkey
    if pl.module = 0x1FFF && (!c.inState r .published || !c.inState x .priv) then setD s t f 0x04
    else if pl.module = 0x1FFF && (pl.size ≠ q.size || pl.home ≠ q.home) then setD s t f 0x08
    else
      let s := s.ungrant t.core (grantKey pl)
      if (s.answer t).isNone && !(s.enginesDrained t.core (grantKey pl) && s.enginesDrained t.core (grantKey q)) then .error (.hold s)
      else s.capAway t (.shad f) f pl (fun _ s => s.noteShadow pl q) fun s =>
        let r := { r with st := .shadowed, side := false, partner := q.rkey, pte := pl.pte, va := pl.va }
        let x := { x with st := .shadowed, side := true, partner := pl.rkey, pte := q.pte, va := q.va }
        setD ((s.setRegion pl.rkey r).setRegion q.rkey x) t f 0

/-- SHAD (R216). -/
def execShad (f : FmtA) (s : State) : Host.Outcome State Fault Refusal := issueA (entMem 0x6C usedDab none) anyFields shadBody f s

/-- The FRAME fields of two page-table entries are exchanged. -/
def State.swapFrames (s : State) (a b : Nat) : State :=
  let x := BitVec.ofNat 64 (s.mem.readNat (lpddrKey a) 8)
  let y := BitVec.ofNat 64 (s.mem.readNat (lpddrKey b) 8)
  let put (w v : Word) : Word := (w &&& 0xFFFFFFFFFF000000) ||| (v &&& 0xFFFFFF)
  (s.store (lpddrKey a) 8 (put x y).toNat).store (lpddrKey b) 8 (put y x).toNat

/-- This module's mappings of a shadow of another module are exchanged; its stations and caches drop both pages (R217, R237). -/
def State.swapAway (s : State) (t : StreamId) (key : Nat) (x : AwayShadow) : State :=
  let c := s.core t.core
  let s := (s.icDropRegion key).icDropRegion x.partner
  let s := match x.pte, x.partnerPte with
    | some a, some b => s.swapFrames a b
    | _, _ => s
  let s := (s.dropTranslations c.tag c.ctx x.va).dropTranslations c.tag c.ctx x.partnerVa
  let s := if (s.core t.core).grants.contains x.partner then s.modCore t.core fun c => (c.ungrant x.partner).grant key else s
  { s with awayShadows := NMap.erase s.awayShadows key }

def swapmBody (t : StreamId) (f : FmtA) (s : State) : Run State := do
  let a := s.reg t f.a
  s.notPure t a
  let (pl, s) ← s.capPlace t a
  let shadow := NMap.find s.awayShadows (grantKey pl)
  if pl.module ≠ 0x1FFF && (s.answer t).isNone && shadow.any (fun x => !s.regionDrained t.core x.partner) then .error (.hold s)
  else s.capAway t (.swapm f) f pl (fun _ s => match shadow with | some x => s.swapAway t (grantKey pl) x | none => s) fun s =>
    let r := s.region pl.rkey
    if !(s.core t.core).inState r .shadowed || r.side then setD s t f 0x04
    else if (s.reg t f.b).extractLsb' 16 48 ≠ 0 then setD s t f 0x08
    else .error (.hold (s.await t .swapm (.swapm f) none))

/-- SWAPM (R217). -/
def execSwapm (f : FmtA) (s : State) : Host.Outcome State Fault Refusal := issueA (entMem 0x6D usedDab none) anyFields swapmBody f s

/-- The contents of two regions that no page-table entry maps are exchanged. -/
def State.swapBytes (s : State) (a b n : Nat) : State :=
  let x := s.mem.readNat a n
  let y := s.mem.readNat b n
  (s.store a n y).store b n x

/-- The home exchanges the two regions (R217): records stand by frame, so with exchanged mappings they change places. -/
def State.exchange (s : State) (p : Nat) (rkey : Nat) (readers : BitVec 16) : State :=
  let r := s.region rkey
  let x := s.region r.partner
  let c := s.core p
  let new := { r with
    st := .published, readers := readers, version := r.version + 1, laceRead := [], laceLaunch := none, partner := 0, side := false }
  let old := { x with st := .priv, version := x.version + 1, partner := 0, side := false }
  let s := (s.icDropRegion rkey).icDropRegion r.partner
  let s := ((s.dirty c.tag c.ctx rkey r.va).dirty c.tag c.ctx r.partner x.va)
  match r.pte, x.pte with
  | some a, some b =>
    let s := ((s.swapFrames a b).dropTranslations c.tag c.ctx r.va).dropTranslations c.tag c.ctx x.va
    let s := (s.setRegion r.partner { new with dirty := (s.region rkey).dirty }).setRegion rkey
      { old with dirty := (s.region r.partner).dirty }
    if c.grants.contains r.partner then s.modCore p fun c => (c.ungrant r.partner).grant rkey else s
  | _, _ =>
    let s := s.swapBytes rkey r.partner (pageLen r.size)
    (s.setRegion rkey { new with dirty := (s.region rkey).dirty }).setRegion r.partner
      { old with dirty := (s.region r.partner).dirty }

def execSwapmExchange (t : StreamId) (s : State) : Host.Outcome State Fault Refusal :=
  match (s.strm t).pend with
  | some ⟨.swapm, .swapm f, _, _, _⟩ =>
    match s.capPlace t (s.reg t f.a) with
    | .error e => .next (s.finish t (.error e))
    | .ok (pl, s) =>
      let partner := (s.region pl.rkey).partner
      if !s.regionDrained t.core partner || s.tourReads pl.rkey || s.tourReads partner then .next s
      else .next (s.finish t (setD (s.exchange t.core pl.rkey ((s.reg t f.b).extractLsb' 0 16)) t f 0))
  | _ => .next s

def swapmAbortBody (t : StreamId) (f : FmtA) (s : State) : Run State := do
  let a := s.reg t f.a
  s.notPure t a
  let (pl, s) ← s.capPlace t a
  s.capAway t (.swapmAbort f) f pl (fun _ s => { s with awayShadows := NMap.erase s.awayShadows (grantKey pl) }) fun s =>
    let r := s.region pl.rkey
    if !(s.core t.core).inState r .shadowed || r.side then setD s t f 0x04
    else
      let s := s.modRegion r.partner fun x => { x with st := .priv, partner := 0, side := false }
      setD (s.setRegion pl.rkey { r with st := .published, partner := 0 }) t f 0

/-- SWAPM.abort (R217). -/
def execSwapmAbort (f : FmtA) (s : State) : Host.Outcome State Fault Refusal :=
  issueA (entMem 0x6D usedDa none) anyFields swapmAbortBody f s

end Sys2Proof.Machine
end

