-- ==== Sys2Proof/Machine/Answers.lean ====
section
/-!
DEFINITION. The answers that other cores and other modules send to a waiting access, and their absence (R186, R189, R204).
-/
namespace Sys2Proof.Machine

/-- The body of an instruction that waits for another core or module, run again with its answer. -/
def State.runAnswered (s : State) (t : StreamId) (i : Instr) : State :=
  match i with
  | .ld f => s.finish t (ldBody t f s)
  | .ldq f => s.finish t (ldqBody t f s)
  | .st f => s.finish t (stBody .st false t f s)
  | .stRel f => s.finish t (stBody .stRel true t f s)
  | .stq f => s.finish t (stqBody .stq false t f s)
  | .stqRel f => s.finish t (stqBody .stqRel true t f s)
  | .amadd f => s.finish t (atomicBody .amadd amAdd t f s)
  | .ammin f => s.finish t (atomicBody .ammin amMin t f s)
  | .ammax f => s.finish t (atomicBody .ammax amMax t f s)
  | .amswp f => s.finish t (atomicBody .amswp amSwp t f s)
  | .amcas f => s.finish t (atomicBody .amcas amCas t f s)
  | .amdec f => s.finish t (amdecBody t f s)
  | .hand f => s.finish t (handBody t f s)
  | .handInit f => s.finish t (handInitBody t f s)
  | .publ f => s.finish t (publBody .publ false t f s)
  | .publLace f => s.finish t (publBody .publLace true t f s)
  | .recl f => s.finish t (reclBody false t f s)
  | .reclNb f => s.finish t (reclBody true t f s)
  | .reclDrop f => s.finish t (reclDropBody t f s)
  | .capq f => s.finish t (capqBody .capq capqWord t f s)
  | .capqHold f => s.finish t (capqBody .capqHold capqHoldWord t f s)
  | .shad f => s.finish t (shadBody t f s)
  | .swapm f => s.finish t (swapmBody t f s)
  | .swapmAbort f => s.finish t (swapmAbortBody t f s)
  | .copy f => s.finish t (copyBody t f s)
  | .copyb f => s.finish t (copybBody t f s)
  | .copyp f => s.finish t (copypBody t f s)
  | .gath f => s.finish t (gathBody t f s)
  | .lace f => s.finish t (laceBody t f s)
  | .mtask f => s.finish t (mtaskBody t f s)
  | _ => s

/-- A line arrives from another module, whatever its checks say, or is refused there (R44, R45, R201). -/
def State.lineAnswer (s : State) (t : StreamId) (va : Word) (r : RemoteReply) : State :=
  let go (s : State) : State := s.modStrm t fun st => { st with pend := none }
  match r with
  | .data ws => (go s).icPut t.core va (BitVec.ofNat 512 (wordsNat ws))
  | .refused cause => (go s).modStrm t fun st => { st with badLine := some (va, cause) }
  | .own => s

/-- The LDR `l` of core `p` is answered, and its message goes (R189). -/
def State.ldrAnswer (s : State) (p : Nat) (l : LdrReq) (status : Byte) (words : List Word) : State :=
  let c := s.core p
  (s.setCore p { c with ldrs := c.ldrs.filter fun x => x.id != l.id }).ldrSend p l.target l.n status words

/-- The oldest LDR of a stream whose words this module, or another one, owes. -/
def State.oldestLdr (s : State) (t : StreamId) (away : Bool) : Option LdrReq :=
  (s.core t.core).ldrs.find? fun l => l.slot == t.slot && l.acc == t.acc && l.away == away

/-- An older LDR of the slot, of whichever stream, has still to read on this module (R41, R186). -/
def Core.olderLdr (c : Core) (l : LdrReq) : Bool := (c.ldrs.takeWhile fun x => x.id != l.id).any fun x => x.slot == l.slot && !x.away

/-- The read of an LDR is performed on this module, the slot's reads in order (R41, R186, R189). -/
def State.ldrHere (s : State) (t : StreamId) : State :=
  match (s.oldestLdr t false).filter fun l => !(s.core t.core).olderLdr l with
  | none => s
  | some l =>
    match s.ldrWords t.core l.addr l.n l.snap with
    | .ok ws => s.ldrAnswer t.core l 0 ws
    | .error st => s.ldrAnswer t.core l st []

/-- The limit of an access at another module has not run out (R204). -/
def State.inTime (s : State) (dl : Option Word) : Bool := !dl.any fun d => d.ult s.time

/-- Another module answers an LDR with its words, or with the status that refuses them (R189, R225). -/
def State.ldrThere (s : State) (t : StreamId) (r : Except Byte (List Word)) : State :=
  match (s.oldestLdr t true).filter fun l => s.inTime (some l.deadline) with
  | none => s
  | some l =>
    match r with
    | .ok ws => s.ldrAnswer t.core l 0 (wordsOf l.n (snapPatch l.snap (wordsNat ws)))
    | .error st => s.ldrAnswer t.core l st []

/-- A remote access is answered, by what its instruction may be answered with, within the limit (R57, R58, R186, R189, R204). -/
def execRemoteAccessAnswer (t : StreamId) (reply : RemoteReply) (s : State) : Host.Outcome State Fault Refusal :=
  match (s.strm t).pend with
  | some ⟨.remote, .nop f, dl, _, some va⟩ => .next (if s.inTime dl && replyFits (.nop f) reply then s.lineAnswer t va reply else s)
  | some ⟨.remote, i, dl, _, line⟩ =>
    .next (if s.inTime dl && replyFits i reply then
        (s.modStrm t fun st => { st with pend := some ⟨.remote, i, dl, some reply, line⟩ }).runAnswered t i
      else s)
  | _ =>
    match reply with
    | .own => .next (s.ldrHere t)
    | .data ws => .next (s.ldrThere t (.ok ws))
    | .refused st => .next (if causeOk (.ldr ⟨0, 0, 0, 0, 0, 0, 0⟩) st then s.ldrThere t (.error st) else s)

/-- The lowest byte that an entry of the buffer holds, by its virtual address. -/
def SBEntry.lowest (e : SBEntry) : Word :=
  e.va + BitVec.ofNat 64 (e.line - e.rkey + ((List.range 64).find? fun i => e.mask.getLsbD i).getD 0)

/-- A vector store meets a late failure after its bytes have entered the buffer: those that have not performed leave it (log 90), its entry
in the ring is faulted, and the fault, with the address of the lowest lane that was lost, is on its way to its stream (R173, R174). Where
the firing has been stopped meanwhile it is reported (R368). -/
def State.vecStoreFails (s : State) (p : Nat) (e : SBEntry) (seq : BitVec 16) (addr : Word) : State :=
  let c := s.core p
  let pc := ((c.ring.find? fun d => d.seq == seq).map (·.pc)).getD 0
  let s := (s.setCore p { c with sbuf := c.sbuf.filter fun x => !(x.slot == e.slot && x.writtenBy seq) }).dispatchEnd p seq .faulted 0x03
  if s.firingRuns p e.slot e.fseq then
    s.modStrm ⟨p, e.slot, e.acc⟩ fun st => st.alsoLate [⟨0x0C, addr, (0x03#8 ++ seq), .vector, s.time, none⟩]
  else s.report p 1 e.slot seq 0x03 (pc.setWidth 64) addr 0 none

/-- A store that had entered the buffer finds no answer within the limit: it is lost (R174, R204, R368). -/
def State.storeLost (s : State) (p : Nat) : State :=
  let c := s.core p
  match c.sbuf.find? fun e => e.module != 0x1FFF && e.sent.any fun t => decide (s.limit.toNat ≤ (s.time - t).toNat) with
  | none => s
  | some e =>
    match e.vec with
    | some v => s.vecStoreFails p e v.1 v.2
    | none => (s.setCore p { c with sbuf := c.sbuf.filter fun x => x.id != e.id }).lateFault ⟨p, e.slot, e.acc⟩ e.fseq 0 0x03 0 e.lowest none

/-- No answer within the domain access limit: the access fails (R204). That the read of a COPYP's block is refused with trap 0x04 then is the
model's choice (R254, log 103). -/
def execRemoteAccessTimeout (t : StreamId) (s : State) : Host.Outcome State Fault Refusal :=
  match (s.strm t).pend with
  | some ⟨.remote, .nop _, some dl, _, some va⟩ => .next (if dl.ule s.time then s.lineAnswer t va (.refused 0x04) else s)
  | some ⟨.remote, _, some dl, _, ea⟩ => .next (if dl.ule s.time then s.precise t 0x04 ea else s)
  | _ =>
    match s.oldestLdr t true with
    | some l => .next (if l.deadline.ule s.time then s.ldrAnswer t.core l 0x03 [] else s)
    | none => .next (s.storeLost t.core)

end Sys2Proof.Machine
end

