-- ==== Sys2Proof/Machine/Control.lean ====
section
/-!
DEFINITION. NOP, the prefixes and the control-flow instructions but END (R28, R46 to R52, R135 to R137).
-/
namespace Sys2Proof.Machine

/-- NOP (R28). -/
def execNop (f : FmtA) (s : State) : Host.Outcome State Fault Refusal :=
  issueA (entInt 0x00 ⟨false, false, false, false, false⟩) anyFields (fun _ _ s => .ok s) f s

/-- FMT becomes pending; a second one traps (R46 to R48, R50). -/
def execFmt (f : FmtF) (s : State) : Host.Outcome State Fault Refusal :=
  match s.cur with
  | .stream t =>
    .next (if (s.strm t).fmt.isSome then s.precise t 0x01 none
      else (s.modStrm t fun st => { st with fmt := some f, pc := nextPc st.pc, reread := none }).completed t)
  | _ => .next s

/-- REP becomes pending with its count in STATUS; a second one traps (R46 to R48, R51). -/
def execRep (f : FmtR) (s : State) : Host.Outcome State Fault Refusal :=
  match s.cur with
  | .stream t =>
    .next (if (s.strm t).rep.isSome then s.precise t 0x01 none
      else (s.modStrm t fun st => { st with rep := some f, repcnt := f.count, pc := nextPc st.pc, reread := none }).completed t)
  | _ => .next s

/-- A branch by offset that is taken when `c` holds (R37, R135). -/
def branch (c : State → StreamId → FmtB → Bool) (write : State → StreamId → FmtB → State) (t : StreamId) (f : FmtB) (s : State) :
    Run Flow :=
  if c s t f then do
    let target ← offsetTarget (s.strm t).pc f.off
    .ok ⟨some target, fun s => write s t f⟩
  else .ok ⟨none, fun s => write s t f⟩

def noWrite (s : State) (_ : StreamId) (_ : FmtB) : State := s
/-- s63 receives the next slot's program counter (R87, R135). -/
def link (pc : Pc) (s : State) (t : StreamId) (_ : FmtB) : State := s.setReg t 63 ((nextPc pc).setWidth 64)

/-- BR (R38, R135). -/
def execBr (f : FmtB) (s : State) : Host.Outcome State Fault Refusal :=
  issueB (branch (fun s t f => condHolds f.fn (s.reg t f.a) (s.reg t f.b)) noWrite) f s
/-- BRZ (R135). -/
def execBrz (f : FmtB) (s : State) : Host.Outcome State Fault Refusal :=
  issueB (branch (fun s t f => s.reg t f.a == 0) noWrite) f s
/-- BRZ.nz (R135). -/
def execBrzNz (f : FmtB) (s : State) : Host.Outcome State Fault Refusal :=
  issueB (branch (fun s t f => s.reg t f.a != 0) noWrite) f s
/-- JMP (R135). -/
def execJmp (f : FmtB) (s : State) : Host.Outcome State Fault Refusal :=
  issueB (branch (fun _ _ _ => true) noWrite) f s
/-- JAL (R135). -/
def execJal (f : FmtB) (s : State) : Host.Outcome State Fault Refusal :=
  issueB (fun t f s => branch (fun _ _ _ => true) (link (s.strm t).pc) t f s) f s
/-- JR (R135). -/
def execJr (f : FmtB) (s : State) : Host.Outcome State Fault Refusal :=
  issueB (fun t f s => .ok ⟨some (s.reg t f.a), id⟩) f s
/-- JR.l reads s[A] before it writes s63 (R135). -/
def execJrL (f : FmtB) (s : State) : Host.Outcome State Fault Refusal :=
  issueB (fun t f s => .ok ⟨some (s.reg t f.a), fun s' => link (s.strm t).pc s' t f⟩) f s
/-- RET (R135). -/
def execRet (f : FmtB) (s : State) : Host.Outcome State Fault Refusal :=
  issueB (fun t _ s => .ok ⟨some (s.reg t 63), id⟩) f s
/-- LOOP (R135): the count is written unless the branch target fails R40. -/
def execLoop (f : FmtB) (s : State) : Host.Outcome State Fault Refusal :=
  issueB (branch (fun s t f => s.reg t f.a - 1 != 0) (fun s t f => s.setReg t f.a (s.reg t f.a - 1))) f s
/-- TRAP (R137). -/
def execTrap (f : FmtB) (s : State) : Host.Outcome State Fault Refusal :=
  issueB (fun _ f _ => trapAt 0x0E (f.off.setWidth 64)) f s
/-- BRK (R137). -/
def execBrk (f : FmtB) (s : State) : Host.Outcome State Fault Refusal :=
  issueB (fun _ f _ => trapAt 0x0F (f.off.setWidth 64)) f s

/-! ### ALIGN (R136) -/

def hEntryPc (e : HEntry) : Pc := e.hw0.extractLsb' 0 56

/-- The slots of the cores of a cluster, as execute streams. -/
def clusterSlots (cl : Nat) : List StreamId :=
  (List.range 16).flatMap fun i => (List.range 5).map fun k =>
    ⟨posOf (4 * (cl % 12) + i % 4) (4 * (cl / 12) + i / 4), k, false⟩

/-- The peers of a firing: the other occupied slots of its cluster, in its partition, with its handler's ENTRY. -/
def State.peers (s : State) (t : StreamId) : List StreamId :=
  let c := s.core t.core
  let me := s.slot t
  (clusterSlots (clusterOf t.core)).filter fun u =>
    let sl := s.slot u
    !(u.core == t.core && u.slot == t.slot) && sl.st != 0 && (s.core u.core).valid && (s.core u.core).tag == c.tag &&
      hEntryPc sl.entry == hEntryPc me.entry

/-- The ALIGN in which a slot is stalled. -/
def Slot.aligning (sl : Slot) : Option FmtB :=
  match sl.x.pend with
  | some ⟨.align, .align f, _, _, _⟩ => some f
  | _ => none

/-- A peer that lets an ALIGN at `pc` go: stalled there, or suspended by a trap. -/
def State.peerReady (s : State) (pc : Pc) (u : StreamId) : Bool :=
  let sl := s.slot u
  (sl.aligning.isSome && sl.x.pc == pc) || sl.st == 2 || sl.st == 3

/-- The stalled ALIGN of a slot completes with a value in its s[D]. -/
def State.alignDone (s : State) (t : StreamId) (d : BitVec 6) (x : Word) : State :=
  (s.setReg t d x).goTo t (nextPc (s.strm t).pc)

/-- Release every slot of the list that is stalled at `pc`, with the value that its condition gives it. -/
def State.releaseAll (s : State) (pc : Pc) (us : List StreamId) (value : StreamId → Word) : State :=
  us.foldl (fun s u =>
    match (s.slot u).aligning with
    | some f => if (s.slot u).x.pc == pc then s.alignDone u f.d (value u) else s
    | none => s) s

/-- The first condition of ALIGN holds for a firing. -/
def State.peersReady (s : State) (pc : Pc) (t : StreamId) : Bool := (s.peers t).all (s.peerReady pc)

/-- The window of one slot's ALIGN has elapsed: every slot stalled at that ALIGN goes on in the same cycle, with 1 where its own peers
have released it and 0 where the window has. -/
def State.alignElapse (s : State) (t : StreamId) : State :=
  let pc := (s.slot t).x.pc
  s.releaseAll pc (t :: s.peers t) fun u => if s.peersReady pc u then 1 else 0

/-- ALIGN: released by its peers with 1, by its window with 0 (R136). -/
def execAlign (f : FmtB) (s : State) : Host.Outcome State Fault Refusal :=
  match s.cur with
  | .stream t =>
    .next (
      let st := s.strm t
      if controlIllegal t st then s.precise t 0x01 none
      else
        if s.peersReady st.pc t then (s.releaseAll st.pc (s.peers t) fun _ => 1).alignDone t f.d 1
        else
          let window := f.off.extractLsb' 0 16
          match st.pend with
          | some _ => s
          | none =>
            if window = 0 then s.alignDone t f.d 0
            else s.await t .align (.align f) (some (s.time + window.setWidth 64)))
  | _ => .next s

/-- The window of a stalled ALIGN has elapsed (R136). -/
def execAlignWindowElapsed (core slot : Nat) (s : State) : Host.Outcome State Fault Refusal :=
  let t : StreamId := ⟨core, slot, false⟩
  match (s.strm t).pend with
  | some ⟨.align, .align _, some dl, _, _⟩ => .next (if dl.ule s.time then s.alignElapse t else s)
  | _ => .next s

end Sys2Proof.Machine
end

