-- ==== Sys2Proof/Machine/Fence.lean ====
section
/-!
DEFINITION. Fences, OP 0x6E and 0x6F (R229 to R233), and the block counters, OP 0xE8, whose write-back every fence starts (R405, R406).
-/
namespace Sys2Proof.Machine

/-! ### Block counters (R405, R406) -/

def bbcEn (w : Word) : Bool := w.getLsbD 63
def bbcN (w : Word) : Nat := 2 ^ min 24 (w.extractLsb' 58 5).toNat

/-- An entry leaves the cache as a write-back. -/
def Core.bbcSend (c : Core) (e : Nat × Nat) : Core := { c with bbcOut := c.bbcOut ++ [(c.bbcNext, e.1, e.2)], bbcNext := c.bbcNext + 1 }

/-- Every entry leaves the cache. -/
def Core.bbcFlush (c : Core) : Core := { c.bbc.foldl Core.bbcSend c with bbc := [] }

/-- One more passage of block `n`. -/
def Core.bbcCount (c : Core) (n : Nat) : Core :=
  let v := ((c.bbc.find? fun e => e.1 == n).map (·.2)).getD 0 + 1
  let rest := c.bbc.filter fun e => e.1 != n
  if 2 ^ 32 - 1 ≤ v then { c with bbc := rest }.bbcSend (n, v)
  else if 64 ≤ rest.length then
    { (match rest.getLast? with | some e => c.bbcSend e | none => c) with bbc := (n, v) :: rest.dropLast }
  else { c with bbc := (n, v) :: rest }

/-- A write-back of core `p`: a 64-bit add at the home, another module's among them, without the holder check, in a Private region of the
context; refused, it loses its count and is reported (R204, R405, R406). -/
def State.bbcWrite (s : State) (p : Nat) (e : Nat × Nat × Nat) : State :=
  let c := s.core p
  let x := s.ctx c.tag.toNat c.ctx.toNat
  let va : Word := (x.bbcBase &&& 0x00FFFFFFFFFFFFFF) + BitVec.ofNat 64 (8 * e.2.1)
  let s := s.touchPage p va
  match s.walk c.tag c.ctx va false with
  | none => s.report p 1 0 0 0x03 0 va 0 none
  | some l =>
    let r := s.region l.key
    if !s.isOwn l.module then
      let o := s.awayOutcome l.module
      if o.1 = 0 then { o.2 with weltOut := o.2.weltOut ++ [.blockCount l.module c.gpid va e.2.2] }
      else o.2.report p 1 0 0 (if o.1 = 0x03 then 0x03 else 0x04) 0 va 0 none
    else if r.st ≠ .priv || r.tag ≠ c.tag || r.ctx ≠ c.ctx then s.report p 1 0 0 0x04 0 va 0 none
    else
      let k := l.key + va.toNat % pageLen l.size
      s.store k 8 (s.mem.readNat k 8 + e.2.2)

/-- BBC (R406). -/
def execBbc (f : FmtA) (s : State) : Host.Outcome State Fault Refusal :=
  issueA (entInt 0xE8 ⟨false, false, false, false, false⟩) anyFields (fun t f s =>
    let c := s.core t.core
    let base := (s.ctx c.tag.toNat c.ctx.toNat).bbcBase
    let n := (f.imm.extractLsb' 0 24).toNat
    if !bbcEn base || decide (bbcN base ≤ n) then .ok s else .ok (s.setCore t.core (c.bbcCount n))) f s

/-- The oldest write-back of block `n` performs. -/
def execBbcWriteback (core : Nat) (n : BitVec 24) (s : State) : Host.Outcome State Fault Refusal :=
  let c := s.core core
  match c.bbcOut.find? fun e => e.2.1 == n.toNat with
  | none => .next s
  | some e => .next ((s.setCore core { c with bbcOut := c.bbcOut.filter (· != e) }).bbcWrite core e)

/-! ### Trackers (R230 to R232) -/

def fDst (m : BitVec 7) : Bool := m.getLsbD 0
def fRmt (m : BitVec 7) : Bool := m.getLsbD 1
def fCpy (m : BitVec 7) : Bool := m.getLsbD 2
def fMtx (m : BitVec 7) : Bool := m.getLsbD 3
def fLac (m : BitVec 7) : Bool := m.getLsbD 4
def fCtr (m : BitVec 7) : Bool := m.getLsbD 5
def fCore (m : BitVec 7) : Bool := m.getLsbD 6

/-- Matrix tasks of a core that have not completed. -/
def State.tasksOf (s : State) (p : Nat) : List MRec :=
  s.halves.flatMap fun e => ((match e.2.run with | some u => [u.r] | none => []) ++ e.2.queue).filter fun r => r.core == p && r.table.isNone

/-- A tour that has not come to the point of R230 bit 4. -/
def Tour.untold (u : Tour) : Bool := !u.told && !u.ended

/-- The covered work that is outstanding now. -/
def State.cover (s : State) (p k : Nat) (m : BitVec 7) : Tracker :=
  let c := s.core p
  let mine (slot : Nat) : Bool := fCore m || slot == k
  { seq := (c.slot k).fenceNo
    fseq := (c.slot k).fseq
    mask := m
    stores := if fDst m then (c.sbuf.filter fun e => mine e.slot).map (·.id) else []
    reads := if fRmt m then (c.ldrs.filter fun l => mine l.slot).map (·.id) else []
    copies := if fCpy m then (c.reqs.filter fun r => mine r.tk.slot).map (·.tk.seq) else []
    tasks := if fMtx m then ((s.tasksOf p).filter fun r => mine r.tk.slot).map (·.tk.seq) else []
    laces := if fLac m then (c.tours.filter fun u => mine u.tk.slot && u.untold).map (·.tk.seq) else []
    bbc := if fCtr m then c.bbcOut.map (·.1) else [] }

/-- Every condition of a tracker holds. -/
def State.trackerDone (s : State) (p : Nat) (x : Tracker) : Bool :=
  let c := s.core p
  !(x.stores.any fun i => c.sbuf.any fun e => e.id == i) && !(x.reads.any fun i => c.ldrs.any fun l => l.id == i) &&
    !(x.copies.any fun q => c.reqs.any fun r => r.tk.seq == q) && !(x.tasks.any fun q => (s.tasksOf p).any fun r => r.tk.seq == q) &&
    !(x.laces.any fun q => c.tours.any fun u => u.tk.seq == q && u.untold) && !(x.bbc.any fun i => c.bbcOut.any fun e => e.1 == i)

/-- The trackers of a slot that are in use: one whose conditions hold is free as soon as they do, listed or not (R232). -/
def State.openTrackers (s : State) (p k : Nat) : List Tracker := ((s.core p).slot k).trackers.filter fun x => !s.trackerDone p x

/-- The token (R231). -/
def fenceToken (slot : Nat) (m : BitVec 7) (seq : BitVec 16) : Word := 0x2#4 ++ 0#34 ++ BitVec.ofNat 3 slot ++ m ++ seq

/-- FENCE: it starts the write-back of the block counters and takes a tracker, which work that is done already leaves free (R230 to
R232); the free ones leave the list. -/
def execFence (f : FmtA) (s : State) : Host.Outcome State Fault Refusal :=
  issueA (entMem 0x6E usedD none) anyFields (fun t f s =>
    let m := f.imm.extractLsb' 0 7
    if 8 ≤ (s.openTrackers t.core t.slot).length then .error (.hold s)
    else
      let s := s.modCore t.core Core.bbcFlush
      let x := s.cover t.core t.slot m
      let s := s.modSlot t fun sl => { sl with fenceNo := sl.fenceNo + 1 }
      let inUse := s.openTrackers t.core t.slot
      let s := s.modSlot t fun sl => { sl with trackers := if s.trackerDone t.core x then inUse else inUse ++ [x] }
      setD s t f (fenceToken t.slot m x.seq)) f s

/-- A token names a complete fence when no tracker in use of its slot holds its number (R232). -/
def State.fenceDone (s : State) (p : Nat) (w : Word) : Bool :=
  !((s.openTrackers p (w.extractLsb' 23 3).toNat).any fun x => x.seq == w.extractLsb' 0 16)
def tokenOk (w : Word) : Bool := w.extractLsb' 60 4 == 2 && w.extractLsb' 26 34 == 0

/-- FTEST (R233). -/
def execFtest (f : FmtA) (s : State) : Host.Outcome State Fault Refusal :=
  issueA (entMem 0x6F usedDa none) anyFields (fun t f s =>
    let w := s.reg t f.a
    setD s t f (if !tokenOk w then 0x08 else if s.fenceDone t.core w then 1 else 0)) f s
/-- FTEST.all (R233). -/
def execFtestAll (f : FmtA) (s : State) : Host.Outcome State Fault Refusal :=
  issueA (entMem 0x6F usedD none) anyFields (fun t f s => setD s t f (if (s.openTrackers t.core t.slot).isEmpty then 1 else 0)) f s

/-- A tracker whose conditions hold leaves the list of its slot; it was free from the moment they held (R232). -/
def execFenceTrackerComplete (core slot : Nat) (seq : BitVec 16) (s : State) : Host.Outcome State Fault Refusal :=
  let t : StreamId := ⟨core, slot, false⟩
  match (s.slot t).trackers.find? fun x => x.seq == seq with
  | none => .next s
  | some x =>
    .next (if s.trackerDone core x then s.modSlot t fun sl => { sl with trackers := sl.trackers.filter (· != x) } else s)

end Sys2Proof.Machine
end

