-- ==== Sys2Proof/Machine/Fetch.lean ====
section
/-!
DEFINITION. What a stream does before it executes an instruction: late faults first (R368), the line (R44, R45), the checks of R35 and R40,
passing over the other stream's slots (R41), decoding, and the interlocks (R41 items 4 and 5, R88, R166).
-/
namespace Sys2Proof.Machine

/-- Slots in which a stream can move (R353, R366, R372). -/
def State.slotMoves (s : State) (t : StreamId) : Bool :=
  let c := s.core t.core
  let st := (c.slot t.slot).st
  !c.lost && (st == 1 || st == 3 || st == 4) && !(s.part c.tag.toNat).starting && !s.halts c.tag.toNat

/-- A fetch fault at the slot about to execute (R44, R370). -/
def State.fetchTrap (s : State) (t : StreamId) (cause : Byte) (va : Word) (walk : Bool) : State :=
  if walk then s.trapEntry t cause va 0 (some (granuleOf va)) else s.precise t cause (some va)

/-- The line that holds a stream's next slot is brought into the cluster's cache, once no die on the way relocks (R44, R45, R394). -/
def State.fetchFor (s : State) (t : StreamId) : State :=
  let va := pcLine (s.strm t).pc
  if (s.icLine t.core va).isSome || !s.reachable t.core va then s
  else
    match s.getLine t va with
    | .line _ s' => s'.touchPage t.core va
    | .fault cause walk => (s.modStrm t fun st => { st with badLine := none }).fetchTrap t cause va walk
    | .away => s.awaitLine t va

/-- A failed check of the line in the cache: refetch, or trap 0x03 (R35, R45). A line of another module is dropped and asked for once
more; the stream remembers it until it fails again or the stream has left it. -/
def State.checkFailed (s : State) (t : StreamId) (va : Word) (l : Line) : State :=
  if !s.reachable t.core va then s
  else match s.reread t va l with
  | .same => s.precise t 0x03 (some va)
  | .away =>
    if (s.strm t).reread = some va then (s.modStrm t fun st => { st with reread := none }).precise t 0x03 (some va) else s.askAgain t va
  | .fresh l' => s.icPut t.core va l'
  | .trap cause walk => s.fetchTrap t cause va walk

def isControl (op : Byte) : Bool := (0x10#8).ule op && op.ule 0x1A

/-! ### Interlocks (R41, R88) -/

/-- What the unexecuted slots of stream `acc` use from `pc` on, up to the slot `stop`, along the outcomes `res`; `none` where a line is
not in the cache or the path is not finished, and the later instruction then waits. -/
noncomputable def State.usesAhead (s : State) (core : Nat) (acc : Bool) :
    Nat → Pc → Pc → List Pc → Option FmtR → Uses → Option Uses
  | 0, _, _, _, _, _ => none
  | n + 1, pc, stop, res, rep, u =>
    if pc = stop && res.isEmpty then some u
    else
      match s.icLine core (pcLine pc) with
      | none => none
      | some l =>
        let w := slotWord l (pcSlot pc)
        if slotStream l (pcSlot pc) != acc then
          if isControl (opOf w) && acc then
            match res with
            | [] => some u
            | p :: ps => s.usesAhead core acc n p stop ps none u
          else s.usesAhead core acc n (nextPc pc) stop res rep u
        else
          match decode w with
          | some (.rep r) => s.usesAhead core acc n (nextPc pc) stop res (some r) u
          | some (.fmt _) => s.usesAhead core acc n (nextPc pc) stop res rep u
          | some i => s.usesAhead core acc n (nextPc pc) stop res none (u.union ((form i).usesRep rep))
          | none => s.usesAhead core acc n (nextPc pc) stop res none u

/-- Slots that the search for earlier unexecuted instructions may pass before the later one simply waits. -/
def searchLimit : Nat := 4096

/-- The instruction must wait for an earlier one of the other stream (R41). -/
noncomputable def State.interlocked (s : State) (t : StreamId) (u : Uses) : Bool :=
  let sl := s.slot t
  if t.acc then
    sl.executeBehind &&
      match s.usesAhead t.core false searchLimit sl.x.pc sl.a.pc [] sl.x.rep Uses.none with
      | some e => u.waitsFor e
      | none => true
  else
    sl.accessBehind &&
      match s.usesAhead t.core true searchLimit sl.a.pc sl.x.pc sl.resolved sl.a.rep Uses.none with
      | some e => u.waitsFor e
      | none => true

/-! ### One attempt of a stream -/

/-- What a stream's move comes to: a new state, or an instruction to execute. -/
inductive Prep where
  | done (s : State)
  | run (i : Instr) (s : State)

/-- The access stream at a control-flow slot: it follows the outcome, or waits for it (R41 item 2). -/
def State.follow (s : State) (t : StreamId) : State :=
  s.modSlot t fun sl =>
    match sl.resolved with
    | [] => sl
    | p :: ps => { sl with a := { sl.a with pc := p, entering := false, reread := none }, resolved := ps }

/-- A slot of the other stream (R41, R46). -/
def State.passOver (s : State) (t : StreamId) (w : IWord) : State :=
  let st := s.strm t
  if st.fmt.isSome || st.rep.isSome then s.precise t 0x01 none
  else if t.acc && isControl (opOf w) then s.follow t
  else s.modStrm t fun st => { st with pc := nextPc st.pc, entering := false, reread := none }

/-- A program counter that names no slot: bits 5:3 set, or slot 5 to 7 (R36, R40). Only a trap vector or a frame that software has edited
can hold one, for transfers and handler entries are checked before (log 81). -/
def pcBad (pc : Pc) : Bool := pc.extractLsb' 3 3 != 0 || decide (4 < pcSlot pc)

/-- An instruction that must wait besides for the other stream: for a register of the scoreboard or of a cancelled vector instruction; an
access of memory or a vector instruction for an older vector store in the store buffer; and a scalar access for an older vector instruction
whose fault is on its way (R88, R166, R173, R174). -/
def State.blocked (s : State) (t : StreamId) (u : Uses) : Bool :=
  let sl := s.slot t
  ((u.sr ||| u.sw) &&& (sl.board ||| sl.lost)) != 0 ||
    ((u.touches || u.vec) && (s.core t.core).sbuf.any fun e => e.vec.isSome && e.slot == t.slot) || (u.touches && !u.vec && sl.vecFaulted)

/-- The slot at the program counter of a stream, whose line `l` is in the cache. -/
noncomputable def State.prepareSlot (s : State) (t : StreamId) (l : Line) : Prep :=
  let st := s.strm t
  let va := pcLine st.pc
  let k := pcSlot st.pc
  let w := slotWord l k
  let badTarget := st.entering && !slotTgt l k
  let target : Word := st.pc.setWidth 64
  if !lineWordOk l then .done (s.checkFailed t va l)
  else if slotStream l k != t.acc then
    (if badTarget then .done (s.precise t 0x02 (some target)) else .done (s.passOver t w))
  else if !slotOk l k then .done (s.checkFailed t va l)
  else
    match decode w with
    | none => .done (s.precise t 0x01 none)
    | some i =>
      if badTarget then .done (s.precise t 0x02 (some target))
      else
        let u := (form i).usesRep st.rep
        if s.blocked t u || s.interlocked t u then .done s
        else .run i (s.modStrm t fun st => { st with entering := false })

/-- The first late fault of a stream that has arrived. -/
def Strm.dueLate (st : Strm) : Option Late := st.late.find? fun l => l.kind == .due

/-- What a slot's streams enter before they do anything else, and whose it is: a precise trap that waited for the other stream (R42), or a
fault that a switch saved (R176, R368). -/
def Slot.firstLate (sl : Slot) : Option (Bool × Late) :=
  let of (acc : Bool) (k : LateKind) : Option (Bool × Late) := ((sl.strm acc).late.find? fun l => l.kind == k).map fun l => (acc, l)
  (((of false .parked).or (of true .parked)).or (of false .saved)).or (of true .saved)

/-- The fault that a slot's streams enter first, for whichever of them it is. -/
def State.enterFirst (s : State) (t : StreamId) (l : Bool × Late) : State := s.enterLate { t with acc := l.1 } l.2

/-- A stream moves. -/
noncomputable def State.prepare (s : State) (t : StreamId) : Prep :=
  let st := s.strm t
  if !s.slotMoves t then .done s
  else
    match (s.slot t).firstLate with
    | some l => .done (s.enterFirst t l)
    | none =>
      match (if st.unfinished then none else st.dueLate) with
      | some l => .done (s.enterLate t l)
      | none =>
        match st.pend with
        | some ⟨.align, i, _, _, _⟩ => .run i s
        | some _ => .done s
        | none =>
          if pcBad st.pc then .done (s.precise t 0x02 (some (st.pc.setWidth 64)))
          else match s.icLine t.core (pcLine st.pc) with
            | none => .done (s.fetchFor t)
            | some l => s.prepareSlot t l

/-- A fetch line is read through the cluster port (R44, R45). -/
def execInstructionFetch (t : StreamId) (s : State) : Host.Outcome State Fault Refusal :=
  .next (if s.slotMoves t && (s.strm t).pend.isNone && !pcBad (s.strm t).pc then s.fetchFor t else s)

/-- A late failure traps at the stream's next instruction boundary (R368), after what the slot enters first. -/
def State.takeLate (s : State) (t : StreamId) (l : Option Late) : State :=
  match (s.slot t).firstLate, l with
  | some f, _ => if s.slotMoves t then s.enterFirst t f else s
  | none, some l => if s.slotMoves t && !(s.strm t).unfinished then s.enterLate t l else s
  | none, none => s

/-- LATE_FAULT_TRAP (R368). -/
def execLateFaultTrap (t : StreamId) (s : State) : Host.Outcome State Fault Refusal := .next (s.takeLate t (s.strm t).dueLate)

/-- VECTOR_LATE_FAULT: the fault of a vector instruction reaches its stream (R174). -/
def execVectorLateFault (t : StreamId) (s : State) : Host.Outcome State Fault Refusal :=
  .next (s.takeLate t ((s.strm t).late.find? fun l => l.kind == .vector))

end Sys2Proof.Machine
end

