-- ==== Sys2Proof/Machine/Message.lean ====
section
/-!
DEFINITION. Messages, channels, handlers, tasks and WAIT, OP 0x70 to 0x7B (R138 to R153), and the channel unit's own steps (R121 to R123,
R130, R131, R147, R370).
-/
namespace Sys2Proof.Machine

def usedAb : Used := ⟨false, true, true, false, false⟩
def usedDac : Used := ⟨true, true, false, true, false⟩
def usedDc : Used := ⟨true, false, false, true, false⟩
def usedA : Used := ⟨false, true, false, false, false⟩

/-! ### SEND and SENDT (R138) -/

/-- `n` registers from s[B] on. -/
def State.regs (s : State) (t : StreamId) (b : BitVec 6) (n : Nat) : List Word :=
  (List.range n).map fun i => s.reg t (b + BitVec.ofNat 6 i)

def sendBody (rh : Bool) (t : StreamId) (f : FmtA) (s : State) : Run State := do
  let w := s.reg t f.a
  s.checkTarget t w
  let words := s.regs t f.b (f.imm.extractLsb' 0 4).toNat ++ if rh then [s.reg t f.c] else []
  .ok (s.sendTo t.core (s.sender t) w 0 rh words)

/-- SEND (R138). -/
def execSend (f : FmtA) (s : State) : Host.Outcome State Fault Refusal :=
  issueA (entMem 0x70 usedAb none) sendCount (sendBody false) f s
/-- SEND.rh (R138). -/
def execSendRh (f : FmtA) (s : State) : Host.Outcome State Fault Refusal :=
  issueA (entMem 0x70 usedAbc none) sendCount (sendBody true) f s

/-- `n` words of the core's own local memory for a message: traps 0x04, 0x07, 0x08, and 0x11 at a granule with an error. -/
def State.ownWords (s : State) (t : StreamId) (ea : Word) (align n : Nat) : Run (List Word) := do
  let (off, _) ← s.ownRecord t ea align (8 * n) false
  .ok (s.localWords t.core off n)

def sendtBody (rh : Bool) (t : StreamId) (f : FmtA) (s : State) : Run State := do
  let w := s.reg t f.c
  s.checkTarget t w
  let ea ← s.baseImm t f
  let words ← s.ownWords t ea 8 f.d.toNat
  .ok (s.sendTo t.core (s.sender t) w 0 rh words)

/-- SENDT (R138). -/
def execSendt (f : FmtA) (s : State) : Host.Outcome State Fault Refusal :=
  issueA (entMem 0x71 usedDac none) (fun f => f.d.ult 32) (sendtBody false) f s
/-- SENDT.rh (R138). -/
def execSendtRh (f : FmtA) (s : State) : Host.Outcome State Fault Refusal :=
  issueA (entMem 0x71 usedDac none) (fun f => f.d.ult 32 && f.d != 0) (sendtBody true) f s

/-! ### Tasks (R148 to R150) -/

/-- A task packet to channel 0 of a logical core of this module. -/
def State.sendTask (s : State) (t : StreamId) (n : Word) (q : Nat) (packet : List Word) : State :=
  let c := s.core t.core
  (s.countSend t.core (s.sender t)).inject ⟨t.core, q, c.tag, c.ctx, 0, taskMessage s.time c.lcore false packet, targetWord 0 0x1FFF (n.extractLsb' 0 12), s.sender t⟩

/-- The firing's next child number. -/
def State.nextChild (s : State) (t : StreamId) : State := s.modSlot t fun sl => { sl with child := sl.child + 1 }

def callatBody (t : StreamId) (f : FmtA) (s : State) : Run State :=
  let c := s.core t.core
  let sl := s.slot t
  match s.lct t.core (s.reg t f.a).toNat with
  | none => trap 0x04
  | some q =>
    let h := if f.c = 0 then targetWord 1 0x1FFF c.lcore else s.reg t f.c
    let path := phash sl.path sl.child
    let packet := taskHeader path 1 (f.imm.extractLsb' 0 6) 0 true :: s.regs t f.b 4 ++ [h, 0, 0]
    let s := (s.sendTask t (s.reg t f.a) q packet).nextChild t
    setD s t f (path.setWidth 64)

/-- CALLAT (R148). -/
def execCallat (f : FmtA) (s : State) : Host.Outcome State Fault Refusal :=
  issueA (entMem 0x72 usedDabc none) (fun f => f.b.ule 60) callatBody f s

/-- A record of this core that the firing writes (R364). -/
def State.mayRecord (s : State) (t : StreamId) (off n : Nat) (ea : Word) : Run Unit :=
  if (s.core t.core).frameHit off n && (s.strm t).pl == 0 then trapAt 0x0D ea else .ok ()

/-- The join handle of SPAWN: the successor word of the sent copy, and the record with NEXT advanced (R149). A record past the end of local
memory reads as zeros, which is trap 0x08 (the model's choice, log 99). -/
def State.spawnJoin (s : State) (t : StreamId) (j : Word) (packet : List Word) : Run (List Word × State) :=
  let off := shOffset j
  let w := s.localWord t.core off
  let here := s.isOwn (shModule j) && s.lct t.core (shLcore j).toNat == some t.core
  if !here || !shRes j then trap 0x04
  else if (s.badIn (localKey t.core off) 8).isSome then trapAt 0x11 (localAddr t.core off)
  else if thNsucc (packet.headD 0) = 0 ∨ recNslot w ≤ recNext w then trap 0x08
  else do
    s.mayRecord t off 8 (localAddr t.core off)
    let k := packet.length - thNsucc (packet.headD 0)
    let word := j.extractLsb' 48 16 ++ BitVec.ofNat 6 (recNext w) ++ j.extractLsb' 0 42
    .ok (setAt packet k word, s.setLocalWord t.core off (recSetNext w (recNext w + 1)))

def spawnBody (at_ : Bool) (t : StreamId) (f : FmtA) (s : State) : Run State := do
  let c := s.core t.core
  let sl := s.slot t
  let hd ← s.ownWords t (s.reg t f.a) 32 1
  let w0 := hd.headD 0
  let img ← s.ownWords t (s.reg t f.a) 32 (packetLen w0)
  if !taskOk w0 then trap 0x01
  else
    let path := phash (if f.fn.getLsbD 1 then thPath w0 else sl.path) sl.child
    let n : Word := if at_ then s.reg t f.b else BitVec.ofNat 64 (path.toNat % max 1 c.nCores)
    match s.lct t.core n.toNat with
    | none => trap 0x04
    | some q => do
      let packet := (path ++ w0.extractLsb' 0 32) :: img.tail
      let (packet, s) ← if f.c = 0 then .ok (packet, s) else s.spawnJoin t (s.reg t f.c) packet
      setD ((s.sendTask t n q packet).nextChild t) t f (path.setWidth 64)

/-- SPAWN, placed by path (R149). -/
def execSpawn (f : FmtA) (s : State) : Host.Outcome State Fault Refusal :=
  issueA (entMem 0x73 usedDac none) anyFields (spawnBody false) f s
/-- SPAWN.at (R149). -/
def execSpawnAt (f : FmtA) (s : State) : Host.Outcome State Fault Refusal :=
  issueA (entMem 0x73 usedDabc none) anyFields (spawnBody true) f s

def joinBody (t : StreamId) (f : FmtA) (s : State) : Run State := do
  let ea := s.reg t f.a
  let n := (s.reg t f.b).toNat
  let off ← s.ownLocal t ea
  if off % 64 ≠ 0 then trapAt 0x07 ea
  else if n = 0 ∨ 64 < n ∨ localSize < off + (72 + 32 * n) then trapAt 0x08 ea
  else do
    s.mayRecord t off (72 + 32 * n) ea
    let w0 : Word := 0#16 ++ 0#8 ++ BitVec.ofNat 8 n ++ BitVec.ofNat 32 n
    let words : List Word :=
      [w0, taskHeader (s.slot t).path 1 (f.imm.extractLsb' 0 6) 0 false, localAddr t.core (off + 72), BitVec.ofNat 64 n, s.reg t f.c,
        0, 0, 0, 0]
    -- the slots' first contents are not stated (log 12)
    let s := (s.setLocalWords t.core off words).scribble (localKey t.core (off + 72)) (32 * n)
    setD s t f (successorHandle true 0 off 0x1FFF (s.core t.core).lcore)

/-- JOIN (R150). -/
def execJoin (f : FmtA) (s : State) : Host.Outcome State Fault Refusal := issueA (entMem 0x74 usedDabc none) anyFields joinBody f s

/-! ### Handlers (R142, R143) -/

def hsetBody (t : StreamId) (f : FmtA) (s : State) : Run State :=
  let c := s.core t.core
  let i := (f.imm.extractLsb' 0 6).toNat
  let w0 := s.reg t f.a
  if (s.strm t).pl == 0 && (hSUP (c.handler i).hw0 || hSUP w0) then trap 0x0D
  else if handlerOk w0 (s.reg t f.b) (s.reg t f.c) then
    setD (s.setCore t.core (c.setHandler i ⟨w0, s.reg t f.b, s.reg t f.c, (s.slot t).launch⟩)) t f 0
  else setD s t f 0x08

/-- HSET (R142, R363). -/
def execHset (f : FmtA) (s : State) : Host.Outcome State Fault Refusal := issueA (entMem 0x75 usedDabc none) anyFields hsetBody f s
/-- HSET.rd (R142). -/
def execHsetRd (f : FmtA) (s : State) : Host.Outcome State Fault Refusal :=
  issueA (entMem 0x75 usedD none) anyFields (fun t f s =>
    let e := (s.core t.core).handler (f.imm.extractLsb' 0 6).toNat
    setD s t f (match (f.imm.extractLsb' 6 2).toNat with | 0 => e.hw0 | 1 => e.hw1 | _ => e.hw2)) f s

/-- The MASK bit of an entry, which an invalid entry does not take. -/
def Core.maskHandler (c : Core) (i : Nat) (m : Bool) : Core :=
  let e := c.handler i
  if hVALID e.hw0 then
    c.setHandler i { e with hw0 := if m then e.hw0 ||| (1#64 <<< 60) else e.hw0 &&& ~~~(1#64 <<< 60) }
  else c

def hmaskBody (m : Option Bool) (t : StreamId) (f : FmtA) (s : State) : Run State :=
  let c := s.core t.core
  let i := (f.imm.extractLsb' 0 6).toNat
  let e := c.handler i
  if (s.strm t).pl == 0 && hSUP e.hw0 then trap 0x0D
  else
    let s := match m with | some b => s.setCore t.core (c.maskHandler i b) | none => s
    setD s t f (if hMASK e.hw0 then 1 else 0)

/-- HMASK (R143). -/
def execHmask (f : FmtA) (s : State) : Host.Outcome State Fault Refusal := issueA (entMem 0x76 usedD none) anyFields (hmaskBody (some true)) f s
/-- HMASK.un (R143). -/
def execHmaskUn (f : FmtA) (s : State) : Host.Outcome State Fault Refusal :=
  issueA (entMem 0x76 usedD none) anyFields (hmaskBody (some false)) f s
/-- HMASK.rd (R143). -/
def execHmaskRd (f : FmtA) (s : State) : Host.Outcome State Fault Refusal := issueA (entMem 0x76 usedD none) anyFields (hmaskBody none) f s

/-! ### Channels (R139 to R141) -/

/-- CHCFG (R141). -/
def execChcfg (f : FmtA) (s : State) : Host.Outcome State Fault Refusal :=
  issueA (entMem 0x77 usedDa none) anyFields (fun t f s => do
    s.supervisor t
    let c := s.core t.core
    let ch := (f.imm.extractLsb' 0 6).toNat
    let w := s.reg t f.a
    let st := c.chcfgStatus ch w
    let s := if st = 0 then s.setCore t.core (c.chcfgWrite ch w) else s
    setD s t f (st.setWidth 64)) f s

def chanOf (f : FmtA) : Nat := (f.imm.extractLsb' 0 6).toNat

/-- CHCNT: COUNT (R139, R117). -/
def execChcnt (f : FmtA) (s : State) : Host.Outcome State Fault Refusal :=
  issueA (entMem 0x78 usedD none) anyFields (fun t f s =>
    setD s t f (((s.core t.core).chanCfg (chanOf f)).extractLsb' 48 16 |>.setWidth 64)) f s
/-- CHCNT.free; for channel 63 the free words of the heap (R117, R139). -/
def execChcntFree (f : FmtA) (s : State) : Host.Outcome State Fault Refusal :=
  issueA (entMem 0x78 usedD none) anyFields (fun t f s => 
    let c := s.core t.core
    setD s t f (BitVec.ofNat 64 (if chanOf f = 63 then c.heapRoom else c.freeWords (chanOf f)))) f s
/-- CHCNT.heap (R139). -/
def execChcntHeap (f : FmtA) (s : State) : Host.Outcome State Fault Refusal :=
  issueA (entMem 0x78 usedD none) anyFields (fun t f s =>
    let c := s.core t.core
    setD s t f (BitVec.ofNat 64 (if chanOf f = 63 then c.ch.heap.length else c.heapCount (chanOf f)))) f s

/-! ### CHPOP (R140) -/

/-- The message that a CHPOP pops: its channel, its ring entry, and whether the firing had taken it. -/
def State.popTaken (s : State) (t : StreamId) (k : Nat) : Option (Nat × RingMsg) :=
  match (s.slot t).taken.find? fun m => m.input == k with
  | none => none
  | some m => (((s.core t.core).chRing m.chan.toNat).msgs.find? fun r => r.id == m.id).map fun r => (m.chan.toNat, r)

def State.popUntaken (s : State) (t : StreamId) (ch : Nat) : Option (Nat × RingMsg) :=
  ((s.core t.core).untaken ch).head?.map fun r => (ch, r)

/-- The pop itself: the ring space is free, and a message that no firing had taken is accounted (R134, R140). -/
def State.popMsg (s : State) (t : StreamId) (ch : Nat) (m : RingMsg) (h : Word) : State :=
  let s := s.modCore t.core fun c =>
    let c := c.setRing ch ((c.chRing ch).give m.id)
    if m.taken then c else c.accountTake h m.arrival s.time
  s.modSlot t fun sl => { sl with taken := sl.taken.filter fun x => !(x.id == m.id && x.chan.toNat == ch) }

/-- The input is declared by the entry as it stood at selection. -/
def State.declared (s : State) (t : StreamId) (k : Nat) : Bool := declN (s.slot t).entry.hw1 k != 0

def popK (f : FmtA) : Nat := (f.md.extractLsb' 3 2).toNat

/-- The granule of lowest place in a held message that has an uncorrectable error, among the first `n` words (R181). -/
def State.badRing (s : State) (p ch : Nat) (m : RingMsg) (n : Nat) : Option Word :=
  ((List.range (min n m.len)).find? fun i => (s.badIn (localKey p (ringOff ((s.core p).cfg ch) m.pos i)) 8).isSome).map fun i =>
    localAddr p (ringOff ((s.core p).cfg ch) m.pos i)

/-- The pop reads words of its message: an uncorrectable granule traps 0x11 with nothing popped (R181). -/
def State.ringReads (s : State) (t : StreamId) (ch : Nat) (m : RingMsg) (n : Nat) : Run Unit :=
  match s.badRing t.core ch m n with
  | some a => trapAt 0x11 a
  | none => .ok ()

/-- The store of a popped message to local memory, checked before anything moves. -/
def popStore (pick : Option (Nat × RingMsg)) (t : StreamId) (f : FmtA) (s : State) : Run State := do
  let ea ← s.memOperand t f
  let off ← s.ownLocal t ea
  if off % 8 ≠ 0 then trapAt 0x07 ea
  else match pick with
    | none => setD s t f 0
    | some (ch, m) =>
      let words := s.ringWords t.core ch m
      if localSize < off + 8 * words.length then trapAt 0x08 ea
      else do
        s.mayWrite t t.core off (8 * words.length) ea
        s.ringReads t ch m words.length
        let h := words.headD 0
        setD ((s.popMsg t ch m h).setLocalWords t.core off words) t f h

def popDrop (pick : Option (Nat × RingMsg)) (t : StreamId) (f : FmtA) (s : State) : Run State :=
  match pick with
  | none => setD s t f 0
  | some (ch, m) => do
    s.ringReads t ch m 1
    let h := (s.ringWords t.core ch m).headD 0
    setD (s.popMsg t ch m h) t f h

/-- CHPOP in=k (R140). -/
def execChpop (f : FmtA) (s : State) : Host.Outcome State Fault Refusal :=
  issueA (entMem 0x79 usedDab none) anyFields (fun t f s =>
    if !s.declared t (popK f) then trap 0x01 else popStore (s.popTaken t (popK f)) t f s) f s
/-- CHPOP.ch (R140). -/
def execChpopCh (f : FmtA) (s : State) : Host.Outcome State Fault Refusal :=
  issueA (entMem 0x79 usedDabc none) (fun f => popChan f.c) (fun t f s => popStore (s.popUntaken t f.c.toNat) t f s) f s
/-- CHPOP.drop (R140). -/
def execChpopDrop (f : FmtA) (s : State) : Host.Outcome State Fault Refusal :=
  issueA (entMem 0x79 usedD none) anyFields (fun t f s =>
    if !s.declared t (popK f) then trap 0x01 else popDrop (s.popTaken t (popK f)) t f s) f s
/-- CHPOP.ch.drop (R140). -/
def execChpopChDrop (f : FmtA) (s : State) : Host.Outcome State Fault Refusal :=
  issueA (entMem 0x79 usedDc none) (fun f => popChan f.c) (fun t f s => popDrop (s.popUntaken t f.c.toNat) t f s) f s

/-! ### WAIT (R151, R152) -/

def condKind (w : Word) : Nat := (w.extractLsb' 60 4).toNat
/-- A condition word with a reserved KIND or a bit outside its defined fields. -/
def condBad (w : Word) : Bool :=
  match condKind w with
  | 0 => false
  | 1 => w.extractLsb' 24 36 != 0 || w.extractLsb' 6 2 != 0 || w.extractLsb' 8 16 == 0
  | 2 => w.extractLsb' 26 34 != 0
  | 3 => w.extractLsb' 6 54 != 0
  | 4 => w.extractLsb' 4 56 != 0
  | 5 => false
  | _ => true

def State.condHoldsNow (s : State) (t : StreamId) (w : Word) : Bool :=
  let c := s.core t.core
  match condKind w with
  | 1 =>
    decide ((w.extractLsb' 8 16).toNat ≤ ((c.chanCfg (w.extractLsb' 0 6).toNat).extractLsb' 48 16).toNat)
  | 2 => s.fenceDone t.core w
  | 3 => !(s.slot t).board.getLsbD (w.extractLsb' 0 6).toNat
  | 4 =>
    let st := lsState (c.laceSlot (w.extractLsb' 0 4).toNat).word
    st == 2 || st == 3 || st == 4
  | 5 => (w.extractLsb' 0 60).setWidth 64 |>.ule s.time
  | _ => false

/-- The four condition words with their bits. -/
def State.conds (s : State) (t : StreamId) (f : FmtE) : List (Nat × Word) :=
  [(1, s.reg t f.a), (2, s.reg t f.b), (4, s.reg t f.c), (8, s.reg t f.e)]

def waitBody (t : StreamId) (f : FmtE) (s : State) : Run State :=
  let st := s.strm t
  let cs := s.conds t f
  if cs.any fun c => condBad c.2 then trap 0x01
  else
    let used := (cs.filter fun c => condKind c.2 ≠ 0).map (·.1) |>.sum
    let m := (cs.filter fun c => condKind c.2 ≠ 0 && s.condHoldsNow t c.2).map (·.1) |>.sum
    let deadline : Option Word :=
      if f.imm = 0xFFFFFFFF then none
      else match st.pend with
        | some w => w.deadline
        | none => st.deadline.or (some (s.time + f.imm.setWidth 64))
    if (f.mode = 0 && m ≠ 0) || (f.mode ≠ 0 && m = used && used ≠ 0) then .ok (s.setReg t f.d (BitVec.ofNat 64 m))
    else if used = 0 || deadline.any (fun d => d.ule s.time) then .ok (s.setReg t f.d 0)
    else .error (.hold (s.await t .wait (.wait f) deadline))

/-- WAIT (R152). -/
def execWait (f : FmtE) (s : State) : Host.Outcome State Fault Refusal := issueE ⟨0x7A, usedDabce, false, false, none⟩ waitBody f s

/-- A waiting WAIT looks at its conditions and its deadline again. -/
def State.waitAgain (s : State) (t : StreamId) : State :=
  match (s.strm t).pend with
  | some ⟨.wait, .wait f, _, _, _⟩ => s.finish t (waitBody t f s)
  | _ => s

/-- A condition of a WAIT has come to hold (R152). -/
def execWaitConditionMet (t : StreamId) (s : State) : Host.Outcome State Fault Refusal := .next (s.waitAgain t)
/-- The deadline of a WAIT has passed (R152). -/
def execWaitTimeout (t : StreamId) (s : State) : Host.Outcome State Fault Refusal := .next (s.waitAgain t)

/-! ### DACC (R153) -/

def accountField (a : Account) (i : Nat) : Word :=
  match i with
  | 0 => a.msgs
  | 1 => a.transit
  | 2 => a.queue
  | _ => a.run

/-- DACC (R153). -/
def execDacc (f : FmtA) (s : State) : Host.Outcome State Fault Refusal :=
  issueA (entMem 0x7B usedDa none) anyFields (fun t f s =>
    let e := (s.reg t f.a).toNat
    setD s t f (if 64 < e then 0 else accountField ((s.core t.core).account e) (f.imm.extractLsb' 0 2).toNat)) f s
/-- DACC.clr (R153). -/
def execDaccClr (f : FmtA) (s : State) : Host.Outcome State Fault Refusal :=
  issueA (entMem 0x7B usedDa none) anyFields (fun t f s =>
    let c := s.core t.core
    let e := (s.reg t f.a).toNat
    if 64 < e then .ok s
    else setD (s.setCore t.core (c.setAccount e ⟨0, 0, 0, 0⟩)) t f (c.account e).msgs) f s

/-! ### Arrival (R121, R348) -/

def tagMatches (c : Core) (tag : BitVec 6) : Bool := c.valid && c.tag == tag

/-- A packet meets another tag: its sender hears of it, one on another module by an answer to its GPID (R348). -/
def State.mismatched (s : State) (p : Packet) : State :=
  if 2304 ≤ p.src then { s with weltOut := s.weltOut ++ [.mismatch (p.target.extractLsb' 32 16) p.words] }
  else s.dropped p.src p.sender p.target 0x04

/-- A packet stands at its core's ejection port. -/
def State.eject (s : State) (p : Packet) : State :=
  if !tagMatches (s.core p.dst) p.tag then s.mismatched p
  else match s.arrive p.dst p.chan p.words with
    | some s => s
    | none => s.modCore p.dst fun c => { c with port := some p }

/-- The slot that sent a packet has an older LDR whose read at the receiver is still to come (R228). -/
def State.readAhead (s : State) (p : Packet) : Bool := p.sender.any fun x => s.ldrAhead p.src x.slot p.dst

/-- The k-th packet of the mesh arrives, unless an older one of its sender, receiver and channel, or of its slot and receiver, is still under
way (R120, R228), the port has stopped (R132), or its slot has an older read to do there (R228). -/
def State.meshArrive (s : State) (k : Nat) : State :=
  match s.mesh[k]? with
  | none => s
  | some p =>
    if State.olderIn (s.mesh.take k) p.src p.dst p.chan || s.behindSlot (s.mesh.take k) p || (s.core p.dst).port.isSome || s.readAhead p then s
    else { s with mesh := s.mesh.eraseIdx k }.eject p

/-- The local tag of a packet that enters by a welt port (R348). -/
def State.welt (s : State) (port : Nat) (gpid : BitVec 16) : Option (BitVec 6) := (NMap.find s.gpids (port * 2 ^ 16 + gpid.toNat)).map (BitVec.ofNat 6 ·)

/-- A message of another module is one that a core can send: a data message, a completion, a report or an item, with its own channel and
length in its header, marked as from another module (R116, R118). -/
def weltForm (chan : BitVec 6) (words : List Word) : Bool :=
  let h := words.headD 0
  hdrRem h && hdrChan h == chan && chan != 0 && chan != 63 && (hdrKind h).ule 4 && hdrKind h != 1 &&
    decide (words.length = (hdrLen h).toNat + 1) && h.extractLsb' 0 3 == 0

/-- A packet enters by a welt port, with the GPID and the logical core that it names: the partition's tag with the receiver's position, or
none for a GPID without an entry (R348). A number that no core has is nobody's, which is reported as a disabled channel is (log 46). -/
def State.weltTo (s : State) (port : Nat) (gpid : BitVec 16) (lcore : BitVec 12) (word : Word) :
    Except State (Option (BitVec 6 × Nat)) :=
  match (s.welt port gpid).bind fun tag => (s.supOf tag).map fun p => (tag, p) with
  | none => .ok none
  | some (tag, p) =>
    match s.lct p lcore.toNat with
    | none => .error (s.channelFault p 0x04 word)
    | some q => .ok (some (tag, q))

/-- A message enters by a welt port: behind an older one of its port, receiver and channel, and where the port of its receiver has stopped,
it waits in the mesh (R120, R132, R240). A KIND 3 message to channel 62 goes to the collector of its receiver's row, which holds it while
that channel is disabled or full (R121, R370). -/
def State.weltMessage (s : State) (port : Nat) (gpid : BitVec 16) (lcore : BitVec 12) (chan : BitVec 6) (words : List Word) : State :=
  match s.weltTo port gpid lcore (words.headD 0) with
  | .error s => s
  | .ok none => { s with weltOut := s.weltOut ++ [.mismatch gpid words] }
  | .ok (some (tag, q)) =>
    if hdrKind (words.headD 0) == 3 && chan == 62 then
      let row := posY q
      { s with collectors := NMap.set s.collectors row (NMap.get [] s.collectors row ++ [⟨q, tag, (s.core q).ctx, words, none, some q⟩]) }
    else
    let target : Word := (targetWord chan 0x1FFF lcore).extractLsb' 0 32 |>.setWidth 64
    let k : Packet := ⟨2304 + port, q, tag, (s.core q).ctx, chan, words, target ||| (gpid.setWidth 64 <<< 32), none⟩
    if (s.core q).port.isSome || State.olderIn s.mesh k.src q chan then s.inject k else s.eject k

/-- A successor message enters by a welt port (R147). -/
def State.weltSuccessor (s : State) (port : Nat) (gpid : BitVec 16) (sender : BitVec 12) (handle : Word) (result : List Word) : State :=
  match s.weltTo port gpid (shLcore handle) handle with
  | .error s => s
  | .ok none => { s with weltOut := s.weltOut ++ [.mismatch gpid [handle]] }
  | .ok (some (tag, q)) => { s with succs := s.succs ++ [⟨2304 + port, q, tag, (s.core q).ctx, sender, gpid, handle, result, none⟩] }

/-- A message that has left for another module and that an answer with these words concerns: its origin, and the message once answered. -/
def WeltOut.answered (gpid : BitVec 16) (words : List Word) : WeltOut → Option (WeltOrigin × WeltOut)
  | .message m g l ws (some o) => if g == gpid && ws == words then some (o, .message m g l ws none) else none
  | .successor m g h res (some o) => if g == gpid && [h] == words then some (o, .successor m g h res none) else none
  | _ => none

/-- The oldest message that an answer concerns is taken out of those that may be answered. -/
def answerFirst (gpid : BitVec 16) (words : List Word) : List WeltOut → Option (WeltOrigin × List WeltOut)
  | [] => none
  | w :: ws =>
    match w.answered gpid words with
    | some (o, w) => some (o, w :: ws)
    | none => (answerFirst gpid words ws).map fun r => (r.1, w :: r.2)

/-- Another module has dropped a message or a successor message of this one: its sender hears of it (R348). -/
def State.weltMismatch (s : State) (gpid : BitVec 16) (words : List Word) : State :=
  match answerFirst gpid words s.weltOut with
  | none => s
  | some (o, out) => { s with weltOut := out }.dropped o.src o.sender o.target 0x04

/-- A message arrives (R121, R130, R132, R348). -/
def execMessageArrival (src : ArrivalSource) (s : State) : Host.Outcome State Fault Refusal :=
  match src with
  | .mesh k => .next (s.meshArrive k)
  | .port core =>
    match (s.core core).port with
    | none => .next s
    | some p => .next ((s.modCore core fun c => { c with port := none }).eject p)
  | .welt port gpid lcore chan words => .next (if weltForm chan words then s.weltMessage port gpid lcore chan words else s)
  | .weltMismatch gpid words => .next (s.weltMismatch gpid words)
  | .weltSuccessor port gpid sender handle result =>
    .next (if result.length = (if shRes handle then 4 else 0) then s.weltSuccessor port gpid sender handle result else s)

/-- The heap's first message that its ring has room for. -/
def Core.replayable (c : Core) : Option HeapMsg :=
  c.ch.heap.find? fun m =>
    (c.ch.heap.find? fun n => n.chan == m.chan) == some m && decide (m.words.length ≤ c.freeWords m.chan.toNat)

/-- Slot 4 replays the oldest heap message of a channel, in heap order among those that are ready (R131). -/
def execHeapReplay (core chan : Nat) (s : State) : Host.Outcome State Fault Refusal :=
  let c := s.core core
  match c.replayable with
  | some m =>
    if m.chan.toNat ≠ chan then .next s
    else
      let s := s.setCore core { c with ch := { c.ch with heap := c.ch.heap.erase m } }
      .next ((s.ringPut core chan m.words m.arrival).heapBytes core)
  | none => .next s

/-! ### Selection (R122, R123, R409) -/

/-- The core may select: in service, and not stopped (R353, R372, R409). -/
def State.selects (s : State) (p : Nat) : Bool :=
  let c := s.core p
  !c.lost && c.valid && c.dbg != some none && !(s.part c.tag.toNat).starting && !s.halts c.tag.toNat

def execSelection (core : Nat) (s : State) : Host.Outcome State Fault Refusal :=
  if !s.selects core then .next s
  else
    let s := s.dropDead core ((s.core core).untaken 0).length
    match (List.range 4).find? fun k => ((s.core core).slot k).st == 0, s.best core with
    | some k, some i =>
      if (s.core core).dbg == some (some (BitVec.ofNat 6 i)) then .next (s.modCore core fun c => { c with dbg := some none })
      else .next (s.fire core k i ((s.takes core i).getD []))
    | _, _ => .next s

/-! ### Successor messages and reports (R147, R370) -/

/-- The k-th successor message of the mesh reaches its core, after the older ones of its sender and the packets of its slot (R147, R228). -/
def execSuccessorMessage (k : Nat) (s : State) : Host.Outcome State Fault Refusal :=
  match s.succs[k]? with
  | none => .next s
  | some m =>
    let older := (s.succs.take k).any fun n => n.src == m.src && n.dst == m.dst
    if older || s.packetAhead m || (s.core m.dst).port.isSome then .next s
    else
      let s := { s with succs := s.succs.eraseIdx k }
      if !tagMatches (s.core m.dst) m.tag then
        .next (if 2304 ≤ m.src then { s with weltOut := s.weltOut ++ [.mismatch m.gpid [m.handle]] }
          else s.dropped m.src m.sender m.handle 0x04)
      else if (s.core m.dst).lost then .next (s.channelFault m.dst 0x05 m.handle)
      else .next (s.successor m.dst m.src m.lcore m.handle m.result)

/-- Where a report goes: to the core that a message of another module names, while the partition has it, or to the supervisor (R121, R370;
log 91). -/
def State.reportTo (s : State) (r : Report) : Option Nat :=
  match r.dst.filter fun q => tagMatches (s.core q) r.tag with
  | some q => some q
  | none => s.supOf r.tag

/-- The oldest report of a row goes to its channel 62; it waits while that channel is disabled or its ring has no room, and never enters
the heap (R121, R370). -/
def execCollectorForward (row : Nat) (s : State) : Host.Outcome State Fault Refusal :=
  match NMap.get [] s.collectors row with
  | [] => .next s
  | r :: rs =>
    match s.reportTo r with
    | none => .next s
    | some p =>
      let c := s.core p
      if !cfgEn (c.cfg 62) || c.lost || decide (c.freeWords 62 < r.words.length) then .next s
      else .next { s.ringPut p 62 r.words s.time with collectors := NMap.set s.collectors row rs }

end Sys2Proof.Machine
end

