-- ==== Sys2Proof/Machine/Links.lean ====
section
/-!
DEFINITION. The link engine: instances and their receivers (R325 to R329), delivery (R332), the end of a binding with succession and
failure (R333 to R336), and what the end of a stage firing does (R318, R330, R335).
-/
namespace Sys2Proof.Machine

def State.link (s : State) (tag : Nat) : Links := NMap.get Links.reset s.links tag
def State.setLink (s : State) (tag : Nat) (l : Links) : State := { s with links := NMap.set s.links tag l }
def State.modLink (s : State) (tag : Nat) (f : Links → Links) : State := s.setLink tag (f (s.link tag))

def Links.bind (l : Links) (e : Nat) : Option Binding := l.binds.find? fun b => b.entry == e
def Links.inst (l : Links) (i : Nat) : Option Inst := l.insts.find? fun x => x.id == i
def Links.setInst (l : Links) (x : Inst) : Links := { l with insts := l.insts.map fun y => if y.id = x.id then x else y }
def Links.setBind (l : Links) (b : Binding) : Links := { l with binds := l.binds.map fun y => if y.order = b.order then b else y }

/-- Item `i` of an instance of the binding's stage `k` reaches the binding along its chain: no later stage joins after it (R327). -/
def Links.passes (l : Links) (b : Binding) (k i : Nat) : Bool :=
  (b.insts.drop (k + 1)).all fun j => (l.inst j).all fun y => decide (y.first ≤ i)

/-- The bindings that receive item `i` of an instance; a catch-up instance serves its own only (R327 to R329). -/
def Links.users (l : Links) (x : Inst) (i : Nat) : List Binding :=
  if x.catchUp then l.binds.filter fun b => b.cu.contains x.id
  else l.binds.filter fun b => b.insts.contains x.id && l.passes b x.stage i

/-- Every binding that an instance serves. -/
def Links.allUsers (l : Links) (x : Inst) : List Binding := l.binds.filter fun b => b.insts.contains x.id || b.cu.contains x.id

/-- The instance to which a binding passes the output of its stage `k`. -/
def Binding.nextInst (b : Binding) (x : Inst) : Option Nat :=
  if x.catchUp && decide (x.stage + 1 < b.l) then b.cu[x.stage + 1]? else b.insts[x.stage + 1]?

/-- The receivers of an item with INDEX `i` that an instance emits (R327). -/
def Links.targets (l : Links) (x : Inst) (i : Nat) : List Inst :=
  (((l.users x i).filterMap fun b => b.nextInst x).foldl (fun ts j => if ts.contains j then ts else ts ++ [j]) []).filterMap l.inst

/-- A receiver's holding queue is full (R332). -/
def Links.fullTarget (l : Links) (x : Inst) (i : Nat) : Bool := (l.targets x i).any fun y => decide (64 ≤ y.held.length)

/-- The item word (R316). -/
def itemWord (bind stage : Nat) (cu null : Bool) (index : Nat) : Word :=
  BitVec.ofNat 8 bind ++ BitVec.ofNat 3 stage ++ 0#11 ++ bit 1 cu ++ bit 1 null ++ BitVec.ofNat 40 index

/-- Indices from 0 on, the first that a list lacks. -/
def firstMissing (got : List Nat) : Nat := ((List.range (got.length + 1)).find? fun i => !got.contains i).getD 0

/-- An item enters a holding queue; `sender` is the emitting core's number, which delivery replaces for a reader's item (R316, R317). -/
def Links.hold (l : Links) (y : Inst) (time : Word) (sender : BitVec 12) (reader cu null : Bool) (i : Nat) (payload : List Word) :
    Links :=
  let words := header time sender (BitVec.ofNat 5 (payload.length + 1)) y.sd.chan 4 false false ::
    itemWord y.owner y.stage cu null i :: payload
  l.setInst { y with held := y.held ++ [⟨reader, words⟩] }

/-- One more than the highest index. -/
def raise (ms : List Nat) (k i : Nat) : List Nat := setAt ms k (max (ms.getD k 0) (i + 1))

/-- An instance emits an item (R318, R327); the numbers of the bindings that receive it, the owner's first (R335). -/
def Links.emit (l : Links) (x : Inst) (time : Word) (sender : BitVec 12) (null : Bool) (i : Nat) (payload : List Word) :
    Links × List Nat :=
  let us := l.users x i
  let l := (l.targets x i).foldl (fun l y => l.hold ((l.inst y.id).getD y) time sender false x.catchUp null i payload) l
  let l := l.setInst { (l.inst x.id).getD x with high := max x.high (i + 1), count := x.count + 1 }
  let l := us.foldl (fun l b => l.setBind { b with emitted := raise b.emitted x.stage i }) l
  let own := us.filter fun b => b.entry == x.owner
  (l, (own ++ us.filter fun b => b.entry != x.owner).map (·.order))

/-! ### Serving cores (R319, R326, R331, R338) -/

def stageNo (owner stage : Nat) (catchUp : Bool) : BitVec 16 := BitVec.ofNat 16 (owner * 256 + (if catchUp then 128 else 0) + stage)

/-- A core serves an instance: its handler unmasked, the others of `mask` masked, its stage number set; a pure stage empties the grant
cache. -/
def State.serveCore (s : State) (p : Nat) (x : Inst) (mask : List (BitVec 6)) : State :=
  s.modCore p fun c =>
    let c := (mask.filter (· != x.sd.id.hidx)).foldl (fun c h => c.maskHandler h.toNat true) c
    let c := c.maskHandler x.sd.id.hidx.toNat false
    { c with
      stage := stageNo x.owner x.stage x.catchUp
      serve := some x.serve
      grants := if x.sd.pure then [] else c.grants }

/-- A core goes idle (R326, R333, R334). -/
def State.idleCore (s : State) (p : Nat) : State := s.modCore p fun c => { c with stage := 0xFFFF, serve := none }

/-- A firing of a handler occupies a slot. -/
def Core.runs (c : Core) (h : BitVec 6) : Bool := c.slots.toList.any fun sl => sl.st != 0 && sl.firing.extractLsb' 0 6 == h

/-- Insert in rising logical order. -/
def insertCore (c : Nat × Nat) : List (Nat × Nat) → List (Nat × Nat)
  | [] => [c]
  | d :: ds => if c.1 < d.1 then c :: d :: ds else d :: insertCore c ds

/-- Occupancy (R338). -/
def State.occupancy (s : State) (x : Inst) : Nat :=
  (x.cores.map fun c => ((s.core c.2).chRing x.sd.chan.toNat).count).sum + x.held.length

/-- Another instance that the core serves with the same handler, which then stays unmasked (R326). -/
def Links.keepsHandler (l : Links) (x : Inst) (c : Nat × Nat) : Bool :=
  l.insts.any fun y => y.id != x.id && !y.gone && y.sd.id.hidx == x.sd.id.hidx && y.cores.contains c

/-- A core that leaves an instance masks its handler once no firing of it runs and, but for an ended binding, its ring is empty; a core
of an ended or drained instance then goes idle (R333, R334, R338). -/
def State.settleOne (s : State) (tag : Nat) (x : Inst) (c : Nat × Nat) : State :=
  let k := s.core c.2
  if k.runs x.sd.id.hidx || (!x.gone && (decide (0 < (k.chRing x.sd.chan.toNat).count) || (x.drain && !x.held.isEmpty))) then s
  else
    let s := if (s.link tag).keepsHandler x c then s else s.modCore c.2 fun k => k.maskHandler x.sd.id.hidx.toNat true
    let s := if k.serve.any (fun v => v.inst == x.id) then s.idleCore c.2 else s
    s.modLink tag fun l =>
      let y := (l.inst x.id).getD x
      l.setInst { y with
        leaving := y.leaving.filter (· != c)
        cores := if x.drain then y.cores.filter (· != c) else y.cores }

/-- An instance of an ended binding goes when no core serves it any more. -/
def Links.sweep (l : Links) : Links := { l with insts := l.insts.filter fun x => !((x.gone || x.drain) && x.leaving.isEmpty) }

def State.settle (s : State) (tag : Nat) : State :=
  let s := (s.link tag).insts.foldl (fun s x => x.leaving.foldl (fun s c => s.settleOne tag x c) s) s
  s.modLink tag Links.sweep

/-! ### The end of a binding (R330, R333, R334, R336) -/

/-- The body of a binding's message. -/
def Binding.body (b : Binding) (status : Byte) (word2 : Nat) : List Word :=
  [tgtCookie b.reply ++ b.gen ++ BitVec.ofNat 8 b.entry ++ 0#8 ++ status, BitVec.ofNat 64 word2, b.time]

/-- Untaken items of a binding leave a core's ring and heap (R333). -/
def State.purge (s : State) (p : Nat) (ch : BitVec 6) (entry : Nat) : State :=
  let c := s.core p
  let ours (ws : List Word) : Bool := hdrKind (ws.headD 0) == 4 && ((ws.getD 1 0).extractLsb' 56 8).toNat == entry
  let ids := ((c.untaken ch.toNat).filter fun m => ours (s.ringWords p ch.toNat m)).map (·.id)
  let c := ids.foldl (fun c id => c.setRing ch.toNat ((c.chRing ch.toNat).give id)) c
  s.setCore p { c with ch := { c.ch with heap := c.ch.heap.filter fun m => !(m.chan == ch && ours m.words) } }

/-- An instance of an ending binding: it passes to the oldest binding that still receives its output, drains when it was shared, or
stops at once. -/
def State.endInst (s : State) (tag : Nat) (b : Binding) (x : Inst) : State :=
  let l := s.link tag
  let others := if x.catchUp then [] else (l.allUsers x).filter fun u => u.order != b.order
  match others.foldl (fun (o : Option Binding) u => match o with
    | none => some u
    | some v => if u.order < v.order then some u else some v) none with
  | some u =>
    let l := (l.setInst { x with owner := u.entry }).setBind { u with pool := u.pool ++ x.cores }
    let s := s.setLink tag l
    x.cores.foldl (fun s c => s.modCore c.2 fun k => { k with stage := stageNo u.entry x.stage false }) s
  | none =>
    if !x.catchUp && decide (x.stage < b.l) then
      s.modLink tag fun l => l.setInst { x with reader := none, drain := true, leaving := x.leaving ++ x.cores }
    else
      let s := (x.cores ++ x.leaving).foldl (fun s c => (s.purge c.2 x.sd.chan b.entry).modCore c.2 fun k => k.maskHandler x.sd.id.hidx.toNat true) s
      s.modLink tag fun l =>
        l.setInst { x with reader := none, held := [], gone := true, leaving := x.leaving ++ x.cores, cores := [] }

/-- A binding ends; with a status its message goes to REPLY first. -/
def State.endBinding (s : State) (tag : Nat) (b : Binding) (msg : Option (Byte × Nat)) : State :=
  let s := match msg with
    | some (st, w2) => s.reply b.core b.reply (b.body st w2)
    | none => s
  let s := ((s.link tag).insts.filter fun x => x.owner == b.entry && !x.gone && !x.drain).foldl (fun s x => s.endInst tag b x) s
  (s.modLink tag fun l => { l with binds := l.binds.filter fun u => u.order != b.order }).settle tag

/-- The bindings that receive the output of a failed instance end with status 0x0E (R336). -/
def State.failWork (s : State) (tag : Nat) : State :=
  let l := s.link tag
  let hit (b : Binding) : Bool := l.insts.any fun x => x.failed && !x.gone && (b.insts.contains x.id || b.cu.contains x.id)
  (l.binds.filter hit).foldl (fun s b =>
    match ((s.link tag).binds.find? fun u => u.order == b.order) with
    | some u => s.endBinding tag u (some (0x0E, firstMissing u.got))
    | none => s) s

/-! ### The end of a stage firing (R318, R330, R335) -/

/-- END of the firing in `t` emits a NULL item unless an item has been emitted; it waits while a receiver's holding queue is full. -/
def State.nullItem (s : State) (t : StreamId) : Run State :=
  let sl := s.slot t
  match sl.stageOf with
  | none => .ok s
  | some v =>
    let tag := (s.core t.core).tag.toNat
    let l := s.link tag
    match l.inst v.inst with
    | none => .ok s
    | some x =>
      if v.last || sl.emitted.isSome || x.failed || x.gone then .ok s
      else if l.fullTarget x sl.item.toNat then .error (.hold s)
      else
        let r := l.emit x s.time (s.core t.core).lcore true sl.item.toNat []
        .ok ((s.setLink tag r.1).modSlot t fun sl => { sl with emitted := some r.2 })

/-- What each of `n` bindings gains of an amount: floor(x/n), and the owner the rest (R335). -/
def shareOf (n : Nat) (owner : Bool) (x : Word) : Word :=
  let share := x.toNat / max 1 n
  if owner then x - BitVec.ofNat 64 ((n - 1) * share) else BitVec.ofNat 64 share

/-- The run time and the energy of a firing go to the bindings that received its item, the rest to the owner, the first of them (R335). -/
def Links.charge (l : Links) (orders : List Nat) (ticks energy : Word) : Links :=
  let gain (b : Binding) (owner : Bool) : Binding :=
    { b with time := b.time + shareOf orders.length owner ticks, energy := b.energy + shareOf orders.length owner energy }
  { l with binds := l.binds.map fun b =>
      if orders.head? = some b.order then gain b true else if orders.contains b.order then gain b false else b }

/-- The accounts of a stage firing that ends now, and for a last stage its index. The energy that the firing took is a free amount
(log 7). -/
def State.stageEnd (s : State) (t : StreamId) : State :=
  let sl := s.slot t
  match sl.stageOf with
  | none => s
  | some v =>
    let tag := (s.core t.core).tag.toNat
    let e := s.freeWord
    e.2.modLink tag fun l =>
      match l.inst v.inst with
      | none => l
      | some x =>
        let i := sl.item.toNat
        let own := (l.users x i).filter fun b => b.entry == x.owner
        let orders := sl.emitted.getD ((own ++ (l.users x i).filter fun b => b.entry != x.owner).map (·.order))
        let l := l.charge orders (s.time - sl.started) e.1
        if v.last then
          { l with binds := l.binds.map fun b =>
              if b.insts.contains x.id && !b.done.contains i then { b with done := i :: b.done } else b }
        else l

end Sys2Proof.Machine
end

