-- ==== Sys2Proof/Machine/Pipe.lean ====
section
/-!
DEFINITION. The pipeline instructions, OP 0xE0 to 0xE5 (R320 to R340), and the link engine's own steps (R317, R328, R330, R332, R338).
-/
namespace Sys2Proof.Machine

def entPipe (op : Byte) (u : Used) : Entry := ⟨op, u, false, false, none⟩
def eDa : Used := ⟨true, true, false, false, false⟩
def eDab : Used := ⟨true, true, true, false, false⟩

def setE (s : State) (t : StreamId) (f : FmtE) (r : Word) : Run State := .ok (s.setReg t f.d r)

/-! ### The chain record (R321, R322) -/

def chNst (ws : List Word) : Nat := ((ws.getD 0 0).extractLsb' 0 4).toNat
def chNpool (ws : List Word) : Nat := ((ws.getD 0 0).extractLsb' 8 6).toNat
def chLen (ws : List Word) : Nat := ((ws.getD 2 0).extractLsb' 0 32).toNat
def chPoolWord (ws : List Word) (m : Nat) : BitVec 16 := (ws.getD (20 + m / 4) 0).extractLsb' (16 * (m % 4)) 16
def chPar (ws : List Word) (k : Nat) : Word := ws.getD (4 + 2 * k) 0
def chB (ws : List Word) (k : Nat) : Word := ws.getD (5 + 2 * k) 0

def sbCmin (w : Word) : Nat := (w.extractLsb' 40 8).toNat
def sbCinit (w : Word) : Nat := (w.extractLsb' 32 8).toNat
def sbOb (w : Word) : Nat := (w.extractLsb' 28 4).toNat
def sbIn (w : Word) : BitVec 6 := w.extractLsb' 16 6
def sbPure (w : Word) : Bool := w.getLsbD 15
def sbHidx (w : Word) : BitVec 6 := w.extractLsb' 0 6

/-- Word B and word A of a stage are legal. -/
def stageOk (a b : Word) : Bool :=
  b.extractLsb' 48 16 == 0 && b.extractLsb' 22 6 == 0 && b.extractLsb' 6 2 == 0 && a.extractLsb' 56 8 == 0 &&
    decide (1 ≤ sbCmin b) && decide (sbCmin b ≤ 32) && decide (sbCmin b ≤ sbCinit b) && decide (sbCinit b ≤ 32) &&
    (2#6).ule (sbIn b) && (sbIn b).ule 61

/-- The first row of R324. -/
def State.chainOk (s : State) (p : Nat) (ws : List Word) : Bool :=
  let n := chNst ws
  let np := chNpool ws
  let src := ws.getD 1 0
  let pool := (List.range np).map (chPoolWord ws)
  (ws.getD 0 0).extractLsb' 4 4 == 0 && (ws.getD 0 0).extractLsb' 14 50 == 0 && decide (1 ≤ n) && decide (n ≤ 8) &&
    decide (1 ≤ np) && decide (np ≤ 32) && src.extractLsb' 56 8 == 0 && src.extractLsb' 0 6 == 0 &&
    (ws.getD 2 0).extractLsb' 36 28 == 0 && decide (1 ≤ chLen ws) &&
    (List.range n).all (fun k => stageOk (chPar ws k) (chB ws k)) &&
    (List.range 8).all (fun k => decide (k < n) || (chPar ws k == 0 && chB ws k == 0)) &&
    (List.range 32).all (fun m => decide (m < np) || chPoolWord ws m == 0) &&
    pool.all (fun e => e.extractLsb' 12 4 == 0) && decide pool.Nodup &&
    decide ((List.range n).map fun k => sbIn (chB ws k)).Nodup &&
    decide (((List.range n).map fun k => sbCinit (chB ws k)).sum ≤ np) &&
    (ws.drop 28).all (· == 0) && s.replyOk p (ws.getD 3 0)

/-- The pool as numbers and positions; none when an entry names no core of the partition on this module. -/
def State.chainPool (s : State) (p : Nat) (ws : List Word) : Option (List (Nat × Nat)) :=
  (List.range (chNpool ws)).mapM fun m =>
    let n := ((chPoolWord ws m).extractLsb' 0 12).toNat
    (s.lct p n).map fun q => (n, q)

/-! ### What the region records say at bind (R323) -/

/-- A Published region: whether it is lace-once, and its VERSION. What another module's record says nothing constrains (log 17). -/
def State.pubState (s : State) (pl : Place) : Option (Bool × BitVec 32) × State :=
  if pl.module = 0x1FFF then
    let r := s.region pl.rkey
    (if r.st = .published then some (r.lace.isSome, r.version) else none, s)
  else
    let a := s.moduleAnswers pl.module
    let v := a.2.freeWord
    (if a.1 then some (false, v.1.extractLsb' 0 32) else none, v.2)

/-- A VA of the record or of a handler, translated; a failed walk is precise. -/
def State.bindPlace (s : State) (p : Nat) (va : Word) : Run Place :=
  match s.placeOf p (.virt va) with
  | some pl => if s.reachable p va then .ok pl else .error (.hold s)
  | none => .error (.walkFault va)

/-- The parameter region of a stage; a zero VA names none (R322). -/
def parVa (ws : List Word) (k : Nat) : Option Word := if chPar ws k = 0 then none else some (chPar ws k)

/-- Region and VERSION of each VA, zeros where none is named; `none` when one is not Published. -/
def State.bindIds (s : State) (p : Nat) : List (Option Word) → Run (Option (List (Word × BitVec 32)) × State)
  | [] => .ok (some [], s)
  | none :: vas => do
    let r ← s.bindIds p vas
    .ok (r.1.map ((0, 0) :: ·), r.2)
  | some va :: vas => do
    let pl ← s.bindPlace p va
    match s.pubState pl with
    | (none, s) => .ok (none, s)
    | (some (_, v), s) => do
      let r ← State.bindIds s p vas
      .ok (r.1.map ((pl.va, v) :: ·), r.2)

/-- On every pool core each stage's handler is valid, unprivileged, with its channel as sole input and one ENTRY (R324). -/
def State.chainHandlers (s : State) (ws : List Word) (pool : List (Nat × Nat)) : Bool :=
  let first := ((pool.map (·.2)).headD 0)
  (List.range (chNst ws)).all fun k =>
    let h := (sbHidx (chB ws k)).toNat
    pool.all fun c =>
      let e := (s.core c.2).handler h
      hVALID e.hw0 && !hSUP e.hw0 && e.hw1 == BitVec.ofNat 64 ((sbIn (chB ws k)).toNat * 256 + 1) &&
        hENTRY e.hw0 == hENTRY ((s.core first).handler h).hw0

/-! ### Attachment (R325 to R328) -/

/-- The number of leading stages that a newcomer can share with a binding: equal, pure in both, the last of neither chain. -/
def Binding.sharedLead (b : Binding) (ds : List StageDef) : Nat :=
  min (((b.stages.zip ds).takeWhile fun d => d.1.id == d.2.id && d.1.pure && d.2.pure).length) (min (ds.length - 1) (b.stages.length - 1))

/-- The parent with its L: the binding of the same source with the longest prefix, the earliest among equals. -/
def Links.parent (l : Links) (src : SourceId) (ds : List StageDef) : Option (Binding × Nat) :=
  (l.binds.filter fun b => b.src == src).foldl (fun best b =>
    let k := b.sharedLead ds
    match best with
    | none => if k = 0 then none else some (b, k)
    | some (c, j) => if j < k ∨ (k = j ∧ b.order < c.order) then some (b, k) else best) none

/-- The cores of the new instances: each takes its CINIT entries of the pool in order. -/
def dealCores : List Nat → List (Nat × Nat) → List (List (Nat × Nat))
  | [], _ => []
  | n :: ns, pool => (pool.take n).foldl (fun cs c => insertCore c cs) [] :: dealCores ns (pool.drop n)

/-- Numbers of the new instances, main stages first. -/
structure NewInst where
  stage : Nat
  catchUp : Bool
  deriving DecidableEq, Repr

def newInsts (nst l p : Nat) : List NewInst :=
  ((List.range nst).drop l).map (⟨·, false⟩) ++ (if p = 0 then [] else (List.range l).map (⟨·, true⟩))

/-- A free entry of the table; the manual does not say which (log 19, DESIGN CHOICE). -/
def Links.freeEntry (l : Links) : Option Nat := (List.range 256).find? fun e => (l.bind e).isNone

/-- The binding and its instances enter the table; the result word (R320). -/
def State.attach (s : State) (t : StreamId) (ws : List Word) (pool : List (Nat × Nat)) (pl : Place) (ver : BitVec 32)
    (ds : List StageDef) (entry : Nat) : Word × State :=
  let c := s.core t.core
  let tag := c.tag.toNat
  let l := s.link tag
  let src : SourceId := ⟨pl.va, ver, pl.key - pl.rkey, chLen ws * 64, (ws.getD 2 0).extractLsb' 32 4⟩
  let par := l.parent src ds
  let lsh := (par.map (·.2)).getD 0
  let shared := (par.map fun b => b.1.insts.take lsh).getD []
  let p := ((shared.getLast?).bind l.inst).elim 0 (·.high)
  let news := newInsts ds.length lsh p
  let deal := dealCores (news.map fun x => sbCinit (chB ws x.stage)) pool
  let gen : Byte := match NMap.find l.gens entry with | none => 0 | some g => g + 1
  let reader (x : NewInst) : Option Reader :=
    if x.stage = 0 then some ⟨0, if x.catchUp then p else chLen ws, pl.key, pl.module, pl.rkey, ver⟩ else none
  let insts : List Inst := (news.zip deal).zipIdx.map fun ((x, cs), i) =>
    { id := l.nextInst + i, owner := entry, stage := x.stage, catchUp := x.catchUp, sd := ds.getD x.stage default0
      last := x.stage + 1 = ds.length, cores := cs, leaving := [], held := [], high := 0, count := 0, reader := reader x
      failed := false, gone := false, drain := false, first := if !x.catchUp && x.stage == lsh then p else 0, items := [] }
  let b : Binding :=
    { entry := entry, gen := gen, order := l.nextOrder, core := t.core, tag := c.tag, launch := (s.slot t).launch
      reply := ws.getD 3 0, src := src, len := chLen ws, stages := ds, l := lsh, p := p, parent := par.map (·.1.entry)
      pool := pool, insts := shared ++ (insts.filter (!·.catchUp)).map (·.id), cu := (insts.filter (·.catchUp)).map (·.id)
      got := [], emitted := List.replicate ds.length 0, done := [], time := 0, energy := 0 }
  let l : Links :=
    { binds := l.binds ++ [b], insts := l.insts ++ insts, gens := NMap.set l.gens entry gen
      nextOrder := l.nextOrder + 1, nextInst := l.nextInst + insts.length }
  let hs := ds.map (·.id.hidx)
  let s := s.setLink tag l
  let s := pool.foldl (fun s c =>
    (s.modCore c.2 fun k => hs.foldl (fun k h => k.maskHandler h.toNat true) k).idleCore c.2) s
  let s := insts.foldl (fun s x => x.cores.foldl (fun s c => s.serveCore c.2 x hs) s) s
  (BitVec.ofNat 36 p ++ BitVec.ofNat 4 lsh ++ gen ++ BitVec.ofNat 8 entry ++ 0#8, s)
where
  default0 : StageDef := ⟨⟨0, 0, 0, 0, 0, 0, 0⟩, false, 0, 0, 0⟩

/-- PBIND's checks from the second row of R324 on. -/
def pbindChecked (t : StreamId) (f : FmtE) (ws : List Word) (s : State) : Run State := do
  let p := t.core
  let l := s.link (s.core p).tag.toNat
  match s.chainPool p ws with
  | none => setE s t f 0x04
  | some pool =>
    if pool.any fun c => l.binds.any fun b => b.pool.any fun d => d.2 == c.2 then setE s t f 0x04
    else do
      let pl ← s.bindPlace p (ws.getD 1 0)
      match s.pubState pl with
      | (none, s) => setE s t f 0x04
      | (some (laced, ver), s) =>
        if laced then setE s t f 0x04
        else if pageLen pl.size < pl.key - pl.rkey + 64 * chLen ws then setE s t f 0x07
        else do
          let pars ← s.bindIds p ((List.range (chNst ws)).map (parVa ws))
          match pars with
          | (none, s) => setE s t f 0x0F
          | (some pids, s) =>
            if !s.chainHandlers ws pool then setE s t f 0x08
            else do
              let first := (pool.map (·.2)).headD 0
              let codes ← s.bindIds p ((List.range (chNst ws)).map fun k =>
                some ((hENTRY ((s.core first).handler (sbHidx (chB ws k)).toNat).hw0).setWidth 64))
              match codes with
              | (none, s) => setE s t f 0x08
              | (some cids, s) =>
                match l.freeEntry with
                | none => setE s t f 0x07
                | some e =>
                  let ds : List StageDef := (List.range (chNst ws)).map fun k =>
                    let w := chB ws k
                    let c := cids.getD k (0, 0)
                    let q := pids.getD k (0, 0)
                    { id := ⟨c.1, c.2, sbHidx w, q.1, q.2, w.extractLsb' 8 4, w.extractLsb' 12 3⟩, pure := sbPure w, ob := sbOb w
                      chan := sbIn w, gov := BitVec.ofNat 64 (sbCmin w * 2 ^ 32) }
                  let r := s.attach t ws pool pl ver ds e
                  setE r.2 t f r.1

def pbindBody (t : StreamId) (f : FmtE) (s : State) : Run State := do
  let (off, _) ← s.ownRecord t (s.reg t f.a) 256 256 false
  let ws := s.localWords t.core off 32
  if s.chainOk t.core ws then pbindChecked t f ws s else setE s t f 0x08

/-- PBIND (R321 to R328). -/
def execPbind (f : FmtE) (s : State) : Host.Outcome State Fault Refusal := issueE (entPipe 0xE0 eDa) pbindBody f s

/-! ### PSTG (R332) -/

/-- The payload's place in local memory. -/
def State.payloadAt (s : State) (t : StreamId) (ea : Word) (n : Nat) : Run Nat :=
  if n = 0 then .ok 0
  else do
    let off ← s.ownLocal t ea
    if off % 8 ≠ 0 then trapAt 0x07 ea
    else if localSize < off + 8 * n then trapAt 0x08 ea
    else if (match s.pureOf t with | some v => !(s.core t.core).inOb v off (8 * n) | none => false) then trapAt 0x06 ea
    else .ok off

def pstgBody (t : StreamId) (f : FmtE) (s : State) : Run State := do
  let n := (f.imm.extractLsb' 0 5).toNat
  let off ← s.payloadAt t (s.reg t f.a) n
  let sl := s.slot t
  match sl.stageOf with
  | none => setE s t f 0x04
  | some v =>
    if v.last then setE s t f 0x04
    else if sl.emitted.isSome then setE s t f 0x08
    else
      let tag := (s.core t.core).tag.toNat
      let l := s.link tag
      match l.inst v.inst with
      | none => setE (s.modSlot t fun sl => { sl with emitted := some [] }) t f 0
      | some x =>
        if x.failed then setE s t f 0x0E
        else if x.gone then setE (s.modSlot t fun sl => { sl with emitted := some [] }) t f 0
        else if l.fullTarget x sl.item.toNat then .error (.hold s)
        else match s.badIn (localKey t.core off) (8 * n) with
          | some b => trapAt 0x11 (localAddr t.core (b - localKey t.core 0))
          | none =>
            let r := l.emit x s.time (s.core t.core).lcore false sl.item.toNat (s.localWords t.core off n)
            setE ((s.setLink tag r.1).modSlot t fun sl => { sl with emitted := some r.2 }) t f 0

/-- PSTG (R332). -/
def execPstg (f : FmtE) (s : State) : Host.Outcome State Fault Refusal := issueE (entPipe 0xE1 eDa) pstgBody f s

/-! ### PDET, PQRY, PPOS, GOVT (R333, R337, R340) -/

/-- The binding that a handle names (R320). -/
def State.handleOf (s : State) (t : StreamId) (h : Word) : Option Binding :=
  ((s.link (s.core t.core).tag.toNat).bind (h.extractLsb' 8 8).toNat).filter fun b => b.gen == h.extractLsb' 16 8

/-- PDET (R333). -/
def execPdet (f : FmtE) (s : State) : Host.Outcome State Fault Refusal :=
  issueE (entPipe 0xE2 eDa) (fun t f s =>
    match s.handleOf t (s.reg t f.a) with
    | none => setE s t f 0x04
    | some b => setE (s.endBinding (s.core t.core).tag.toNat b (some (0x09, b.len))) t f 0) f s

/-- The binding word. -/
def Links.bindingWord (l : Links) (b : Binding) : Word :=
  let owns := l.insts.any fun x => x.owner == b.entry && !x.gone && decide (1 < (l.allUsers x).length)
  0#24 ++ BitVec.ofNat 8 (b.parent.getD 0xFF) ++ BitVec.ofNat 4 b.stages.length ++ BitVec.ofNat 4 b.l ++ b.gen ++
    BitVec.ofNat 8 b.entry ++ 0#3 ++ bit 1 (!b.cu.isEmpty) ++ bit 1 owns ++ 1#3

def pqryBody (g : State → Binding → FmtE → Word) (t : StreamId) (f : FmtE) (s : State) : Run State :=
  match s.handleOf t (s.reg t f.a) with
  | none => setE s t f 0
  | some b => setE s t f (g s b f)

/-- PQRY (R340). -/
def execPqry (f : FmtE) (s : State) : Host.Outcome State Fault Refusal :=
  issueE (entPipe 0xE3 eDa) (pqryBody fun s b _ => (s.link b.tag.toNat).bindingWord b) f s
/-- PQRY.time (R335, R340). -/
def execPqryTime (f : FmtE) (s : State) : Host.Outcome State Fault Refusal :=
  issueE (entPipe 0xE3 eDa) (pqryBody fun _ b _ => b.time) f s
/-- PQRY.energy (R335, R340). -/
def execPqryEnergy (f : FmtE) (s : State) : Host.Outcome State Fault Refusal :=
  issueE (entPipe 0xE3 eDa) (pqryBody fun _ b _ => b.energy) f s

/-- The stage word. -/
def State.stageWord (s : State) (b : Binding) (k : Nat) : Word :=
  let l := s.link b.tag.toNat
  match (b.insts[k]?).bind l.inst with
  | none => 0
  | some x =>
    0#16 ++ BitVec.ofNat 8 x.cores.length ++ ((b.stages.getD k (State.attach.default0)).gov.extractLsb' 32 8) ++
      BitVec.ofNat 16 (min (s.occupancy x) 0xFFFF) ++ BitVec.ofNat 8 x.owner ++ 0#7 ++ bit 1 (decide (1 < (l.allUsers x).length))

def stageOfImm (f : FmtE) : Nat := (f.imm.extractLsb' 0 3).toNat

/-- PQRY.stage (R340). -/
def execPqryStage (f : FmtE) (s : State) : Host.Outcome State Fault Refusal :=
  issueE (entPipe 0xE3 eDa) (pqryBody fun s b f => s.stageWord b (stageOfImm f)) f s
/-- PPOS (R340). -/
def execPpos (f : FmtE) (s : State) : Host.Outcome State Fault Refusal :=
  issueE (entPipe 0xE4 eDa) (pqryBody fun _ b f => BitVec.ofNat 64 (b.emitted.getD (stageOfImm f) 0)) f s
/-- PPOS.done (R340). -/
def execPposDone (f : FmtE) (s : State) : Host.Outcome State Fault Refusal :=
  issueE (entPipe 0xE4 eDa) (pqryBody fun _ b _ => BitVec.ofNat 64 b.done.length) f s

def govCmin (w : Word) : Nat := (w.extractLsb' 32 8).toNat
def govHigh (w : Word) : Nat := (w.extractLsb' 16 16).toNat
def govLow (w : Word) : Nat := (w.extractLsb' 0 16).toNat
def govOk (w : Word) : Bool :=
  w.extractLsb' 40 24 == 0 && decide (1 ≤ govCmin w) && decide (govCmin w ≤ 32) && (govHigh w == 0 || decide (govLow w < govHigh w))

def govtBody (t : StreamId) (f : FmtE) (s : State) : Run State :=
  let w := s.reg t f.b
  let k := stageOfImm f
  match s.handleOf t (s.reg t f.a) with
  | none => setE s t f (if govOk w then 0x04 else 0x08)
  | some b =>
    if !govOk w || decide (b.stages.length ≤ k) then setE s t f 0x08
    else
      let l := s.link b.tag.toNat
      if ((b.insts[k]?).bind l.inst).all fun x => x.owner != b.entry then setE s t f 0x04
      else
        let d := b.stages.getD k State.attach.default0
        setE (s.setLink b.tag.toNat (l.setBind { b with stages := setAt b.stages k { d with gov := w } })) t f 0

/-- GOVT (R337, R340). -/
def execGovt (f : FmtE) (s : State) : Host.Outcome State Fault Refusal := issueE (entPipe 0xE5 eDab) govtBody f s
/-- GOVT.rd (R340). -/
def execGovtRd (f : FmtE) (s : State) : Host.Outcome State Fault Refusal :=
  issueE (entPipe 0xE5 eDa) (pqryBody fun _ b f => ((b.stages[stageOfImm f]?).map (·.gov)).getD 0) f s

/-! ### The link engine's steps -/

/-- The instance of an entry's stage. -/
def Links.find (l : Links) (entry stage : Nat) (catchUp : Bool) : Option Inst :=
  l.insts.find? fun x => x.owner == entry && x.stage == stage && x.catchUp == catchUp && !x.gone

/-- What a read of a source item finds: its words, or a refusal (R317). -/
def State.sourceItem (s : State) (r : Reader) : Option (List Word) × State :=
  if r.module ≠ 0x1FFF then
    let a := s.moduleAnswers r.module
    let x := a.2.freeNat 64
    if a.1 then (some (wordsOf 8 x.1), x.2) else (none, a.2)
  else
    let g := s.region r.rkey
    let k := r.key + 64 * r.next
    if g.st ≠ .published || g.lace.isSome || g.version != r.version || (s.badIn k 64).isSome then (none, s)
    else (some (wordsOf 8 (s.mem.readNat k 64)), s)

/-- A refusal that the reader meets counts as a trap of its instance: a shared or a catch-up instance fails and its bindings end, and a
private stage fails no binding; the reader stops (R317, R336). -/
def State.readerFails (s : State) (tag : Nat) (x : Inst) : State :=
  let fails := x.catchUp || decide (1 < ((s.link tag).allUsers x).length)
  (s.modLink tag fun l => l.setInst { x with failed := fails, reader := none }).failWork tag

/-- SOURCE_READER_ITEM (R317). -/
def execSourceReaderItem (tag entry : Nat) (catchUp : Bool) (s : State) : Host.Outcome State Fault Refusal :=
  match (s.link tag).find entry 0 catchUp with
  | none => .next s
  | some x =>
    match x.reader with
    | none => .next s
    | some r =>
      if r.stop ≤ r.next ∨ 64 ≤ x.held.length then .next s
      else
        match s.sourceItem r with
        | (none, s) => .next (s.readerFails tag x)
        | (some ws, s) =>
          let x := { x with reader := some { r with next := r.next + 1 } }
          .next (s.modLink tag fun l => (l.setInst x).hold x s.time 0 true catchUp false r.next ws)

def heldIndex (h : Held) : Nat := ((h.words.getD 1 0).extractLsb' 0 40).toNat

/-- An item can enter a core's ring: it has room, no older message of the channel waits in the heap, which items never enter, and the port
has not stopped (R132, R332). -/
def Core.takesItem (c : Core) (ch n : Nat) : Bool :=
  c.lost || (c.port.isNone && c.heapCount ch == 0 && decide (n ≤ c.freeWords ch))

/-- The first item that can be delivered, with its core: no item passes an earlier one of its core (R120, R332). -/
def State.deliverable (s : State) (x : Inst) : List Nat → List Held → Option (Held × Nat)
  | _, [] => none
  | stuck, h :: hs =>
    match x.cores[heldIndex h % max 1 x.cores.length]? with
    | none => none
    | some c =>
      if !stuck.contains c.2 && (s.core c.2).takesItem x.sd.chan.toNat h.words.length then some (h, c.2)
      else s.deliverable x (c.2 :: stuck) hs

/-- The words as they reach a core: a reader's item names it as the sender (R317). -/
def Held.arriving (h : Held) (lcore : BitVec 12) : List Word :=
  match h.words with
  | [] => []
  | w :: ws => (if h.reader then w.extractLsb' 32 32 ++ lcore ++ w.extractLsb' 0 20 else w) :: ws

/-- ITEM_DELIVERY (R332). -/
def execItemDelivery (tag entry stage : Nat) (catchUp : Bool) (s : State) : Host.Outcome State Fault Refusal :=
  match (s.link tag).find entry stage catchUp with
  | none => .next s
  | some x =>
    match s.deliverable x [] x.held with
    | none => .next s
    | some (h, p) =>
      let id := (s.core p).ch.nextId
      match s.arrive p x.sd.chan (h.arriving (s.core p).lcore) with
      | none => .next s
      | some s =>
        .next (s.modLink tag fun l =>
          let l := l.setInst { x with held := x.held.erase h, items := x.items ++ [(p, id)] }
          { l with binds := l.binds.map fun b =>
              if b.insts[b.l]? = some x.id then { b with got := heldIndex h :: b.got } else b })

/-- CATCHUP_RETIRE: the cores of a catch-up chain that has emitted every item below p join stage L (R328). -/
def execCatchupRetire (tag entry : Nat) (s : State) : Host.Outcome State Fault Refusal :=
  let l := s.link tag
  match l.bind entry with
  | none => .next s
  | some b =>
    match (b.cu.getLast?).bind l.inst, (b.insts[b.l]?).bind l.inst with
    | some x, some y =>
      if x.count < b.p then .next s
      else
        let xs := b.cu.filterMap l.inst
        let cs := xs.flatMap (·.cores)
        let l := xs.foldl (fun l x => l.setInst { x with gone := true, cores := [], leaving := x.leaving ++ x.cores }) l
        let l := (l.setInst { y with cores := cs.foldl (fun ds c => insertCore c ds) y.cores }).setBind { b with cu := [] }
        .next ((cs.foldl (fun s c => s.serveCore c.2 y []) (s.setLink tag l)).settle tag)
    | _, _ => .next s

/-- BINDING_COMPLETE (R330). -/
def execBindingComplete (tag entry : Nat) (s : State) : Host.Outcome State Fault Refusal :=
  match (s.link tag).bind entry with
  | none => .next s
  | some b => .next (if b.len ≤ b.done.length then s.endBinding tag b (some (0, b.len)) else s)

/-! ### The governor (R337, R338) -/

/-- A stage as the governor sees it: its instance, its binding and its word. -/
def State.governed (s : State) (tag : Nat) : List (Inst × Binding × Word) :=
  let l := s.link tag
  (l.insts.filter fun x => !x.catchUp && !x.gone && !x.drain && !x.failed).filterMap fun x =>
    (l.bind x.owner).map fun b => (x, b, (b.stages.getD x.stage State.attach.default0).gov)

/-- Whether the first stage is the receiver rather than the second. -/
def State.asksBefore (s : State) (x y : Inst) : Bool :=
  decide (s.occupancy y < s.occupancy x) ||
    (s.occupancy x == s.occupancy y && (decide (x.owner < y.owner) || (x.owner == y.owner && decide (x.stage < y.stage))))

/-- Whether the first stage is the donor rather than the second. -/
def State.givesBefore (s : State) (x y : Inst) : Bool :=
  decide (s.occupancy x < s.occupancy y) || (s.occupancy x == s.occupancy y && decide (y.stage < x.stage))

def pick (before : Inst → Inst → Bool) (xs : List (Inst × Binding × Word)) : Option (Inst × Binding × Word) :=
  xs.foldl (fun best x => match best with
    | none => some x
    | some y => if before x.1 y.1 then some x else best) none

/-- The pool's idle cores: those that serve no instance. -/
def Links.idle (l : Links) (b : Binding) : List (Nat × Nat) :=
  b.pool.filter fun c => !(l.insts.any fun x => !x.gone && x.cores.contains c)

def lastCore (cs : List (Nat × Nat)) : Option (Nat × Nat) :=
  cs.foldl (fun m c => match m with
    | none => some c
    | some d => if d.1 < c.1 then some c else m) none

/-- A core enters the receiver's distribution. -/
def State.giveCore (s : State) (tag : Nat) (x : Inst) (c : Nat × Nat) : State :=
  let l := s.link tag
  let y := (l.inst x.id).getD x
  let y := { y with cores := insertCore c y.cores, leaving := y.leaving.filter (· != c) }
  (s.setLink tag (l.setInst y)).serveCore c.2 y []

/-- The governor of a partition has still to evaluate at this value of the timer, a multiple of 4,096 (R338). -/
def State.evaluates (s : State) (tag : Nat) : Bool := s.time.toNat % 4096 == 0 && (s.part tag).evalAt != some s.time

/-- GOVERNOR_EVALUATION, once at each multiple of 4,096 ticks (R338). -/
def execGovernorEvaluation (tag : Nat) (s : State) : Host.Outcome State Fault Refusal :=
  if !s.evaluates tag then .next s
  else
    let s := s.modPart tag fun p => { p with evalAt := some s.time }
    let gs := s.governed tag
    match pick s.asksBefore (gs.filter fun g => govHigh g.2.2 != 0 && decide (govHigh g.2.2 ≤ s.occupancy g.1)) with
    | none => .next s
    | some (x, b, _) =>
      match lastCore ((s.link tag).idle b) with
      | some c => .next (s.giveCore tag x c)
      | none =>
        match pick s.givesBefore (gs.filter fun g =>
            g.2.1.order == b.order && decide (s.occupancy g.1 ≤ govLow g.2.2) && decide (govCmin g.2.2 < g.1.cores.length)) with
        | none => .next s
        | some (d, _, _) =>
          match lastCore d.cores with
          | none => .next s
          | some c =>
            let s := s.modLink tag fun l => l.setInst { d with cores := d.cores.filter (· != c), leaving := d.leaving ++ [c] }
            .next (s.giveCore tag x c)

/-- GOVERNOR_DONOR_MASK (R338). -/
def execGovernorDonorMask (core : Nat) (s : State) : Host.Outcome State Fault Refusal :=
  let tag := (s.core core).tag.toNat
  let s := (s.link tag).insts.foldl (fun s x => (x.leaving.filter fun c => c.2 == core).foldl (fun s c => s.settleOne tag x c) s) s
  .next (s.modLink tag Links.sweep)

end Sys2Proof.Machine
end

