-- ==== Sys2Proof/Machine/Firing.lean ====
section
/-!
DEFINITION. The end of a firing: END, OP 0x17 (R128, R147, R318, R335, R367), its abandonment (R129, R366), and the slot commands of a
supervisor (R366).
-/
namespace Sys2Proof.Machine

/-- A vector store of the slot is outstanding: bytes of it stand in the store buffer, which its home can still fail (R174, R175). -/
def State.vecOutstanding (s : State) (t : StreamId) : Bool := (s.core t.core).sbuf.any fun e => e.slot == t.slot && e.vec.isSome

/-- What the two streams still have to do before END ends the firing: the access stream stands at END with nothing pending, no late fault
waits and no vector instruction is outstanding, and every scoreboarded register has its status (R128 items 1 and 2, R175). -/
def State.mayEnd (s : State) (t : StreamId) : Bool :=
  let sl := s.slot t
  s.atEnd t true && !s.vecOutstanding t && sl.a.pend.isNone && sl.a.late.isEmpty && sl.a.fmt.isNone && sl.a.rep.isNone && sl.x.late.isEmpty && sl.board == 0

/-- Every device store of the slot has performed, which the successor messages wait for (R228). -/
def State.storesDone (s : State) (t : StreamId) : Bool := !((s.core t.core).sbuf.any fun e => e.slot == t.slot)

/-- The successor message for a handle (R147): to its core of this module, by a welt port to another module, or, where the table holds no
such core, nowhere, which is reported as a tag mismatch is (R348). -/
def State.sendSuccessor (s : State) (t : StreamId) (h : Word) : State :=
  let c := s.core t.core
  let res := if shRes h then (List.range 4).map fun i => s.reg t (BitVec.ofNat 6 (i + 2)) else []
  if s.isOwn (shModule h) then
    match s.lct t.core (shLcore h).toNat with
    | some q => { s with succs := s.succs ++ [⟨t.core, q, c.tag, c.ctx, c.lcore, c.gpid, h, res, s.sender t⟩] }
    | none => s.report t.core 3 t.slot 0 0x04 0 h 0 none
  else if s.portDown (shModule h) then s.report t.core 3 t.slot 0 0x03 0 h 0 none
  else { s with weltOut := s.weltOut ++ [.successor (shModule h) c.gpid h res (some ⟨t.core, s.sender t, h⟩)] }

/-- The record of a firing's end (R408). -/
def State.recordEnd (s : State) (t : StreamId) : State := s.record t.core t.slot 2 ((s.slot t).fseq ++ 0#32)

/-- Items 3 to 5 of R128 for a firing whose streams have ended. -/
def State.endFiring (s : State) (t : StreamId) : State :=
  let sl := s.slot t
  let s := sl.succ.foldl (fun s h => s.sendSuccessor t h) s
  let s := (s.stageEnd t).recordEnd t
  let s := s.modCore t.core fun c => sl.charges.foldl (fun c e => c.accountRun e (s.time - sl.started)) c
  ((s.completed t).freeSlot t).settle (s.core t.core).tag.toNat

/-- The firing ends as under a kill, for this firing alone: no run time, no successors, its trackers complete (R129, R366). -/
def State.abandon (s : State) (t : StreamId) : State :=
  (((s.recordEnd t).endTrackers t).freeSlot t).settle (s.core t.core).tag.toNat

/-- In a handler END abandons the firing, once the access stream has no instruction that another agent has still to finish and no vector
instruction of the slot is outstanding; a late fault that is there traps at END first (R42, R175, R367). -/
def endBody (t : StreamId) (s : State) : Run State :=
  let sl := s.slot t
  if 3 ≤ sl.st.toNat then
    .error (.hold (if s.otherBusy t || s.vecOutstanding t || !sl.x.late.isEmpty || !sl.a.late.isEmpty then s
      else (s.completed t).abandon t))
  else if !s.mayEnd t || (!sl.succ.isEmpty && !s.storesDone t) then .error (.hold s)
  else do
    let s ← s.nullItem t
    .error (.hold (s.endFiring t))

/-- END (R128, R367). -/
def execEnd (_ : FmtB) (s : State) : Host.Outcome State Fault Refusal :=
  match s.cur with
  | .stream t =>
    .next (if controlIllegal t (s.strm t) then s.precise t 0x01 none else s.finish t (endBody t s))
  | _ => .next s

/-! ### Slot commands (R366) -/

/-- The oldest command of its kind that a supervisor has written to a slot word and that is still to be carried out. -/
def Core.command (c : Core) (k : Nat) (abandon : Bool) : Option (Nat × Bool × Word) := c.cmds.find? fun x => x.1 == k && x.2.1 == abandon

def State.dropCommand (s : State) (p : Nat) (x : Nat × Bool × Word) : State := s.modCore p fun c => { c with cmds := c.cmds.erase x }

/-- A suspended slot goes on in the slot state in which it was suspended. -/
def State.resumeSlot (s : State) (t : StreamId) : State :=
  s.modSlot t fun sl => { sl with st := if sl.susp = 0 then 1 else sl.susp, susp := 0, view := [] }

/-- Command 1: both streams continue from the view's program counters and state. -/
def execSlotCommandResume (core slot : Nat) (s : State) : Host.Outcome State Fault Refusal :=
  match (s.core core).command slot false with
  | none => .next s
  | some x =>
    let s := s.dropCommand core x
    let t : StreamId := ⟨core, slot, false⟩
    if (s.slot t).st = 2 then .next (s.resumeSlot t) else .next s

/-- Command 2: the firing is abandoned and the slot becomes free. -/
def execSlotCommandAbandon (core slot : Nat) (s : State) : Host.Outcome State Fault Refusal :=
  match (s.core core).command slot true with
  | none => .next s
  | some x =>
    let s := s.dropCommand core x
    let t : StreamId := ⟨core, slot, false⟩
    if (s.slot t).st = 2 then .next (s.abandon t) else .next s

end Sys2Proof.Machine
end

