-- ==== Sys2Proof/Machine/Power.lean ====
section
/-!
DEFINITION. Power, time, energy, counters, trace and debug: the clocks of the dies (R393, R400, R401), THROTTLE (R396 to R399), OP 0xE9 to
0xEE (R411), the trace ring (R407, R408), claims (R374), and the host's commands of the chapter (R392 to R410).
-/
namespace Sys2Proof.Machine

/-! ### Clocks (R393, R400, R401) -/

def mhz (p : BitVec 3) : Nat := [600, 800, 960, 1200, 1280, 1600, 1920, 2400].getD p.toNat 0
/-- The increment of SCYCLES per die cycle. -/
def scInc (p : BitVec 3) : Nat := [4096, 3072, 2560, 2048, 1920, 1536, 1280, 1024].getD p.toNat 0

def State.setDie (s : State) (d : Nat) (x : Die) : State := { s with dies := vset s.dies d x }

/-- Of the next `dt` ticks, those in which a die has a clock: the last of them. -/
def Die.ticks (x : Die) (now : Word) (dt : Nat) : Nat :=
  match x.relock with
  | none => dt
  | some e => now.toNat + dt - max now.toNat e.toNat

/-- Cycles of a die in `n` ticks of clock. -/
def Die.cycles (x : Die) (n : Nat) : Nat := (mhz x.point * n + x.rest) / 1000

/-- The clocks of the arithmetic run (R392, R410). -/
def State.clocked (s : State) : Bool := (s.mode == .active || s.mode == .idleClocked) && !s.frozen

/-- How many of the next `dt` ticks count for the running context of a partition: none while it is not loaded or not yet started, and none
from a switch on (R271, R353, R400). They are the first of them. -/
def State.countedTicks (s : State) (tag dt : Nat) : Nat :=
  let p := s.part tag
  if p.running.isNone || p.starting then 0
  else match p.gang with
    | some (d, t) => if p.running = some d then dt else min dt (t.toNat - s.time.toNat)
    | none => dt

/-- Those of the next `dt` ticks in which the context of a core runs. -/
def State.loadedTicks (s : State) (c : Core) (dt : Nat) : Nat :=
  let tag := c.tag.toNat
  if c.valid && (s.part tag).running == some c.ctx.toNat then s.countedTicks tag dt else 0

/-- Cycles of a die in the first `n` of the next ticks: a relock takes its ticks from the front (R393, R401). -/
def State.cyclesIn (s : State) (die n : Nat) : Nat :=
  let k := (s.die die).ticks s.time n
  if k = 0 then 0 else (s.die die).cycles k

/-- The cycles of a core in the next `dt` ticks: those in which its die has a clock and its context runs (R400, R401). -/
def State.coreCycles (s : State) (p : Nat) (c : Core) (dt : Nat) : Nat := s.cyclesIn (dieOf p) (s.loadedTicks c dt)

def Core.tick (c : Core) (x : Die) (n : Nat) : Core :=
  if n = 0 then c
  else ({ c with cycles := c.cycles + BitVec.ofNat 64 n, scycles := c.scycles + BitVec.ofNat 64 (n * scInc x.point) } : Core).pmCount 0x01 none n

/-- Holds and the run times of firings do not count `n` ticks in which the context does not run (R133, R271). -/
def Core.holdStill (c : Core) (n : Nat) : Core :=
  { c with
    lace := c.lace.map fun l => { l with since := l.since + BitVec.ofNat 64 n }
    slots := c.slots.map fun sl => { sl with started := sl.started + BitVec.ofNat 64 n } }
/-- Ramps do not advance while the clocks are stopped (R395). -/
def Half.holdStill (x : Half) (dt : Nat) : Half :=
  match x.ramp with
  | .rising t => { x with ramp := .rising (t + BitVec.ofNat 64 dt) }
  | .falling t => { x with ramp := .falling (t + BitVec.ofNat 64 dt) }
  | _ => x

/-! ### THROTTLE (R396 to R399) -/

def halfDie (h : Nat) : Nat := dieOf (posOf (4 * (halfCluster h % 12)) (4 * (halfCluster h / 12)))
def State.hstepOf (s : State) (h : Nat) : Nat := (s.die (halfDie h)).hstep.toNat

/-- STEP without the gang rule. -/
def State.baseStep (s : State) (h : Nat) : Nat := max (s.hstepOf h) (s.rampNow (s.half h).ramp).2

/-- Launches with a record that a half holds. -/
def Half.launches (x : Half) : List (BitVec 16) :=
  ((x.queue ++ (match x.run with | some u => [u.r] | none => [])).map (·.tk.launch)).filter (· != 0)

/-- The largest step among the halves that share a launch with half `h`. -/
def State.raiseSteps (s : State) (steps : List (Nat × Nat)) : List (Nat × Nat) :=
  steps.map fun e =>
    let ls := (s.half e.1).launches
    (e.1, (steps.filter fun f => (s.half f.1).launches.any ls.contains).foldl (fun m f => max m f.2) e.2)

/-- STEP of every half of a partition from the steps that its halves have by themselves (R399). -/
def State.stepsFrom (s : State) (tag : Nat) (base : Nat → Nat) : List (Nat × Nat) :=
  let hs := (s.part tag).halves.map (·.2)
  iter hs.length (fun _ l => s.raiseSteps l) (hs.map fun h => (h, base h))

def State.steps (s : State) (tag : Nat) : List (Nat × Nat) := s.stepsFrom tag s.baseStep

/-- The half of a cluster that THROTTLE reports: the one of largest STEP, the lowest on a tie (log 21). -/
def State.throttled (s : State) (tag cluster : Nat) : Option (Nat × Nat) :=
  ((List.range 4).filterMap fun i => (s.steps tag).find? fun e => e.1 == 4 * cluster + i).foldl (fun b e =>
    match b with
    | none => some e
    | some d => if d.2 < e.2 then some e else b) none

def State.throttle (s : State) (p : Nat) : Word :=
  match s.throttled (s.core p).tag.toNat (clusterOf p) with
  | none => 0#32 ++ s.rampTime ++ 0#16
  | some (h, k) =>
    let r := s.rampNow (s.half h).ramp
    0#32 ++ s.rampTime ++ 0#4 ++ bit 1 (decide (s.baseStep h < k)) ++ r.1 ++ BitVec.ofNat 3 r.2 ++ BitVec.ofNat 3 (s.hstepOf h) ++
      BitVec.ofNat 3 k

/-! ### The reference timer -/

/-- Cycles withheld in `n` cycles at a step between `lo` and `hi`: the least and the most (R397). -/
def withheld (n lo hi : Nat) : Nat × Nat := (n / 8 * lo + (n % 8 + lo - 8), n / 8 * hi + min hi (n % 8))

/-- The counters of a half over the next `dt` ticks, in which a task runs on it: BUSY gains the cycles and THROT those withheld, as STEP at
both ends of the time bounds them (R286, R397; log 4). -/
def State.countHalf (s : State) (tag h dt : Nat) : State :=
  let n := s.cyclesIn (halfDie h) (s.countedTicks tag dt)
  if (s.half h).run.isNone || n = 0 then s
  else
    let later : State := { s with time := s.time + BitVec.ofNat 64 dt }
    let step (f : Nat → Nat → Nat) : Nat :=
      (((s.stepsFrom tag fun i => f (s.baseStep i) (later.baseStep i)).find? fun e => e.1 == h).map (·.2)).getD 0
    let w := withheld n (step min) (step max)
    let gain := w.1 + s.freeWord.1.toNat % (w.2 - w.1 + 1)
    s.freeWord.2.modHalf h fun x => (x.bump 2 n).bump 3 gain

/-- The halves of every partition count. -/
def State.countHalves (s : State) (dt : Nat) : State :=
  s.parts.foldl (fun s e => e.2.halves.foldl (fun s h => s.countHalf e.1 h.2 dt) s) s

/-- The reference timer advances by `dt` ticks; a frozen module has none (R410). A hold limit that is exceeded then has expired
(R271). -/
def State.advance (s : State) (dt : Nat) : State :=
  if s.frozen then s
  else if s.clocked then
    let s := s.countHalves dt
    State.expireHolds { s with
      time := s.time + BitVec.ofNat 64 dt
      cores := s.cores.map fun e =>
        (e.1, (e.2.tick (s.die (dieOf e.1)) (s.coreCycles e.1 e.2 dt)).holdStill (dt - s.loadedTicks e.2 dt))
      dies := s.dies.map fun x => { x with rest := (mhz x.point * x.ticks s.time dt + x.rest) % 1000 } }
  else
    { s with
      time := s.time + BitVec.ofNat 64 dt
      cores := s.cores.map fun e => (e.1, e.2.holdStill dt)
      halves := s.halves.map fun e => (e.1, e.2.holdStill dt) }

/-! ### TIME, CYCL, ENRG, THRS (R400, R402, R411) -/

/-- ENERGY of a context as it reads now: the weights are no part of the manual, so each read adds an amount that nothing constrains
(log 7). -/
def State.readEnergy (s : State) (tag c : Nat) : Word × State :=
  let e := (s.ctx tag c).energy + s.freeWord.1
  (e, s.freeWord.2.modCtx tag c fun x => { x with energy := e })

/-- The energy account of a live launch; a firing of no live launch has none, and what it reads is free (log 7). -/
def State.readLaunchEnergy (s : State) (tag : Nat) (num : BitVec 16) : Word × State :=
  let w := s.freeWord
  match (s.part tag).live.find? fun l => l.num == num with
  | none => w
  | some l =>
    let e := l.energy + w.1
    (e, w.2.modPart tag fun p => { p with live := p.live.map fun x => if x.num == num then { x with energy := e } else x })

def usedDonly : Used := ⟨true, false, false, false, false⟩

/-- TIME (R411). -/
def execTime (f : FmtA) (s : State) : Host.Outcome State Fault Refusal :=
  issueA (entInt 0xE9 usedDonly) anyFields (fun t f s => setD s t f s.time) f s
/-- TIME.lo (R411). -/
def execTimeLo (f : FmtA) (s : State) : Host.Outcome State Fault Refusal :=
  issueA (entInt 0xE9 usedDonly) anyFields (fun t f s => setD s t f ((s.time.extractLsb' 0 32).setWidth 64)) f s
/-- CYCL (R400, R411). -/
def execCycl (f : FmtA) (s : State) : Host.Outcome State Fault Refusal :=
  issueA (entInt 0xEA usedDonly) anyFields (fun t f s => setD s t f (s.core t.core).cycles) f s
/-- CYCL.s (R401, R411). -/
def execCyclS (f : FmtA) (s : State) : Host.Outcome State Fault Refusal :=
  issueA (entInt 0xEA usedDonly) anyFields (fun t f s => setD s t f (s.core t.core).scycles) f s
/-- ENRG (R402, R411). -/
def execEnrg (f : FmtA) (s : State) : Host.Outcome State Fault Refusal :=
  issueA (entInt 0xEB usedDonly) anyFields (fun t f s =>
    let c := s.core t.core
    let r := s.readEnergy c.tag.toNat c.ctx.toNat
    setD r.2 t f r.1) f s
/-- ENRG.l (R402, R411). -/
def execEnrgL (f : FmtA) (s : State) : Host.Outcome State Fault Refusal :=
  issueA (entInt 0xEB usedDonly) anyFields (fun t f s =>
    let r := s.readLaunchEnergy (s.core t.core).tag.toNat (s.slot t).launch
    setD r.2 t f r.1) f s
/-- THRS (R396, R411). -/
def execThrs (f : FmtA) (s : State) : Host.Outcome State Fault Refusal :=
  issueA (entInt 0xEC usedDonly) anyFields (fun t f s => setD s t f (s.throttle t.core)) f s

/-! ### PMCR (R403, R404, R411) -/

/-- Reserved bits of an event word, or a reserved event. -/
def eventBad (w : Word) : Bool :=
  let e := pmCode w
  w.extractLsb' 32 32 != 0 || w.extractLsb' 12 19 != 0 || !(e.ult 0x0C || (0x20#8).ule e && e.ule 0x22)

def pmNo (f : FmtA) : Nat := (f.imm.extractLsb' 0 3).toNat

def pmcrBody (t : StreamId) (f : FmtA) (s : State) : Run State := do
  s.supervisor t
  let w := s.reg t f.a
  if eventBad w then setD s t f 0x08
  else if (s.core t.core).pmLent then setD s t f 0x04
  else setD (s.modCore t.core fun c => { c with pm := vset c.pm (pmNo f) ⟨w, 0⟩ }) t f 0

/-- PMCR (R403). -/
def execPmcr (f : FmtA) (s : State) : Host.Outcome State Fault Refusal :=
  issueA (entInt 0xED ⟨true, true, false, false, false⟩) anyFields pmcrBody f s

/-- Cycles in which a stream is blocked on a queue are timing: an enabled counter of them has advanced by an amount that nothing constrains
(log 4). -/
def State.blockedCycles (s : State) (p n : Nat) : State :=
  let c := s.core p
  let x := vget ⟨0, 0⟩ c.pm n
  if pmEn x.event && pmCode x.event == 0x04 && !c.pmLent then
    s.freeWord.2.setCore p { c with pm := vset c.pm n { x with count := x.count + s.freeWord.1 } }
  else s

/-- PMCR.rd (R403). -/
def execPmcrRd (f : FmtA) (s : State) : Host.Outcome State Fault Refusal :=
  issueA (entInt 0xED usedDonly) anyFields (fun t f s =>
    let s := s.blockedCycles t.core (pmNo f)
    let c := s.core t.core
    setD s t f (bit 1 c.pmLent ++ (vget ⟨0, 0⟩ c.pm (pmNo f)).count.extractLsb' 0 63)) f s

/-- COUNTER_CLAIM (R374). -/
def execCounterClaim (core : Nat) (unit : ClaimUnit) (s : State) : Host.Outcome State Fault Refusal :=
  .next (s.modCore core fun c => match unit with
    | .counters => { c with pmLent := true }
    | .trace => { c with traceLent := true })
/-- COUNTER_RELEASE (R374). -/
def execCounterRelease (core : Nat) (unit : ClaimUnit) (s : State) : Host.Outcome State Fault Refusal :=
  .next (s.modCore core fun c => match unit with
    | .counters => { c with pmLent := false }
    | .trace => { c with traceLent := false })

/-! ### Trace (R407, R408) -/

/-- A record is written at PUT. -/
def State.ringRecord (s : State) (tag : BitVec 6) (ctx : BitVec 3) (base : Word) (r : Nat) (words : List Word) : State :=
  let put := s.vaWord tag ctx base
  let a := base + BitVec.ofNat 64 (64 + 32 * (put.toNat % 2 ^ r))
  let s := iter 4 (fun i s => s.setVaWord tag ctx (a + BitVec.ofNat 64 (8 * i)) (words.getD i 0)) s
  (s.setVaWord tag ctx base (put + 1)).vaUsed tag ctx base

def State.ringFull (s : State) (tag : BitVec 6) (ctx : BitVec 3) (base : Word) (r : Nat) : Bool :=
  decide (2 ^ r ≤ (s.vaWord tag ctx base - s.vaWord tag ctx (base + 8)).toNat)

/-- The record that reports the records lost; its slot, channel and handler are zero (log 22). -/
def State.lostRecord (s : State) (p : Nat) (lost : Word) : List Word :=
  [6#4 ++ 0#18 ++ s.module ++ BitVec.ofNat 6 (posY p) ++ BitVec.ofNat 6 (posX p) ++ 0#17, s.time, 0, lost]

/-- One record goes to the ring, after the report of earlier losses where the session takes its type (log 22); without space it is lost. -/
def State.sendRecord (s : State) (p : Nat) (words : List Word) : State :=
  let c := s.core p
  let x := s.ctx c.tag.toNat c.ctx.toNat
  match x.trace with
  | none => s
  | some (a, b) =>
    let base : Word := a &&& 0x00FFFFFFFFFFFFFF
    let s := s.touchPage p base
    let r := traceR b
    let put (s : State) (ws : List Word) : State := s.ringRecord c.tag c.ctx base r ws
    let lose (s : State) : State :=
      (s.setVaWord c.tag c.ctx (base + 16) (s.vaWord c.tag c.ctx (base + 16) + 1)).modCtx c.tag.toNat c.ctx.toNat fun x =>
        { x with lostTrace := x.lostTrace + 1 }
    let s := s.vaUsed c.tag c.ctx base
    if s.ringFull c.tag c.ctx base r then lose s
    else
      let s := if x.lostTrace = 0 || !s.traces p 6 then s
        else (put s (s.lostRecord p (s.vaWord c.tag c.ctx (base + 16)))).modCtx c.tag.toNat c.ctx.toNat fun x => { x with lostTrace := 0 }
      if s.ringFull c.tag c.ctx base r then lose s else put s words

/-- A core sends its buffered records. -/
def State.flushTrace (s : State) (p : Nat) : State :=
  ((s.core p).trace.foldl (fun s r => s.sendRecord p r) s).modCore p fun c => { c with trace := [] }

/-- The cores of a partition send their records. -/
def State.flushAll (s : State) (tag : BitVec 6) : State := (s.coresOf tag).foldl (fun s p => s.flushTrace p) s

/-- TRACE_FLUSH: a full buffer is sent (R407). -/
def execTraceFlush (core : Nat) (s : State) : Host.Outcome State Fault Refusal :=
  .next (if 8 ≤ (s.core core).trace.length then s.flushTrace core else s)

/-- The ticks between samples of a core's context, where its session takes them. -/
def State.samplePeriod (s : State) (p : Nat) : Option Nat :=
  let c := s.core p
  if s.traces p 5 then (s.ctx c.tag.toNat c.ctx.toNat).trace.map fun w => 2 ^ traceP w.2 else none

/-- A core has still to take its sample at this value of the timer (R408). -/
def State.samples (s : State) (p : Nat) : Bool :=
  (s.core p).sampledAt != some s.time && (s.samplePeriod p).any fun n => s.time.toNat % n == 0

/-- TRACE_SAMPLE: one sample of each occupied slot at a multiple of 2^P ticks (R408). -/
def execTraceSample (core : Nat) (s : State) : Host.Outcome State Fault Refusal :=
  if !s.samples core then .next s
  else
    let s := s.modCore core fun c => { c with sampledAt := some s.time }
    .next ((List.range 5).foldl (fun s k =>
      let sl := (s.core core).slot k
      if sl.st = 0 then s else s.record core k 5 (sl.fseq ++ 0#32)) s)

/-- TRAC.mark (R411). -/
def execTracMark (f : FmtA) (s : State) : Host.Outcome State Fault Refusal :=
  issueA (entInt 0xEE ⟨false, true, false, false, false⟩) anyFields (fun t f s => .ok (s.record t.core t.slot 4 (s.reg t f.a))) f s

/-- Status 0x08 of TRAC.cfg. -/
def tracBad (a b : Word) : Bool :=
  a.extractLsb' 56 7 != 0 || b.extractLsb' 20 44 != 0 || b.extractLsb' 6 2 != 0 ||
    decide (traceP b < 10) || decide (30 < traceP b) || decide (traceR b < 8) || decide (11 < traceR b)

/-- The ring lies in a region Private to the supervisor core, aligned on 64 KiB; of a region of another module nothing here decides it
(log 17). -/
def State.ringPrivate (s : State) (tag : BitVec 6) (ctx : BitVec 3) (va : Word) : Bool × State :=
  match s.walk tag ctx va false, s.supOf tag with
  | some l, some q =>
    if va.extractLsb' 0 16 != 0 then (false, s)
    else if s.isOwn l.module then
      let r := s.region l.key
      (r.st == .priv && (s.core q).holds { r with ctx := (s.core q).ctx } && r.ctx == ctx, s)
    else (s.freeWord.1.getLsbD 0, s.freeWord.2)
  | _, _ => (false, s)

/-- A session begins with no record lost (R407). -/
def tracCfgBody (t : StreamId) (f : FmtA) (s : State) : Run State := do
  s.supervisor t
  let c := s.core t.core
  let a := s.reg t f.a
  let b := s.reg t f.b
  if tracBad a b then setD s t f 0x08
  else
    let ring := s.ringPrivate c.tag c.ctx (a &&& 0x00FFFFFFFFFFFFFF)
    if !ring.1 then setD ring.2 t f 0x04
    else
      let s := if traceEn a then ring.2 else ring.2.flushAll c.tag
      setD (s.modCtx c.tag.toNat c.ctx.toNat fun x =>
        { x with trace := if traceEn a then some (a, b) else none, lostTrace := 0 }) t f 0

/-- TRAC.cfg (R407, R411). -/
def execTracCfg (f : FmtA) (s : State) : Host.Outcome State Fault Refusal :=
  issueA (entInt 0xEE ⟨true, true, true, false, false⟩) anyFields tracCfgBody f s
/-- TRAC.rd (R411). -/
def execTracRd (f : FmtA) (s : State) : Host.Outcome State Fault Refusal :=
  issueA (entInt 0xEE usedDonly) anyFields (fun t f s =>
    let c := s.core t.core
    setD s t f (((s.ctx c.tag.toNat c.ctx.toNat).trace.map (·.1)).getD 0)) f s

/-! ### Operating points, steps and the trip (R393 to R397) -/

/-- A change of point relocks the die for 2,000 ticks (R393). -/
def execOperatingPointSet (die : Nat) (p : BitVec 3) (s : State) : Host.Outcome State Fault Refusal :=
  .next (if (s.die die).point = p then s else s.setDie die { s.die die with point := p, relock := some (s.time + 2000), rest := 0 })
/-- RELOCK_COMPLETE (R394). -/
def execRelockComplete (die : Nat) (s : State) : Host.Outcome State Fault Refusal :=
  .next (match (s.die die).relock with
    | some e => if e.ule s.time then s.setDie die { s.die die with relock := none } else s
    | none => s)
/-- HOST_STEP_SET (R397). -/
def execHostStepSet (die : Nat) (k : BitVec 3) (s : State) : Host.Outcome State Fault Refusal :=
  .next (s.setDie die { s.die die with hstep := k })
/-- THERMAL_TRIP (R392, R395). -/
def execThermalTrip (die sensor : Nat) (reading : Word) (s : State) : Host.Outcome State Fault Refusal :=
  .next (if s.trip.ult reading && s.clocked then { s with mode := .clockStopped, mailbox := s.mailbox ++ [(die, sensor)] } else s)

/-! ### Debug (R409, R410) -/

/-- DEBUG_STOP: a core that has stopped stays so until it is resumed (R409). -/
def execDebugStop (core : Nat) (before : Option (BitVec 6)) (s : State) : Host.Outcome State Fault Refusal :=
  .next (s.modCore core fun c => { c with dbg := if c.dbg = some none then c.dbg else some before })
/-- The stop is complete when no slot is occupied (R409). -/
def Core.stopped (c : Core) : Bool := c.dbg == some none && c.slots.toList.all fun sl => sl.st == 0
/-- FREEZE (R410). -/
def execFreeze (s : State) : Host.Outcome State Fault Refusal := .next { s with frozen := true }

def State.jtag (s : State) (j : Jtag) (d : Word) : State := { s with io := { s.io with jtag := j, jtagData := d } }
/-- BYPASS selects the one-bit bypass register, which captures 0 (IEEE 1149.1, PRESUMED: log 23). -/
def execBypass (s : State) : Host.Outcome State Fault Refusal := .next (s.jtag .bypass 0)
/-- SAMPLE/PRELOAD selects the boundary register, whose pins the manual does not describe. -/
def execSamplePreload (s : State) : Host.Outcome State Fault Refusal := .next (s.freeWord.2.jtag .samplePreload s.freeWord.1)
/-- EXTEST selects the boundary register. -/
def execExtest (s : State) : Host.Outcome State Fault Refusal := .next (s.freeWord.2.jtag .extest s.freeWord.1)
/-- The identification register: STEP, part 0x0009, the manufacturer, and the constant 1 of IEEE 1149.1 (log 23). -/
def State.idcodeWord (s : State) : Word := 0#32 ++ s.stepping ++ 0x0009#16 ++ Config.manufacturer ++ 1#1
/-- IDCODE (R410). -/
def execIdcode (s : State) : Host.Outcome State Fault Refusal := .next (s.jtag .idcode s.idcodeWord)

/-- DEVID (R7). -/
def State.devid (s : State) : Word := 0x4B58#16 ++ 0x0009#16 ++ 0x01#8 ++ 0x00#8 ++ s.stepping ++ s.metal ++ 0#8

end Sys2Proof.Machine
end

