-- ==== Sys2Proof/Machine/System.lean ====
section
/-!
DEFINITION. The system instructions that no kill and no launch concerns: CTLR, CTLW, ERET, SYSC, CTXS, CTXL, PTAG, LCTW, GANG, KEYI, MHALF
and DLOG, OP 0xF0 to 0xFB (R95, R349, R376 to R384).
-/
namespace Sys2Proof.Machine

/-- The thirteen take neither FMT nor REP (R376). -/
def entSys (op : Byte) (u : Used) : Entry := ⟨op, u, false, false, none⟩
def noFields : Used := ⟨false, false, false, false, false⟩

/-! ### Control registers (R95, R377) -/

def ctlNo (f : FmtA) : Nat := (f.imm.extractLsb' 0 12).toNat
/-- Registers that only a supervisor reads. -/
def ctlReadSup (n : Nat) : Bool := (decide (2 ≤ n) && decide (n ≤ 7)) || (decide (0x20 ≤ n) && decide (n ≤ 0x23))
/-- Registers whose write column is not "—". -/
def ctlWritable (n : Nat) : Bool :=
  (decide (2 ≤ n) && decide (n ≤ 7)) || n == 0x18 || n == 0x21 || n == 0x23 || (decide (0x140 ≤ n) && decide (n ≤ 0x17F))

/-- KEYSLOT (R218, R347). -/
def Core.keySlot (c : Core) : Word := BitVec.ofNat 64 (8 * c.tag.toNat + c.ctx.toNat)

/-- The value of register `n` and the state after the read, which ENERGY and THROTTLE look up. -/
def State.readCtl (s : State) (t : StreamId) (n : Nat) : Word × State :=
  let c := s.core t.core
  let sl := s.slot t
  let x := s.ctx c.tag.toNat c.ctx.toNat
  if n = 0x000 then (s.status t, s)
  else if n = 0x001 then (sl.firing, s)
  else if n = 0x002 then (sl.trapCause.setWidth 64, s)
  else if n = 0x003 then (sl.trapPc.setWidth 64, s)
  else if n = 0x004 then (sl.trapAddr, s)
  else if n = 0x005 then (sl.trapSeq.setWidth 64, s)
  else if n = 0x006 then (c.trapVec, s)
  else if n = 0x007 then (c.priv, s)
  else if n = 0x010 then (s.time, s)
  else if n = 0x011 then (c.cycles, s)
  else if n = 0x012 then (c.scycles, s)
  else if n = 0x013 then s.readEnergy c.tag.toNat c.ctx.toNat
  else if n = 0x014 then (s.throttle t.core, s)
  else if n = 0x018 then (x.bbcBase, s)
  else if n = 0x020 then (c.partTag, s)
  else if n = 0x021 then (c.lctBase, s)
  else if n = 0x022 then (c.keySlot, s)
  else if n = 0x023 then (x.dlog, s)
  else if n < 0x110 then (s.laceWord t.core (n - 0x100), s)
  else if n < 0x120 then (cbWord (c.buffer (n - 0x110)), s)
  else (c.chanCfg (n - 0x140), s)

/-- The bits of a register that a write changes; the others keep their value (R4, R377). -/
def ctlMask (n : Nat) : Word :=
  if n = 0x002 then 0xFF
  else if n = 0x003 then 0x00FFFFFFFFFFFFFF
  else if n = 0x004 then 0xFFFFFFFFFFFFFFFF
  else if n = 0x005 then 0xFFFFFF
  else if n = 0x006 then 0x80FFFFFFFFFFFFFF
  else if n = 0x007 then 0x8000000000003FFF
  else if n = 0x018 then 0xFCFFFFFFFFFFFFFF
  else if n = 0x021 then 0xFFF000FFFFFFF000
  else if n = 0x023 then 0x80FFFFFFFFFFFFFF
  else 0

/-- A register with the writable bits of `x`. -/
def ctlMix (n : Nat) (old x : Word) : Word := (old &&& ~~~(ctlMask n)) ||| (x &&& ctlMask n)

/-- The frame area lies in local memory (R364); a PRIV of which it does not is not taken (log 20). -/
def privFits (w : Word) : Bool := decide ((w.extractLsb' 0 14).toNat + 640 ≤ 12288)

def State.writeCtl (s : State) (t : StreamId) (n : Nat) (x : Word) : State :=
  let c := s.core t.core
  let ctx (f : Ctx → Ctx) : State := s.modCtx c.tag.toNat c.ctx.toNat f
  if n = 0x002 then s.modSlot t fun sl => { sl with trapCause := x.extractLsb' 0 8 }
  else if n = 0x003 then s.modSlot t fun sl => { sl with trapPc := x.extractLsb' 0 56 }
  else if n = 0x004 then s.modSlot t fun sl => { sl with trapAddr := x }
  else if n = 0x005 then s.modSlot t fun sl => { sl with trapSeq := x.extractLsb' 0 24 }
  else if n = 0x006 then s.setCore t.core { c with trapVec := ctlMix n c.trapVec x }
  else if n = 0x007 then if privFits x then s.setCore t.core { c with priv := ctlMix n c.priv x } else s
  else if n = 0x018 then ctx fun y => { y with bbcBase := ctlMix n y.bbcBase x }
  else if n = 0x023 then ctx fun y => { y with dlog := ctlMix n y.dlog x }
  else s

/-- CTLR (R377). -/
def execCtlr (f : FmtA) (s : State) : Host.Outcome State Fault Refusal :=
  issueA (entSys 0xF0 usedD) anyFields (fun t f s => do
    if ctlReadSup (ctlNo f) then s.supervisor t
    let r := s.readCtl t (ctlNo f)
    setD r.2 t f r.1) f s

def ctlwBody (t : StreamId) (f : FmtA) (s : State) : Run State := do
  s.supervisor t
  if ctlWritable (ctlNo f) then .ok (s.writeCtl t (ctlNo f) (s.reg t f.a)) else trap 0x0D

/-- CTLW of a register without a row of its own (R377). -/
def execCtlw (f : FmtA) (s : State) : Host.Outcome State Fault Refusal := issueA (entSys 0xF1 usedA) anyFields ctlwBody f s

def ctlwChancfgBody (t : StreamId) (f : FmtA) (s : State) : Run State := do
  s.supervisor t
  let c := s.core t.core
  let ch := ctlNo f - 0x140
  let st := c.chcfgStatus ch (s.reg t f.a)
  if st ≠ 0 then trapAt 0x04 (st.setWidth 64) else .ok (s.setCore t.core (c.chcfgWrite ch (s.reg t f.a)))

/-- CTLW of CHANCFG (R141, R377). -/
def execCtlwChancfg (f : FmtA) (s : State) : Host.Outcome State Fault Refusal :=
  issueA (entSys 0xF1 usedA) anyFields ctlwChancfgBody f s

/-- CTLW of LCTBASE: the writing core resolves every logical number with the new table (R349). -/
def execCtlwLctbase (f : FmtA) (s : State) : Host.Outcome State Fault Refusal :=
  issueA (entSys 0xF1 usedA) anyFields (fun t f s => do
    s.supervisor t
    .ok (s.modCore t.core fun c => { c with lctBase := ctlMix 0x021 c.lctBase (s.reg t f.a) })) f s

/-! ### ERET and SYSC (R367, R378) -/

/-- PL of a stream's STATUS word in a frame. -/
def framePl (w : Word) : BitVec 2 := w.extractLsb' 14 2

/-- Outside a handler ERET is denied before the frame is looked at, and a frame that cannot be read is trap 0x11 (R181). It waits while the
access stream's instruction is one that another agent has still to finish (R42). -/
def eretBody (t : StreamId) (_ : FmtA) (s : State) : Run State :=
  let sl := s.slot t
  let f := s.frameAt t.core ((s.core t.core).frameOff t.slot)
  let off := (s.core t.core).frameOff t.slot
  if sl.st ≠ 3 ∧ sl.st ≠ 4 then trap 0x0D
  else match s.badIn (localKey t.core off) (8 * frameWords) with
  | some b => trapAt 0x11 (localAddr t.core (b - localKey t.core 0))
  | none =>
  if framePl (f 329) ≠ 0 ∨ framePl (f 335) ≠ 0 then trap 0x01
  else .error (.hold (if s.otherBusy t then s else (s.completed t).reloadFrame t))

/-- ERET (R367). -/
def execEret (f : FmtA) (s : State) : Host.Outcome State Fault Refusal :=
  issueA { entSys 0xF2 noFields with str := some false } anyFields eretBody f s

/-- The slot as the frame of a system call keeps it: the execute stream after the SYSC (R378). -/
def State.callState (s : State) (t : StreamId) : State :=
  (s.stopStreams t).modSlot t fun sl =>
    let pc := nextPc sl.x.pc
    { sl with x := { sl.x with pc := pc }, trapCause := 0, trapPc := pc, trapAddr := 0, trapSeq := 0 }

/-- The access stream stops at its boundary, which SYSC waits for (R42, R378). -/
def syscBody (t : StreamId) (f : FmtA) (s : State) : Run State :=
  let c := s.core t.core
  let e := c.handler (f.imm.extractLsb' 0 6).toNat
  if (s.strm t).pl = 1 then trap 0x01
  else if !hVALID e.hw0 || !hSUP e.hw0 || !c.fen then trap 0x0D
  else .error (.hold (if s.otherBusy t then s else (s.completed t).callState t |>.enterHandler t 4 (hENTRY e.hw0)))

/-- SYSC (R378). -/
def execSysc (f : FmtA) (s : State) : Host.Outcome State Fault Refusal :=
  issueA { entSys 0xF3 noFields with str := some false } anyFields syscBody f s

/-! ### CTXS and CTXL (R356, R379) -/

def areaSize : Nat := 0x100000
/-- The VA of a core's save area (R351). -/
def Ctx.area (x : Ctx) (n : Nat) : Word := x.saveBase + BitVec.ofNat 64 (areaSize * n)

/-- The flat keys of the sixteen granules of a save area, when every one is mapped; one on another module has none. -/
def State.areaKeys (s : State) (tag : BitVec 6) (ctx : BitVec 3) (va : Word) : Option (List (Option Nat)) :=
  (List.range 16).mapM fun i =>
    let a := va + BitVec.ofNat 64 (0x10000 * i)
    (s.walk tag ctx a false).map fun _ => s.vaKey tag ctx a

/-- The leaf of a granule that lies in a region Private to the core. -/
def State.privateLeaf (s : State) (p : Nat) (va : Word) : Option Leaf :=
  let c := s.core p
  (s.walk c.tag c.ctx va false).filter fun l => s.isOwn l.module && (s.region l.key).st == .priv && c.holds (s.region l.key)

/-- s[A]: virtual, aligned on 1 MiB, and Private to the issuer throughout; its granules with their regions. -/
def State.ownArea (s : State) (p : Nat) (a : Word) : Option (List (Nat × Nat × Word)) :=
  if addrTag a ≠ 0 || a.extractLsb' 0 20 != 0 then none
  else (List.range 16).mapM fun i =>
    let va := a + BitVec.ofNat 64 (0x10000 * i)
    (s.privateLeaf p va).map fun l => (l.key + va.toNat % pageLen l.size, l.key, l.va)

/-- Sixteen granules are copied; what a granule of another module holds nothing here decides (log 17). -/
def State.copyArea (s : State) (dst src : List (Option Nat)) : State :=
  (dst.zip src).foldl (fun s e =>
    match e.1, e.2 with
    | some d, some k => s.store d 0x10000 (s.mem.readNat k 0x10000)
    | some d, none => s.scribble d 0x10000
    | none, _ => s) s

/-- The context whose area is copied neither runs nor is empty or killed. -/
def Part.stopped (p : Part) (c : Nat) : Bool := (p.ctx c).st != 0 && (p.ctx c).st != 4 && p.running != some c

/-- Both directions: the area and the place of s[A], or the status. An area that the context's table does not map has status 0x03
(log 24). -/
def State.areas (s : State) (t : StreamId) (f : FmtA) : Except Byte (List (Option Nat) × List (Nat × Nat × Word)) :=
  let c := s.core t.core
  let ctx : BitVec 3 := (s.reg t f.b).extractLsb' 0 3
  let p := s.part c.tag.toNat
  if !p.stopped ctx.toNat then .error 0x04
  else
    match s.ownArea t.core (s.reg t f.a) with
    | none => .error 0x04
    | some mine =>
      match s.areaKeys c.tag ctx ((p.ctx ctx.toNat).area c.lcore.toNat) with
      | none => .error 0x03
      | some area => .ok (area, mine)

/-- An image for a context that none holds (R354; log 25). -/
def CtxImage.empty : CtxImage := ⟨[], [], [], Links.reset, [], [], [], []⟩

def ctxsBody (t : StreamId) (f : FmtA) (s : State) : Run State :=
  if (s.reg t f.b).extractLsb' 3 61 != 0 then trap 0x01
  else do
    s.supervisor t
    let c := s.core t.core
    match s.areas t f with
    | .error st => setD s t f (st.setWidth 64)
    | .ok (area, mine) =>
      let s := mine.foldl (fun s e => s.dirty c.tag c.ctx e.2.1 e.2.2) (s.copyArea (mine.map fun e => some e.1) area)
      setD s t f 0

/-- CTXS (R379). -/
def execCtxs (f : FmtA) (s : State) : Host.Outcome State Fault Refusal := issueA (entSys 0xF4 usedDab) anyFields ctxsBody f s

def ctxlBody (t : StreamId) (f : FmtA) (s : State) : Run State :=
  if (s.reg t f.b).extractLsb' 3 61 != 0 then trap 0x01
  else do
    s.supervisor t
    let c := s.core t.core
    match s.areas t f with
    | .error st => setD s t f (st.setWidth 64)
    | .ok (area, mine) =>
      let k := 8 * c.tag.toNat + ((s.reg t f.b).extractLsb' 0 3).toNat
      let s := s.copyArea area (mine.map fun e => some e.1)
      let x := (NMap.find s.saved k).getD CtxImage.empty
      setD { s with saved := NMap.set s.saved k x } t f 0

/-- CTXL (R379). -/
def execCtxl (f : FmtA) (s : State) : Host.Outcome State Fault Refusal := issueA (entSys 0xF5 usedDab) anyFields ctxlBody f s

/-! ### Management commands: PTAG and KEYI (R376, R380) -/

/-- A privilege 2 instruction: denied to every stream, carried out from a core's command area, its status for the management complex. -/
def issueManage (op : Byte) (u : Used) (act : Nat → Word → Word → State → Word × State) (f : FmtA) (s : State) :
    Host.Outcome State Fault Refusal :=
  match s.cur with
  | .command core a b => .next { (act core a b s).2 with notices := (act core a b s).2.notices ++ [(act core a b s).1] }
  | _ => issueA (entSys op u) anyFields (fun _ _ _ => trap 0x0D) f s

/-- The position that a core word names on this module (R102). -/
def State.corePlace (s : State) (w : Word) : Option Nat :=
  let x := (w.extractLsb' 0 6).toNat
  let y := (w.extractLsb' 6 6).toNat
  if w.extractLsb' 25 39 == 0 && s.isOwn (w.extractLsb' 12 13) && decide (x < 48) && decide (y < 48) then some (posOf x y) else none

def Core.occupied (c : Core) : Bool := c.slots.toList.any fun sl => sl.st != 0
def Core.anyEnabled (c : Core) : Bool := c.ch.cfg.toList.any cfgEn

/-- The codes that an operation may end with (R57): 0x01 is COPYB's alone, and 0x0A stands in state words only. -/
def statusCodes : List Word := [0x00, 0x03, 0x04, 0x05, 0x06, 0x07, 0x08, 0x09, 0x0B, 0x0C, 0x0D, 0x0E, 0x0F]

/-- PTAG; which code a word that names no core of this module has is not stated (log 26). -/
def ptagAct (_ : Nat) (a b : Word) (s : State) : Word × State :=
  match s.corePlace a with
  | none => (statusCodes.getD (s.freeWord.1.toNat % 13) 0, s.freeWord.2)
  | some p =>
    let c := s.core p
    if c.occupied || c.anyEnabled then (0x04, s)
    else (0, s.setCore p { c with partTag := b &&& 0xFFFF0FFF000007FF, lost := false })

/-- PTAG (R380). -/
def execPtag (f : FmtA) (s : State) : Host.Outcome State Fault Refusal := issueManage 0xF6 usedDab ptagAct f s

/-- A B image whose bytes nothing constrains: of a task that has not loaded it whole the pieces that are there, else every column of B and of
its scales. -/
def State.freeImage (s : State) (x : Half) (b : BImage) : BImage × State :=
  let draw (n len : Nat) (s : State) : List Nat × State :=
    (List.range n).foldl (fun r _ => let v := r.2.freeNat len; (r.1 ++ [v.1], v.2)) ([], s)
  match x.run.filter fun u => !u.ready with
  | some u =>
    (u.r.imagePieces.take u.loaded).foldl (fun r y => let v := r.2.freeNat y.2.2.2.2; (r.1.put y v.1, v.2))
      ({ b with cols := b.cols.map fun _ => 0, scales := b.scales.map fun _ => 0 }, s)
  | none =>
    let k := b.key.getD 4 0
    let cs := draw b.cols.length (max (k / 4) (rowBytes (b.key.getD 2 0) k)) s
    let ss := draw b.scales.length (k / 32) cs.2
    ({ b with cols := cs.1, scales := ss.1 }, ss.2)

/-- What stood in the vaults and the B-stores under a key that is gone nothing constrains (R16, R218, R380; log 8). -/
def State.loseLines (s : State) (slot : Nat) : State :=
  let tag := slot / 8
  let mine := s.regions.filter fun e =>
    decide (2 ^ 48 ≤ e.1) && decide (e.1 < 2 ^ 49) && e.2.st != .unclaimed && e.2.tag.toNat == tag && e.2.ctx.toNat == slot % 8
  let s := mine.foldl (fun s e => s.scribble e.1 (pageLen e.2.size)) s
  if (s.part tag).running ≠ some (slot % 8) then s
  else (s.part tag).halves.foldl (fun s e =>
    (s.half e.2).image.elim s fun b =>
      let r := s.freeImage (s.half e.2) b
      r.2.modHalf e.2 fun x => { x with image := some r.1 }) s

/-- A fresh key enters a slot. -/
def State.newKey (s : State) (slot : Nat) : State := { s with keys := NMap.set s.keys slot s.free, free := s.free + 1 }

def keyiAct (_ : Nat) (a _ : Word) (s : State) : Word × State :=
  if a.extractLsb' 9 55 != 0 then (0x07, s) else (0, (s.loseLines a.toNat).newKey a.toNat)

/-- KEYI (R380). -/
def execKeyi (f : FmtA) (s : State) : Host.Outcome State Fault Refusal := issueManage 0xF9 usedDa keyiAct f s

/-! ### LCTW (R349, R381) -/

/-- An entry of the logical core table. -/
def lctEntry (p : Nat) : Nat := 2 ^ 31 + 64 * posY p + posX p
def Core.lctKey (c : Core) (n : Nat) : Nat := lpddrKey ((c.lctBase.extractLsb' 12 28).toNat * 4096 + 4 * n)

def lctwBody (t : StreamId) (f : FmtA) (s : State) : Run State := do
  s.supervisor t
  let c := s.core t.core
  let n := (s.reg t f.a).toNat
  if c.nCores ≤ n then setD s t f 0x07
  else
    match (s.corePlace (s.reg t f.b)).filter fun p => (s.core p).valid && (s.core p).tag == c.tag with
    | none => setD s t f 0x04
    | some p => setD (s.store (c.lctKey n) 4 (lctEntry p)) t f 0

/-- LCTW (R381). -/
def execLctw (f : FmtA) (s : State) : Host.Outcome State Fault Refusal := issueA (entSys 0xF7 usedDab) anyFields lctwBody f s

/-! ### GANG (R352, R382) -/

/-- A switch is pending: accepted, and its T has not passed; one to another context stays so until it is done. -/
def Part.pending (p : Part) (now : Word) : Bool :=
  match p.gang with
  | some (c, t) => now.ult t || p.running != some c
  | none => false

/-- GANG FN 0: PASS of the named context advances when it has a stride. -/
def Part.named (p : Part) (c : Nat) : Option (Nat × Part) :=
  let x := p.ctx c
  if x.st = 1 ∨ x.st = 2 then
    some (c, if x.tickets = 0 then p else p.setCtx c { x with pass := x.pass + stride x.tickets })
  else none

/-- A gang switch is requested: the result word and the state. -/
def State.gang (s : State) (tag : Nat) (choose : Part → Option (Nat × Part)) (at_ : Word) : Word × State :=
  let p := s.part tag
  if p.pending s.time then (0x04, s)
  else if at_.toNat < s.time.toNat + 20000 then (0x07, s)
  else
    match choose p with
    | none => (0x04, s)
    | some (c, p) => (BitVec.ofNat 64 (256 * c), s.setPart tag { p with gang := some (c, at_) })

def gangBody (choose : Word → Part → Option (Nat × Part)) (named : Bool) (t : StreamId) (f : FmtA) (s : State) : Run State :=
  let a := s.reg t f.a
  if named && a.extractLsb' 3 61 != 0 then trap 0x01
  else do
    s.supervisor t
    let r := s.gang (s.core t.core).tag.toNat (choose a) (s.reg t f.b)
    setD r.2 t f r.1

/-- The management complex requests a switch from a core's command area, which starts a partition's first context (R376; log 27). -/
def State.gangCommand (s : State) (core : Nat) (choose : Part → Option (Nat × Part)) (b : Word) : State :=
  let r := s.gang (s.core core).tag.toNat choose b
  { r.2 with notices := r.2.notices ++ [r.1] }

def byName (a : Word) (p : Part) : Option (Nat × Part) := p.named (a.extractLsb' 0 3).toNat
def byStride (_ : Word) (p : Part) : Option (Nat × Part) := p.next

/-- GANG (R382). -/
def execGang (f : FmtA) (s : State) : Host.Outcome State Fault Refusal :=
  match s.cur with
  | .command core a b => .next (s.gangCommand core (byName a) b)
  | _ => issueA (entSys 0xF8 usedDab) anyFields (gangBody byName true) f s
/-- GANG.next (R352, R382). -/
def execGangNext (f : FmtA) (s : State) : Host.Outcome State Fault Refusal :=
  match s.cur with
  | .command core a b => .next (s.gangCommand core (byStride a) b)
  | _ => issueA (entSys 0xF8 usedDb) anyFields (gangBody byStride false) f s

/-! ### MHALF (R282, R283, R383) -/

/-- A cleared half keeps its ramp and nothing else (R283, R398). -/
def Half.cleared (x : Half) : Half := { Half.reset with ramp := x.ramp }

def mhalfBody (t : StreamId) (f : FmtA) (s : State) : Run State := do
  s.supervisor t
  let tag := (s.core t.core).tag
  let l := (s.reg t f.a).toNat
  let h := (s.reg t f.b).toNat
  let p := s.part tag.toNat
  if 576 ≤ l ∨ 576 ≤ h then setD s t f 0x07
  else if !p.pool.contains h || (s.half h).owner.isSome || (NMap.find p.halves l).isSome then setD s t f 0x04
  else
    let s := s.setHalf h { (s.half h).cleared with owner := some tag }
    setD (s.setPart tag.toNat { p with halves := NMap.set p.halves l h }) t f 0

/-- MHALF (R383). -/
def execMhalf (f : FmtA) (s : State) : Host.Outcome State Fault Refusal := issueA (entSys 0xFA usedDab) anyFields mhalfBody f s

def mhalfRelBody (t : StreamId) (f : FmtA) (s : State) : Run State := do
  s.supervisor t
  let tag := (s.core t.core).tag
  let l := (s.reg t f.a).toNat
  let p := s.part tag.toNat
  if 576 ≤ l then setD s t f 0x07
  else
    match NMap.find p.halves l with
    | none => setD s t f 0x04
    | some h =>
      if (s.half h).run.isSome || !(s.half h).queue.isEmpty then setD s t f 0x04
      else setD ((s.setHalf h (s.half h).cleared).setPart tag.toNat { p with halves := NMap.erase p.halves l }) t f 0

/-- MHALF.rel (R383). -/
def execMhalfRel (f : FmtA) (s : State) : Host.Outcome State Fault Refusal := issueA (entSys 0xFA usedDa) anyFields mhalfRelBody f s

/-! ### DLOG (R222, R384) -/

/-- A new round: every mark of the context and OVF are cleared. -/
def State.newRound (s : State) (tag ctx : Nat) : State :=
  let clean (e : Nat × Region) : Nat × Region :=
    if e.2.tag.toNat == tag && e.2.ctx.toNat == ctx then (e.1, { e.2 with dirty := false }) else e
  let s := { s with regions := s.regions.map clean }
  s.modCtx tag ctx fun x => { x with dlog := x.dlog &&& ~~~(1#64 <<< 62) }

def dlogCtx (s : State) (t : StreamId) (f : FmtA) : Nat := ((s.reg t f.a).extractLsb' 0 3).toNat

def dlogBody (t : StreamId) (f : FmtA) (s : State) : Run State := do
  s.supervisor t
  let tag := (s.core t.core).tag.toNat
  let c := dlogCtx s t f
  if (s.ctx tag c).dlog.getLsbD 63 then setD (s.newRound tag c) t f 0 else setD s t f 0x04

/-- DLOG (R384). -/
def execDlog (f : FmtA) (s : State) : Host.Outcome State Fault Refusal := issueA (entSys 0xFB usedDa) anyFields dlogBody f s
/-- DLOG.rd (R384). -/
def execDlogRd (f : FmtA) (s : State) : Host.Outcome State Fault Refusal :=
  issueA (entSys 0xFB usedDa) anyFields (fun t f s => do
    s.supervisor t
    setD s t f (s.ctx (s.core t.core).tag.toNat (dlogCtx s t f)).dlog) f s

end Sys2Proof.Machine
end

