-- ==== Sys2Proof/Machine/Switch.lean ====
section
/-!
DEFINITION. The gang switch (R353 to R357): a context is taken out of its partition's units and put back into them, its save areas are
written and read, and the two events GANG_SWITCH and RESUME_BROADCAST.
-/
namespace Sys2Proof.Machine

/-! ### Positions and logical numbers: a context is kept by logical numbers (R349, R356) -/

def Core.relabel (g : Nat → Nat) (c : Core) : Core := { c with lace := c.lace.map fun l => { l with issuer := g l.issuer } }
def Binding.relabel (g : Nat → Nat) (b : Binding) : Binding := { b with core := g b.core, pool := b.pool.map fun c => (c.1, g c.2) }
def Inst.relabel (g : Nat → Nat) (x : Inst) : Inst :=
  { x with cores := x.cores.map fun c => (c.1, g c.2), leaving := x.leaving.map fun c => (c.1, g c.2)
           items := x.items.map fun c => (g c.1, c.2) }
def Links.relabel (g : Nat → Nat) (l : Links) : Links :=
  { l with binds := l.binds.map (Binding.relabel g), insts := l.insts.map (Inst.relabel g) }
def Outbound.relabel (g : Nat → Nat) (o : Outbound) : Outbound :=
  { o with issuer := g o.issuer, sender := o.sender.map fun x => (g x.1, x.2), pos := g o.pos }
def MRec.relabel (g : Nat → Nat) (r : MRec) : MRec := { r with core := g r.core }
def Half.relabel (g : Nat → Nat) (x : Half) : Half :=
  { x with queue := x.queue.map (MRec.relabel g), run := x.run.map fun u => { u with r := u.r.relabel g } }

/-- An image with `g` applied to every core that it names; a message in flight reaches the position that it was sent to (R386). -/
def CtxImage.relabel (g : Nat → Nat) (x : CtxImage) : CtxImage :=
  { x with
    cores := x.cores.map fun e => (e.1, e.2.relabel g)
    links := x.links.relabel g
    outbound := x.outbound.map (Outbound.relabel g)
    halves := x.halves.map fun e => (e.1, e.2.relabel g) }

/-- The position of a logical number in a partition, by the cores' own PARTTAG. -/
def State.placeOfLogical (s : State) (tag : BitVec 6) (n : Nat) : Option Nat :=
  (s.coresOf tag).find? fun p => (s.core p).lcore.toNat == n
def State.position (s : State) (tag : BitVec 6) (n : Nat) : Nat := (s.placeOfLogical tag n).getD (nCorePositions + n)
def State.logical (s : State) (p : Nat) : Nat := (s.core p).lcore.toNat

/-! ### Cores -/

/-- What stays with a core when its context changes: the core registers of R347, R349 and R364, its loss (R372) and the claims of R374. A
debug stop goes with the context (R409). -/
def Core.keep (c x : Core) : Core :=
  { x with
    partTag := c.partTag
    lctBase := c.lctBase
    trapVec := c.trapVec
    priv := c.priv
    lost := c.lost
    pmLent := c.pmLent
    traceLent := c.traceLent }

/-- A core with nothing of any context. -/
def Core.bare (c : Core) : Core := c.keep Core.reset

/-- Times that stop with a context: the start of a firing and the hold of a slot as spans, or spans as times (R133, R277). -/
def Core.flipTimes (now : Word) (c : Core) : Core :=
  { c with
    slots := c.slots.map fun sl => if sl.st = 0 then sl else { sl with started := now - sl.started }
    lace := c.lace.map fun l => if lsState l.word = 0 then l else { l with since := now - l.since } }

/-- Every stream stops at its boundary; an instruction that waits is saved as not executed (R353 step 2, R152, R195). -/
def Core.halt (c : Core) : Core :=
  { c with slots := c.slots.map fun sl => { sl with x := sl.x.stop, a := sl.a.stop }, takes := [] }

/-- The context's part of a core. -/
def Core.taken (now : Word) (c : Core) : Core := { c.halt.flipTimes now with grants := [], port := none }

/-- The requests that were running go on, and count as resumed (R264). -/
def Core.resumeReqs (c : Core) : Core :=
  { c with reqs := c.reqs.map fun r => if r.done ≠ 0 || c.reqTurn r then { r with resumed := true } else r }

/-- CTX of PARTTAG. -/
def Core.withCtx (c : Core) (ctx : BitVec 3) : Core :=
  { c with partTag := (c.partTag &&& ~~~0x700#64) ||| (ctx.setWidth 64 <<< 8) }

/-! ### A context leaves its partition's units, and enters them (R353 to R355) -/

/-- The cells of a core's local memory, from offset 0. -/
def State.localCells (s : State) (p : Nat) : Memory :=
  (s.mem.filter fun c => decide (localKey p 0 ≤ c.1) && decide (c.1 < localKey (p + 1) 0)).map fun c => ⟨c.1 - localKey p 0, c.2⟩

def State.clearLocal (s : State) (p : Nat) : State :=
  { s with
    mem := s.mem.clear (localKey p 0) (2 ^ 20)
    bad := s.bad.filter fun b => !(decide (localKey p 0 ≤ b) && decide (b < localKey (p + 1) 0)) }

/-- The key of byte `off` of logical core `n` in an image. -/
def savedCell (n off : Nat) : Nat := n * 2 ^ 20 + off

/-- A packet or a successor message of a context. -/
def Packet.of (p : Packet) (tag : BitVec 6) (ctx : BitVec 3) : Bool := p.tag == tag && p.ctx == ctx
def SuccMsg.of (m : SuccMsg) (tag : BitVec 6) (ctx : BitVec 3) : Bool := m.tag == tag && m.ctx == ctx

/-- The messages of a context that are under way, in the order in which each sender's reach their receivers: those that stand at a port
first (R355). -/
def State.spilled (s : State) (tag : BitVec 6) (ctx : BitVec 3) : List Packet :=
  ((s.coresOf tag).filterMap fun p => (s.core p).port) ++ s.mesh.filter fun p => p.of tag ctx

/-- The spill list that a message for core `p` is filed in, by logical number; a core that the partition no longer has keeps none, and the
message stays as it is (R355, R386). -/
def State.spillList (s : State) (tag : BitVec 6) (p : Nat) : Nat :=
  if (s.core p).valid && (s.core p).tag == tag then s.logical p else 4096 + p

/-- The image of the context that the partition's units hold. -/
def State.image (s : State) (tag : BitVec 6) (ctx : BitVec 3) : CtxImage :=
  let ps := s.coresOf tag
  CtxImage.relabel s.logical {
    cores := ps.foldl (fun m p => NMap.set m (s.logical p) ((s.core p).taken s.time)) []
    mem := ps.foldl (fun m p => (s.localCells p).foldl (fun m c => m.write (savedCell (s.logical p) c.1) c.2) m) []
    bad := ps.flatMap fun p =>
      (s.bad.filter fun b => decide (localKey p 0 ≤ b) && decide (b < localKey (p + 1) 0)).map fun b =>
        savedCell (s.logical p) (b - localKey p 0)
    links := s.link tag.toNat
    mesh := (s.spilled tag ctx).map fun k => (s.spillList tag k.dst, k)
    succs := (s.succs.filter fun m => m.of tag ctx).map fun m => (s.spillList tag m.dst, m)
    outbound := s.outbound.filter fun o => ps.contains o.issuer
    halves := (s.part tag.toNat).halves.map fun e => (e.1, s.half e.2) }

/-- A half as the next context finds it: its allotment and its ramp stay (R283, R398). -/
def Half.emptied (x : Half) : Half := { x.cleared with owner := x.owner }

/-- The partition's units hold no context. -/
def State.vacate (s : State) (tag : BitVec 6) (ctx : BitVec 3) : State :=
  let ps := s.coresOf tag
  let s := ps.foldl (fun s p => (s.clearLocal p).modCore p Core.bare) s
  let s := (s.part tag.toNat).halves.foldl (fun s e => (s.modHalf e.2 Half.emptied).rampDown e.2) s
  { s with
    links := NMap.erase s.links tag.toNat
    mesh := s.mesh.filter fun p => !p.of tag ctx
    succs := s.succs.filter fun m => !m.of tag ctx
    outbound := s.outbound.filter fun o => !ps.contains o.issuer
    stations := s.stations.map fun e =>
      (e.1, { e.2 with walks := e.2.walks.map fun w => { w with streams := w.streams.filter fun t => !ps.contains t.core } }) }

/-- The units hold the context of an image, over local memories that are zero (R353 step 5); B images are not kept (R293). -/
def State.fill (s : State) (tag : BitVec 6) (ctx : BitVec 3) (img : CtxImage) : State :=
  let img := img.relabel (s.position tag)
  let s := (s.coresOf tag).foldl State.clearLocal s
  let s := (s.coresOf tag).foldl (fun s p =>
    let c := (s.core p).withCtx ctx
    s.setCore p (match NMap.find img.cores c.lcore.toNat with
      | some x => c.keep (x.resumeReqs.flipTimes s.time)
      | none => c.bare)) s
  let at_ (k : Nat) : Option Nat := (s.placeOfLogical tag (k / 2 ^ 20)).map fun p => localKey p (k % 2 ^ 20)
  let s := img.mem.foldl (fun s c => (at_ c.1).elim s fun k => { s with mem := s.mem.write k c.2 }) s
  let s := (s.part tag.toNat).halves.foldl (fun s e =>
    match NMap.find img.halves e.1 with
    | some x => s.modHalf e.2 fun h => { x with owner := h.owner, ramp := h.ramp, image := none }
    | none => s) s
  { s with
    bad := s.bad ++ img.bad.filterMap at_
    links := NMap.set s.links tag.toNat img.links
    mesh := s.mesh ++ img.mesh.map (·.2)
    succs := s.succs ++ img.succs.map (·.2)
    outbound := s.outbound ++ img.outbound }

def savedKey (tag : BitVec 6) (ctx : Nat) : Nat := 8 * tag.toNat + ctx

/-! ### The save areas (R356, R357) -/

/-- The words of a core's area whose format the manual gives, by offset from 0xC_0000: frames, handler table, CHANCFG, CBUF, windows,
LACESLOT words and delay accounts (log 12). -/
def Core.areaWords (c : Core) : List (Nat × Word) :=
  ((List.range 5).flatMap fun k =>
    let sl := c.slot k
    if sl.st = 0 then [(0x2000 * k + 8 * 350, 0)] else (List.range frameWords).map fun i => (0x2000 * k + 8 * i, sl.frameWord k i)) ++
  ((List.range 64).flatMap fun i =>
    let e := c.handler i
    [(0xA000 + 24 * i, e.hw0), (0xA000 + 24 * i + 8, e.hw1), (0xA000 + 24 * i + 16, e.hw2)]) ++
  ((List.range 64).map fun i => (0xA600 + 8 * i, c.chanCfg i)) ++
  ((List.range 16).map fun i => (0xA800 + 8 * i, cbWord (c.buffer i))) ++
  ((List.range 4).map fun i => (0xA880 + 8 * i, vget 0 c.win i)) ++
  ((List.range 16).map fun i => (0xA8A0 + 32 * i, (c.laceSlot i).word)) ++
  ((List.range 65).flatMap fun e =>
    (List.range 4).map fun k => (0xB000 + 32 * e + 8 * k, accountField (c.account e) k))

/-- The records of a core's spill list: the messages under way to it with their words, oldest first; a successor message counts as its handle
and its four words (R355, R356). -/
def State.spillRecords (s : State) (tag : BitVec 6) (ctx : BitVec 3) (p : Nat) : List (List Word) :=
  ((s.spilled tag ctx).filter fun k => k.dst == p).map (·.words) ++
    (s.succs.filter fun m => m.of tag ctx && m.dst == p).map fun m => m.handle :: m.result

/-- The spill list: the byte count, then each record, a header word whose layout the manual does not state (log 12) and the packet (R356). -/
def State.writeSpill (s : State) (tag : BitVec 6) (ctx : BitVec 3) (va : Word) (rs : List (List Word)) : State :=
  let bytes := (rs.map fun r => 8 * (r.length + 1)).sum
  let ws := rs.flatMap fun r => none :: r.map some
  (ws.zipIdx).foldl (fun s w =>
    let at_ := va + BitVec.ofNat 64 (8 * (w.2 + 1))
    match w.1 with
    | some x => s.setVaWord tag ctx at_ x
    | none => s.freeWord.2.setVaWord tag ctx at_ s.freeWord.1) (s.setVaWord tag ctx va (BitVec.ofNat 64 bytes))

/-- The words of the records of a spill list, of the lengths that the machine spilled. -/
def State.readSpill (s : State) (tag : BitVec 6) (ctx : BitVec 3) : Word → List (List Word) → List (List Word)
  | _, [] => []
  | va, r :: rs =>
    (r.zipIdx.map fun w =>
      match s.vaKey tag ctx (va + BitVec.ofNat 64 (8 * (w.2 + 1))) with
      | some k => BitVec.ofNat 64 (s.mem.readNat k 8)
      | none => w.1) :: s.readSpill tag ctx (va + BitVec.ofNat 64 (8 * (r.length + 1))) rs

/-- A core's area is written; a granule that the context's table does not map is left out (R351, R356; log 12). -/
def State.writeArea (s : State) (tag : BitVec 6) (ctx : BitVec 3) (p : Nat) : State :=
  let c := s.core p
  let va (off : Nat) : Word := (s.ctx tag.toNat ctx.toNat).area c.lcore.toNat + BitVec.ofNat 64 off
  let s := (List.range 12).foldl (fun s g =>
    match s.vaKey tag ctx (va (0x10000 * g)) with
    | some k => s.store k 0x10000 (s.mem.readNat (localKey p (0x10000 * g)) 0x10000)
    | none => s) s
  let s := [12, 13, 14, 15].foldl (fun s g =>
    match s.vaKey tag ctx (va (0x10000 * g)) with
    | some k => s.scribble k 0x10000
    | none => s) s
  let rs := s.spillRecords tag ctx p
  let s := s.writeSpill tag ctx (va 0xCE000) rs
  match s.vaKey tag ctx (va 0xC0000) with
  | some k => c.areaWords.foldl (fun s e => s.store (k + e.1) 8 e.2.toNat) s
  | none => s

/-- A slot from its frame in the area, unless the frame is the one that the slot itself gives. -/
def Core.slotFromArea (c : Core) (k : Nat) (w : Nat → Word) : Slot :=
  let sl := c.slot k
  let st := (w 350).extractLsb' 0 3
  if st = 0 then (if sl.st = 0 then sl else { Slot.reset with trackers := sl.trackers, fenceNo := sl.fenceNo })
  else if sl.st ≠ 0 && (List.range frameWords).all (fun i => w i == sl.frameWord k i) then sl
  else { c.slotFrom sl w with st := st }

def cbOfWord (w : Word) : CBuf :=
  ⟨w.extractLsb' 52 12, w.extractLsb' 40 12, w.extractLsb' 29 11, w.extractLsb' 18 11, w.extractLsb' 14 4, w.extractLsb' 0 14⟩

/-- A core from the words of its area, by offset from 0xC_0000. Window words and handler words are taken as they stand, reserved bits and
malformed entries included, and CHANCFG words with reserved bits cleared and unchecked (R4, R114, R115, R141, R185; the model's choice,
log 96). -/
def Core.fromArea (c : Core) (w : Nat → Word) : Core :=
  { c with
    slots := Vector.ofFn fun (k : Fin 5) => c.slotFromArea k fun i => w (0x2000 * k + 8 * i)
    ch := { c.ch with
      handlers := Vector.ofFn fun (i : Fin 64) =>
        { c.handler i with hw0 := w (0xA000 + 24 * i), hw1 := w (0xA000 + 24 * i + 8), hw2 := w (0xA000 + 24 * i + 16) }
      cfg := Vector.ofFn fun (i : Fin 64) => w (0xA600 + 8 * i) &&& 0x8FFF3FFF
      accounts := (List.range 65).map fun e =>
        (e, ⟨w (0xB000 + 32 * e), w (0xB000 + 32 * e + 8), w (0xB000 + 32 * e + 16), w (0xB000 + 32 * e + 24)⟩) }
    cbuf := Vector.ofFn fun (i : Fin 16) => cbOfWord (w (0xA800 + 8 * i))
    win := Vector.ofFn fun (i : Fin 4) => w (0xA880 + 8 * i)
    lace := Vector.ofFn fun (i : Fin 16) => { c.laceSlot i with word := w (0xA8A0 + 32 * i) } }

/-- A core takes its state from its area, which CTXL may have replaced (R379). -/
def State.readArea (s : State) (tag : BitVec 6) (ctx : BitVec 3) (p : Nat) : State :=
  let c := s.core p
  let va (off : Nat) : Word := (s.ctx tag.toNat ctx.toNat).area c.lcore.toNat + BitVec.ofNat 64 off
  let s := (List.range 12).foldl (fun s g =>
    match s.vaKey tag ctx (va (0x10000 * g)) with
    | some k => { s with mem := s.mem.writeNat (localKey p (0x10000 * g)) 0x10000 (s.mem.readNat k 0x10000) }
    | none => s) s
  match s.vaKey tag ctx (va 0xC0000) with
  | some k => s.setCore p (c.fromArea fun off => BitVec.ofNat 64 (s.mem.readNat (k + off) 8))
  | none => s

/-- The messages that were spilled take their words from the lists of their cores (R355, R356). -/
def State.respill (s : State) (tag : BitVec 6) (ctx : BitVec 3) (img : CtxImage) : CtxImage :=
  let va (n : Nat) : Word := (s.ctx tag.toNat ctx.toNat).area n + BitVec.ofNat 64 0xCE008
  let recs (n : Nat) : List (List Word) :=
    s.readSpill tag ctx (va n) (((img.mesh.filter fun k => k.1 == n).map fun k => k.2.words) ++
      (img.succs.filter fun m => m.1 == n).map fun m => m.2.handle :: m.2.result)
  let before {α : Type} (xs : List (Nat × α)) (i n : Nat) : Nat := ((xs.take i).filter fun x => x.1 == n).length
  { img with
    mesh := img.mesh.zipIdx.map fun k =>
      if 4096 ≤ k.1.1 then k.1 else (k.1.1, { k.1.2 with words := (recs k.1.1).getD (before img.mesh k.2 k.1.1) k.1.2.words })
    succs := img.succs.zipIdx.map fun m =>
      if 4096 ≤ m.1.1 then m.1 else
      let n := (img.mesh.filter fun k => k.1 == m.1.1).length + before img.succs m.2 m.1.1
      match (recs m.1.1)[n]? with
      | some (h :: r) => (m.1.1, { m.1.2 with handle := h, result := r })
      | _ => m.1 }

/-- The VA of item `n` of an instance's slot in the partition save area. -/
def itemVa (psave : Word) (x : Inst) (n : Nat) : Word :=
  psave + BitVec.ofNat 64 (0x900000 + 0x40000 * x.owner + 0x1000 + 0x4000 * (if x.catchUp then 8 + x.stage else x.stage) + 256 * n)

/-- A queued record in 160 bytes: the snapshot, the FMT word in two words, the issuer, whose layout the manual does not state (log 12),
and the sequence number (R356). -/
def MRec.saveWords (r : MRec) (issuer : Word) : List Word :=
  let fmt := some (packF r.fmt)
  (List.range 16).map (fun i => r.desc.getD i 0) ++ [holding fmt false, holding fmt true, issuer, r.tk.seq.setWidth 64]

/-- A queued record with its snapshot and its FMT word as its 160 bytes have them. -/
def MRec.ofSave (r : MRec) (ws : List Word) : MRec :=
  if r.table.isSome then r
  else
    { r with
      desc := (List.range r.desc.length).map fun i => ws.getD i 0
      fmt := ((holdingOf (ws.getD 16 0) (ws.getD 17 0)).map unpackF).getD r.fmt }

/-- The partition save area: per logical half the queued records, the codebook table and the counters, per link table entry the held items;
its other parts have no stated format (R356; log 12). -/
def State.writePsave (s : State) (tag : BitVec 6) (ctx : BitVec 3) : State :=
  let psave := (s.ctx tag.toNat ctx.toNat).psave
  let put (s : State) (va : Word) (n x : Nat) : State := (s.vaKey tag ctx va).elim s fun k => s.store k n x
  let hide (s : State) (va : Word) (n : Nat) : State := (s.vaKey tag ctx va).elim s fun k => s.scribble k n
  let s := (s.part tag.toNat).halves.foldl (fun s e =>
    let base := psave + BitVec.ofNat 64 (0x4000 * e.1)
    let x := s.half e.2
    let s := hide s base 0x2800
    let s := (x.queue.zipIdx).foldl (fun s r =>
      put s.freeWord.2 (base + BitVec.ofNat 64 (160 * r.2)) 160 (wordsNat (r.1.saveWords s.freeWord.1))) s
    put (put s (base + 0x2800) 2048 (wordsNat x.codebook)) (base + 0x3000) 56 (wordsNat x.counters.toList)) s
  let s := ((s.link tag.toNat).binds.map (·.entry)).foldl (fun s e => hide s (psave + BitVec.ofNat 64 (0x900000 + 0x40000 * e)) 0x1000) s
  (s.link tag.toNat).insts.foldl (fun s x =>
    (x.held.zipIdx).foldl (fun s h => put s (itemVa psave x h.2) 256 (wordsNat h.1.words)) s) s

/-- The same parts are read back. -/
def State.readPsave (s : State) (tag : BitVec 6) (ctx : BitVec 3) : State :=
  let psave := (s.ctx tag.toNat ctx.toNat).psave
  let get (s : State) (va : Word) (n : Nat) (old : List Word) : List Word :=
    match s.vaKey tag ctx va with
    | some k => (wordsOf n (s.mem.readNat k (8 * n))).take old.length
    | none => old
  let s := (s.part tag.toNat).halves.foldl (fun s e =>
    let base := psave + BitVec.ofNat 64 (0x4000 * e.1)
    s.modHalf e.2 fun x =>
      { x with
        queue := x.queue.zipIdx.map fun r =>
          r.1.ofSave (get s (base + BitVec.ofNat 64 (160 * r.2)) 20 (r.1.saveWords 0))
        codebook := get s (base + 0x2800) 256 x.codebook
        counters := Vector.ofFn fun (i : Fin 7) => (get s (base + 0x3000) 7 x.counters.toList).getD i 0 }) s
  s.modLink tag.toNat fun l =>
    { l with insts := l.insts.map fun x =>
        { x with held := x.held.zipIdx.map fun h => { h.1 with words := get s (itemVa psave x h.2) 32 h.1.words } } }

/-! ### Capture and load (R353 steps 2 to 5, R368, R386) -/

/-- A precise trap that waited for the other stream, and a late fault that came before the switch instant, are taken before the capture; a
fault that came since, or that is on its way, is saved as pending (R42, R176, R368, R386). -/
def State.lateNow (T : Word) (s : State) (t : StreamId) : State :=
  match (s.strm t).late.find? fun l => l.kind == .parked || (l.kind != .vector && l.time.ult T) with
  | some l => if (s.slot t).st = 0 ∨ (s.slot t).st = 2 then s else s.enterLate t l
  | none => s

/-- A late fault is saved; it will be the first event of the resumed firing (R176, R368). -/
def Strm.saveLates (st : Strm) : Strm := { st with late := st.late.map fun l => { l with kind := .saved } }

def coreStreams (p : Nat) : List StreamId := (List.range 5).flatMap fun k => [⟨p, k, false⟩, ⟨p, k, true⟩]

/-- The trackers whose conditions the drain has met are free (R232, R234). -/
def State.freeTrackers (s : State) (p : Nat) : State :=
  (List.range 5).foldl (fun s k => s.modSlot ⟨p, k, false⟩ fun sl => { sl with trackers := s.openTrackers p k }) s

/-- The translations that writing a core's save area needs (R356, R404). -/
def State.touchArea (s : State) (p : Nat) : State :=
  let c := s.core p
  (List.range 16).foldl (fun s g =>
    s.touchPage p ((s.ctx c.tag.toNat c.ctx.toNat).area c.lcore.toNat + BitVec.ofNat 64 (0x10000 * g))) s

/-- A core drains at a switch instant `T`: slot commands that reached it before are carried out, its stores and block counters are written,
its records are sent (R353, R386). -/
def State.drainCore (T : Word) (s : State) (p : Nat) : State :=
  let s := ((s.core p).cmds.filter fun e => e.2.2.ult T).foldl (fun s e =>
    let t : StreamId := ⟨p, e.1, false⟩
    if (s.slot t).st = 2 then (if e.2.1 then s.abandon t else s.resumeSlot t) else s) s
  let s := (coreStreams p).foldl (State.lateNow T) s
  let es := (s.core p).sbuf
  let s := es.foldl (fun s e => s.entryGone p e) ((es.foldl (fun s e => s.performEntry p e) s).modCore p fun c => { c with sbuf := [] })
  let s := (s.core p).bbcFlush.bbcOut.foldl (fun s e => s.bbcWrite p e) s
  let s := ((s.flushTrace p).touchArea p).modCore p fun c =>
    let c := c.halt
    { c with
      cmds := c.cmds.filter fun e => !e.2.2.ult T
      bbc := []
      bbcOut := []
      slots := c.slots.map fun sl => { sl with x := sl.x.saveLates, a := sl.a.saveLates } }
  s.freeTrackers p

/-- Every unit of the partition stops and drains (R353 steps 2 and 3). -/
def State.drain (s : State) (tag : BitVec 6) (T : Word) : State :=
  let s := (s.coresOf tag).foldl (State.drainCore T) s
  let s := (s.part tag.toNat).halves.foldl (fun s e => s.preemptHalf e.2 0) s
  s.failWork tag.toNat

/-- The running context is captured into its save areas, for a switch at `T`, and the units are free (R353 step 4, R354). -/
def State.capture (s : State) (tag : BitVec 6) (ctx : BitVec 3) (T : Word) : State :=
  let s := s.drain tag T
  let s := (s.coresOf tag).foldl (fun s p => s.writeArea tag ctx p) s
  let s := s.writePsave tag ctx
  let img := s.image tag ctx
  let s := s.vacate tag ctx
  { s with saved := NMap.set s.saved (savedKey tag ctx.toNat) img }

/-- A context is loaded; one that has never run has every slot free, every channel disabled and local memory zero (R353 step 5). -/
def State.load (s : State) (tag : BitVec 6) (ctx : BitVec 3) : State :=
  match NMap.find s.saved (savedKey tag ctx.toNat) with
  | none => s.fill tag ctx CtxImage.empty
  | some img =>
    let s := { s with saved := NMap.erase s.saved (savedKey tag ctx.toNat) }.fill tag ctx (s.respill tag ctx img)
    ((s.coresOf tag).foldl (fun s p => s.readArea tag ctx p) s).readPsave tag ctx

/-- The partition runs context `c` from the resume broadcast on. -/
def State.start (s : State) (tag : BitVec 6) (c : Nat) : State :=
  (s.load tag (BitVec.ofNat 3 c)).modPart tag.toNat fun p =>
    { p.setCtx c { p.ctx c with st := 2 } with running := some c, starting := true }

/-- Work that a switch waits for: accesses of other cores and modules, stores that another module has not acknowledged, capability
instructions under way, and LDRs (R176, R186, R210, R234). -/
def State.settled (s : State) (tag : BitVec 6) : Bool :=
  (s.coresOf tag).all fun p =>
    (s.core p).ldrs.isEmpty && ((s.core p).sbuf.all fun e => e.module == 0x1FFF) && (coreStreams p).all fun t => !(s.strm t).unfinished

/-- The launch in placement goes back to its place in the queue (R361). -/
def Part.withdraw (p : Part) : Part :=
  match p.placing with
  | none => p
  | some x =>
    let before := p.queue.takeWhile fun l => decide (l.no < x.launch.no)
    { p with placing := none, queue := before ++ x.launch :: p.queue.drop before.length }

/-- GANG_SWITCH (R353): at T the outgoing context is captured and the next one loaded; when the context runs already, nothing happens but
the end of the pending switch. -/
def execGangSwitch (tag : Nat) (s : State) : Host.Outcome State Fault Refusal :=
  let p := s.part tag
  let tg : BitVec 6 := BitVec.ofNat 6 tag
  match p.gang with
  | none => .next s
  | some (c, at_) =>
    if s.time.ult at_ || p.starting then .next s
    else if p.running = some c then .next (s.setPart tag { p with gang := none })
    else if !s.settled tg then .next s
    else
      let s := s.modPart tag Part.withdraw
      let s := match p.running with
        | none => s
        | some d => (s.capture tg (BitVec.ofNat 3 d) at_).modCtx tag d fun x => { x with st := 1 }
      .next ((s.modPart tag fun p => { p with gang := none }).start tg c)

/-- No die of the partition relocks (R412). -/
def State.diesReady (s : State) (tag : BitVec 6) : Bool := (s.coresOf tag).all fun p => (s.die (dieOf p)).relock.isNone

/-- RESUME_BROADCAST: every core starts at one instant (R353 step 6). -/
def execResumeBroadcast (tag : Nat) (s : State) : Host.Outcome State Fault Refusal :=
  .next (if (s.part tag).starting && s.diesReady (BitVec.ofNat 6 tag) then s.modPart tag fun p => { p with starting := false } else s)

end Sys2Proof.Machine
end

