-- ==== Sys2Proof/Machine/Launch.lean ====
section
/-!
DEFINITION. The dispatcher: launches, gang images and their placement, withdrawal and retirement (R358 to R363, R422), with the completion
ring of the host (R414).
-/
namespace Sys2Proof.Machine

/-! ### Answers (R414, R422) -/

/-- The single word of an answer to REPLY. -/
def answerWord (reply : Word) (num : BitVec 16) (status : Byte) : Word := tgtCookie reply ++ num ++ 0#8 ++ status
/-- A completion slot. -/
def completionWord (num : BitVec 16) (i status : Byte) : Word := 0#32 ++ num ++ i ++ status

/-- The device writes a completion to slot C mod 256, and C increases (R414). -/
def Vf.complete (v : Vf) (num : BitVec 16) (i status : Byte) : Vf :=
  { v with slots := NMap.set v.slots (v.c.toNat % 256) (completionWord num i status), c := v.c + 1 }

/-- The answer for a launch that was queued: to REPLY, to the completion slot that it reserved, or for a packet with V = 0 to nobody (R414,
R418, R422). -/
def State.answerLaunch (s : State) (tag : BitVec 6) (l : Launch) (num : BitVec 16) (status : Byte) : State :=
  if tgtV l.reply then
    match s.supOf tag with
    | some p => s.route p none l.reply 2 false [answerWord l.reply num status]
    | none => s
  else
    match l.origin with
    | .host i => s.modPart tag.toNat fun p => { p with vf := { p.vf.complete num i status with pending := p.vf.pending - 1 } }
    | .packet => s

/-! ### The gang image (R359) -/

/-- The word at a VA of a context in a Published region that is no lace-once one (R269, R359); another module's word is whatever that
module answers (log 17). -/
def State.imageWord (s : State) (tag : BitVec 6) (ctx : BitVec 3) (va : Word) : Option Word × State :=
  match s.walk tag ctx va false with
  | none => (none, s)
  | some l =>
    if !s.isOwn l.module then
      let r := s.moduleAnswers l.module
      if r.1 then (some r.2.freeWord.1, r.2.freeWord.2) else (none, r.2)
    else if (s.region l.key).st ≠ .published || (s.region l.key).lace.isSome then (none, s)
    else (some (BitVec.ofNat 64 (s.mem.readNat (l.key + va.toNat % pageLen l.size) 8)), s)

def State.imageWords (s : State) (tag : BitVec 6) (ctx : BitVec 3) (va : Word) : Nat → Option (List Word) × State
  | 0 => (some [], s)
  | n + 1 =>
    match s.imageWord tag ctx va with
    | (none, s) => (none, s)
    | (some w, s) =>
      let r := s.imageWords tag ctx (va + 8) n
      (r.1.map (w :: ·), r.2)

/-- The words of an image after its count. -/
def State.readImage (s : State) (tag : BitVec 6) (l : Launch) : Option (List Word) × State :=
  match s.imageWord tag l.ctx l.image with
  | (none, s) => (none, s)
  | (some n, s) => s.imageWords tag l.ctx (l.image + 8) n.toNat

/-- `n` groups of a part of a record; none when the record ends before them or a group is malformed. -/
def takeHandlers : Nat → List Word → Option (List (BitVec 6 × Word × Word × Word) × List Word)
  | 0, ws => some ([], ws)
  | n + 1, i :: a :: b :: c :: ws =>
    if i.toNat < 64 && handlerOk a b c then (takeHandlers n ws).map fun r => ((BitVec.ofNat 6 i.toNat, a, b, c) :: r.1, r.2) else none
  | _, _ => none

def takeChans : Nat → List Word → Option (List (BitVec 6 × Word) × List Word)
  | 0, ws => some ([], ws)
  | n + 1, ch :: w :: ws =>
    if 2 ≤ ch.toNat ∧ ch.toNat ≤ 61 then (takeChans n ws).map fun r => ((BitVec.ofNat 6 ch.toNat, w) :: r.1, r.2) else none
  | _, _ => none

def takeLaces : Nat → List Word → Option (List (Nat × Word) × List Word)
  | 0, ws => some ([], ws)
  | n + 1, i :: w :: ws =>
    if i.toNat < 16 ∧ w.extractLsb' 25 39 = 0 ∧ laceFits w then (takeLaces n ws).map fun r => ((i.toNat, w) :: r.1, r.2) else none
  | _, _ => none

def msgCount (w : Word) : Nat := (w.extractLsb' 8 5).toNat
/-- The channel of a launch message: task packets alone arrive at channel 0, and no message is addressed to channel 63 (R116, R118). -/
def msgChan (w : Word) : BitVec 6 := w.extractLsb' 0 6

def takeMsgs : Nat → List Word → Option (List (BitVec 6 × List Word) × List Word)
  | 0, ws => some ([], ws)
  | n + 1, h :: ws =>
    if msgCount h = 0 ∨ ws.length < msgCount h ∨ msgChan h = 0 ∨ msgChan h = 63 then none
    else (takeMsgs n (ws.drop (msgCount h))).map fun r => ((msgChan h, ws.take (msgCount h)) :: r.1, r.2)
  | _, _ => none

def headLcore (w : Word) : Nat := (w.extractLsb' 0 12).toNat
def headNh (w : Word) : Nat := (w.extractLsb' 12 7).toNat
def headNc (w : Word) : Nat := (w.extractLsb' 19 7).toNat
def headNl (w : Word) : Nat := (w.extractLsb' 26 5).toNat
def headNm (w : Word) : Nat := (w.extractLsb' 31 7).toNat
def headOk (w : Word) : Bool :=
  w.extractLsb' 38 26 == 0 && decide (headNh w ≤ 64) && decide (headNc w ≤ 60) && decide (headNl w ≤ 16) && decide (headNm w ≤ 64)

/-- One record, for the core at the position that its LCORE has in the supervisor's table. -/
def State.takeRecord (s : State) (sup : Nat) : List Word → Option (GRec × List Word)
  | [] => none
  | h :: ws => do
    let pos ← if headOk h then s.lct sup (headLcore h) else none
    let (hs, ws) ← takeHandlers (headNh h) ws
    let (cs, ws) ← takeChans (headNc h) ws
    let (ls, ws) ← takeLaces (headNl h) ws
    let (ms, ws) ← takeMsgs (headNm h) ws
    some (⟨pos, hs, cs, ls, ms⟩, ws)

/-! ### Reservation (R360, R141) -/

def GRec.hs (r : GRec) : List (BitVec 6) := r.handlers.map (·.1)
def GRec.cs (r : GRec) : List (BitVec 6) := r.chans.map (·.1)
def GRec.ls (r : GRec) : List Nat := r.laces.map (·.1)

/-- A channel value that fails the checks of R141; a channel that is enabled is in use instead. -/
def Core.chanMalformed (c : Core) (e : BitVec 6 × Word) : Bool :=
  let st := c.chcfgStatus e.1.toNat e.2
  st == 0x08 || st == 0x07 || (st == 0x04 && !cfgEn (c.cfg e.1.toNat))

/-- What a record names is free: in the core, within the record, and beside the records that are reserved. -/
def State.recordFree (s : State) (old : List GRec) (r : GRec) : Bool :=
  let c := s.core r.pos
  let same := old.filter fun q => q.pos == r.pos
  r.hs.all (fun i => !hVALID (c.handler i.toNat).hw0) && r.cs.all (fun ch => !cfgEn (c.cfg ch.toNat)) &&
    r.ls.all (fun i => lsState (c.laceSlot i).word == 0) &&
    decide r.hs.Nodup && decide r.cs.Nodup && decide r.ls.Nodup &&
    same.all fun q => r.hs.all (fun i => !q.hs.contains i) && r.cs.all (fun i => !q.cs.contains i) && r.ls.all fun i => !q.ls.contains i

/-- Up to `n` more records are reserved, or the status of the failure. -/
def State.reserve (s : State) (sup : Nat) : Nat → Placing → Except Byte Placing
  | 0, x => .ok x
  | n + 1, x =>
    if x.rest.isEmpty then .ok x
    else
      match s.takeRecord sup x.rest with
      | none => .error 0x08
      | some (r, rest) =>
        if r.chans.any (s.core r.pos).chanMalformed then .error 0x08
        else if !s.recordFree x.recs r then .error 0x04
        else s.reserve sup n { x with recs := x.recs ++ [r], rest := rest }

/-! ### The go (R360, R363) -/

/-- The next launch number: not 0, and none that a live launch holds. -/
def Part.nextNum (p : Part) : BitVec 16 :=
  (((List.range 65536).map fun i => p.lastNum + 1 + BitVec.ofNat 16 i).find? fun n => n != 0 && p.live.all fun l => l.num != n).getD 0

/-- A record's entries, channels and lace words are written. -/
def GRec.write (r : GRec) (num : BitVec 16) (c : Core) : Core :=
  let c := r.handlers.foldl (fun c h => c.setHandler h.1.toNat ⟨h.2.1, h.2.2.1, h.2.2.2, num⟩) c
  let c := r.chans.foldl (fun c e => c.chcfgWrite e.1.toNat e.2) c
  r.laces.foldl (fun c e => c.setLace e.1 { c.laceSlot e.1 with word := e.2 }) c

/-- A launch message: KIND 0, its SENDER the receiving core. -/
def State.launchMessage (s : State) (p : Nat) (ch : BitVec 6) (words : List Word) : State :=
  let c := s.core p
  let h := header s.time c.lcore (BitVec.ofNat 5 words.length) ch 0 false false
  s.inject ⟨p, p, c.tag, c.ctx, ch, h :: words, targetWord ch 0x1FFF c.lcore, none⟩

/-- Every record at once: what it writes, then every launch message. -/
def State.go (s : State) (tag : BitVec 6) (l : Launch) (recs : List GRec) : State :=
  let num := (s.part tag.toNat).nextNum
  let s := recs.foldl (fun s r => s.modCore r.pos (r.write num)) s
  let s := recs.foldl (fun s r => r.msgs.foldl (fun s m => s.launchMessage r.pos m.1 m.2) s) s
  let live : Live :=
    ⟨num, l, recs.map fun r => s.logical r.pos, recs.flatMap fun r => r.cs.map fun ch => (s.logical r.pos, ch), 0⟩
  s.modPart tag.toNat fun p => { p with placing := none, live := p.live ++ [live], lastNum := num }

/-! ### Placement and withdrawal (R358, R360, R361) -/

/-- The launch to serve: of the running context, the highest PRIO, within it the first to arrive. -/
def Part.nextLaunch (p : Part) : Option Launch :=
  (p.queue.filter fun l => p.running == some l.ctx.toNat).foldl (fun b l =>
    match b with
    | none => some l
    | some m => if m.prio.ult l.prio then some l else b) none

/-- A launch of higher PRIO for the running context waits behind the one in placement. -/
def Part.outranked (p : Part) : Bool :=
  p.placing.any fun x => p.queue.any fun l => p.running == some l.ctx.toNat && x.launch.prio.ult l.prio

def State.placeFails (s : State) (tag : BitVec 6) (l : Launch) (status : Byte) : State :=
  (s.modPart tag.toNat fun p => { p with placing := none }).answerLaunch tag l 0 status

/-- A lace slot that a record names has left state Empty since it was reserved: its write would be ignored, and the placement fails (R265). -/
def State.laceTaken (s : State) (r : GRec) : Bool := r.ls.any fun i => lsState ((s.core r.pos).laceSlot i).word != 0

/-- Reservation goes on; when every record is reserved the go follows. -/
def State.placeLaunch (s : State) (tag : BitVec 6) (x : Placing) (n : Nat) : State :=
  match s.reserve ((s.supOf tag).getD nCorePositions) n x with
  | .error st => s.placeFails tag x.launch st
  | .ok x =>
    if !x.rest.isEmpty then s.modPart tag.toNat fun p => { p with placing := some x }
    else if x.recs.any s.laceTaken then s.placeFails tag x.launch 0x04
    else s.go tag x.launch x.recs

/-- The dispatcher works for the running context only, between its start and T (R353, R386). -/
def State.dispatches (s : State) (tag : Nat) : Bool :=
  let p := s.part tag
  p.running.isSome && !p.starting && !s.halts tag

/-- LAUNCH_PLACEMENT (R360). -/
def execLaunchPlacement (tag n : Nat) (s : State) : Host.Outcome State Fault Refusal :=
  let p := s.part tag
  let tg : BitVec 6 := BitVec.ofNat 6 tag
  if !s.dispatches tag || p.outranked then .next s
  else
    match p.placing, p.nextLaunch with
    | some x, _ => .next (s.placeLaunch tg x n)
    | none, some l =>
      let s := s.setPart tag { p with queue := p.queue.filter fun m => m.no != l.no }
      match s.readImage tg l with
      | (none, s) => .next (s.placeFails tg l 0x08)
      | (some ws, s) => .next (s.placeLaunch tg ⟨l, [], ws⟩ n)
    | none, none => .next s

/-- LAUNCH_WITHDRAW (R361): for a launch of higher PRIO or at T; a kill withdraws by itself. -/
def execLaunchWithdraw (tag : Nat) (s : State) : Host.Outcome State Fault Refusal :=
  let p := s.part tag
  .next (if p.outranked || s.halts tag then s.setPart tag p.withdraw else s)

/-! ### Retirement (R362, R363) -/

/-- A message for channel `ch` of core `p` that a ring, the heap, the port or the mesh holds. -/
def State.holdsMessage (s : State) (p : Nat) (ch : BitVec 6) : Bool :=
  let c := s.core p
  !(c.chRing ch.toNat).msgs.isEmpty || c.heapCount ch.toNat != 0 || c.port.any (fun q => q.chan == ch) ||
    s.mesh.any fun q => q.dst == p && q.chan == ch

/-- The packets for core `p` that its channel unit or the mesh holds. -/
def State.packetsAt (s : State) (p : Nat) : List (List Word) :=
  let c := s.core p
  ((c.untaken 0).map fun m => s.ringWords p 0 m) ++ ((c.ch.heap.filter fun m => m.chan == 0).map (·.words)) ++
    ((s.mesh ++ c.port.toList).filter fun q => q.dst == p && q.chan == 0).map (·.words)

/-- A packet that names a handler of a launch. -/
def State.namesHandler (s : State) (p : Nat) (num : BitVec 16) (words : List Word) : Bool :=
  ((s.core p).handler (thHidx (words.getD 1 0)).toNat).launch == num

/-- Work of a launch at a core: firings, requests and tours. -/
def Core.worksFor (c : Core) (num : BitVec 16) : Bool :=
  c.slots.toList.any (fun sl => sl.st != 0 && sl.launch == num) || c.reqs.any (fun r => r.tk.launch == num) ||
    c.tours.any fun u => u.tk.launch == num && !u.ended

/-- Records of a launch in a half. -/
def Half.worksFor (x : Half) (num : BitVec 16) : Bool :=
  x.queue.any (fun r => r.tk.launch == num) || x.run.any fun u => u.r.tk.launch == num

/-- Something of the launch is left. -/
def State.busy (s : State) (tag : BitVec 6) (l : Live) : Bool :=
  let ps := s.coresOf tag
  ps.any (fun p => (s.core p).worksFor l.num) || (l.chans.any fun e => s.holdsMessage (s.position tag e.1) e.2) ||
    ps.any (fun p => (s.packetsAt p).any (s.namesHandler p l.num)) ||
    (s.part tag.toNat).halves.any (fun e => (s.half e.2).worksFor l.num) || (s.link tag.toNat).binds.any fun b => b.launch == l.num

/-- The entries of a launch are written to zero. -/
def Core.dropEntries (c : Core) (num : BitVec 16) : Core :=
  { c with ch := { c.ch with handlers := c.ch.handlers.map fun e => if e.launch == num then HEntry.zero else e } }
/-- A channel is disabled, with what it holds. -/
def Core.disable (c : Core) (ch : BitVec 6) : Core := c.chcfgWrite ch.toNat (c.cfg ch.toNat &&& ~~~0x80000000#64)

/-- A launch retires: its entries and channels go, its lace tags end, its number is free. -/
def State.retireLaunch (s : State) (tag : BitVec 6) (l : Live) : State :=
  let s := (s.coresOf tag).foldl (fun s p => s.modCore p fun c => c.dropEntries l.num) s
  let s := l.chans.foldl (fun s e => s.modCore (s.position tag e.1) fun c => c.disable e.2) s
  let untag (e : Nat × Region) : Nat × Region :=
    if e.2.laceLaunch == some (tag, l.num) then (e.1, { e.2 with laceLaunch := none, laceRead := [] }) else e
  { s with regions := s.regions.map untag }.modPart tag.toNat fun p => { p with live := p.live.filter fun x => x.num != l.num }

/-- LAUNCH_RETIRE (R362). -/
def execLaunchRetire (tag : Nat) (launch : BitVec 16) (s : State) : Host.Outcome State Fault Refusal :=
  let p := s.part tag
  let tg : BitVec 6 := BitVec.ofNat 6 tag
  match p.live.find? fun l => l.num == launch with
  | none => .next s
  | some l =>
    if p.running ≠ some l.launch.ctx.toNat || p.starting || s.busy tg l then .next s
    else .next ((s.retireLaunch tg l).answerLaunch tg l.launch l.num 0)

end Sys2Proof.Machine
end

