-- ==== Sys2Proof/Machine/Kill.lean ====
section
/-!
DEFINITION. Kills and their report (R129, R220, R373), the reset of launch work by HALT.q (R375), HALT, OP 0xFC (R385), and the loss of a
core (R372).
-/
namespace Sys2Proof.Machine

/-! ### The kill report (R373) -/

def reportWord0 (cause source : Byte) (now : Word) : Word := now.extractLsb' 0 32 ++ 0#16 ++ source ++ cause

/-- Words 8 to 11 for the cores, incomplete trackers, halves and bindings of the context. -/
def killReport (cause source : Byte) (now : Word) (cores : List Core) (trackers : Nat) (halves : List Half) (binds : Nat) : List Word :=
  let slots := cores.flatMap fun c => c.slots.toList
  let sum (f : Core → Nat) : Nat := (cores.map f).sum
  let firings := (slots.filter fun sl => sl.st != 0).length
  let tasks := (halves.map fun x => (x.queue.filter fun r => r.table.isNone).length + (if x.run.isSome then 1 else 0)).sum
  let tours := sum fun c => (c.tours.filter fun u => !u.ended).length
  [reportWord0 cause source now, BitVec.ofNat 32 firings ++ BitVec.ofNat 32 trackers,
    BitVec.ofNat 16 binds ++ BitVec.ofNat 16 tours ++ BitVec.ofNat 16 tasks ++ BitVec.ofNat 16 (sum fun c => c.reqs.length),
    BitVec.ofNat 64 (sum fun c => c.sbuf.length)]

/-- The trackers of a core that are not complete (R234). -/
def State.trackersAt (s : State) (p : Nat) : Nat := ((List.range 5).map fun k => (s.openTrackers p k).length).sum

/-- The report of a context that runs, or of the image of one that does not: its capture has freed the complete trackers. -/
def State.reportOf (s : State) (tag : BitVec 6) (c : Nat) (cause source : Byte) : List Word :=
  if (s.part tag.toNat).running = some c then
    killReport cause source s.time ((s.coresOf tag).map s.core) ((s.coresOf tag).map s.trackersAt).sum ((s.part tag.toNat).halves.map fun e => s.half e.2)
      (s.link tag.toNat).binds.length
  else
    let x := (NMap.find s.saved (savedKey tag c)).getD CtxImage.empty
    killReport cause source s.time (x.cores.map (·.2)) (x.cores.flatMap fun e => e.2.slots.toList.map fun sl => sl.trackers.length).sum
      (x.halves.map (·.2)) x.links.binds.length

/-! ### Teardown (R220) -/

def Region.belongs (r : Region) (tag : BitVec 6) (ctx : BitVec 3) : Bool := r.st != .unclaimed && r.tag == tag && r.ctx == ctx

/-- A region's record is Unclaimed and its frame reads as zeros. -/
def State.scrub (s : State) (key n : Nat) : State :=
  { s with
    mem := s.mem.clear key n
    bad := s.bad.filter fun b => !(decide (key ≤ b) && decide (b < key + n))
    regions := NMap.erase s.regions key }

/-- No station and no cluster cache holds anything of a context. -/
def State.dropLines (s : State) (tag : BitVec 6) (ctx : BitVec 3) : State :=
  { s with
    stations := s.stations.map fun e => (e.1, { e.2 with cache := e.2.cache.filter fun t => !(t.tag == tag && t.ctx == ctx) })
    icache := s.icache.map fun e => (e.1, e.2.filter fun l => !(l.tag == tag && l.ctx == ctx)) }

/-- The key, the regions, the translations and the lines of a context go. -/
def State.teardown (s : State) (tag : BitVec 6) (ctx : BitVec 3) : State :=
  let s := (s.regions.filter fun e => e.2.belongs tag ctx).foldl (fun s e => s.scrub e.1 (pageLen e.2.size)) s
  { s.dropLines tag ctx with
    keys := NMap.erase s.keys (savedKey tag ctx.toNat)
    saved := NMap.erase s.saved (savedKey tag ctx.toNat)
    stations := (s.dropLines tag ctx).stations.map fun e =>
      (e.1, { e.2 with walks := e.2.walks.filter fun w => !(w.tag == tag && w.ctx == ctx) }) }

/-! ### The kill (R373) -/

/-- The launches of a context with their numbers: those that live, then those of the queue (R362, R422). -/
def Part.launchesOf (p : Part) (c : Nat) : List (Launch × BitVec 16) :=
  let p := p.withdraw
  ((p.live.filter fun l => l.launch.ctx.toNat == c).map fun l => (l.launch, l.num)) ++
    (p.queue.filter fun l => l.ctx.toNat == c).map fun l => (l, 0)

def Part.dropQueue (p : Part) (c : Nat) : Part :=
  let p := if p.placing.any fun x => x.launch.ctx.toNat == c then p.withdraw else p
  { p with queue := p.queue.filter fun l => l.ctx.toNat != c }
def Part.dropLaunches (p : Part) (c : Nat) : Part := { p.dropQueue c with live := p.live.filter fun l => l.launch.ctx.toNat != c }

/-- Each launch is answered with 0x09. -/
def State.answerAll (s : State) (tag : BitVec 6) (ls : List (Launch × BitVec 16)) : State :=
  ls.foldl (fun s l => s.answerLaunch tag l.1 l.2 0x09) s

/-- STATE 4 with its report; the registers of the context go, a pending switch that names it is cancelled (R386). -/
def Part.killed (p : Part) (c : Nat) (report : List Word) : Part :=
  let p := p.dropLaunches c
  let p := p.setCtx c { p.ctx c with st := 4, kill := report, dlog := 0, bbcBase := 0, trace := none, lostTrace := 0 }
  let gang := match p.gang with
    | some (d, _) => if d = c then none else p.gang
    | none => none
  if p.running = some c then { p with gang := gang, running := none, starting := false } else { p with gang := gang }

/-- The ring entries of what a running context's units still work on: vector stores in the store buffers, requests, tours and tasks. -/
def State.unitWork (s : State) (tag : BitVec 6) : List (Nat × BitVec 16) :=
  ((s.coresOf tag).flatMap fun p =>
    ((s.core p).sbuf.filterMap fun e => e.vec.map fun v => (p, v.1)) ++ ((s.core p).reqs.map fun r => (p, r.tk.seq)) ++ ((s.core p).tours.filter fun u => !u.ended).map fun u => (p, u.tk.seq)) ++
  (s.part tag.toNat).halves.flatMap fun e =>
    ((s.half e.2).queue ++ ((s.half e.2).run.map (·.r)).toList).map fun r => (r.core, r.tk.seq)

/-- The units are vacated by a kill; the dispatch rings show the cancelled work with status 0x09 until another context is loaded (R259, R277,
R306). -/
def State.vacateKilled (s : State) (tag : BitVec 6) (ctx : BitVec 3) : State :=
  let marked := (s.unitWork tag).foldl (fun s e => s.dispatchEnd e.1 e.2 .cancelled 0x09) s
  (s.coresOf tag).foldl (fun s p => s.modCore p fun c => { c with ring := (marked.core p).ring }) (s.vacate tag ctx)

/-- A context is killed; when it was running the partition switches to NEXT at once. -/
def State.kill (s : State) (tag : BitVec 6) (c : Nat) (cause source : Byte) : State :=
  let ctx := BitVec.ofNat 3 c
  let p := s.part tag.toNat
  let report := s.reportOf tag c cause source
  let s := if p.running = some c then s.vacateKilled tag ctx else s
  let s := (s.teardown tag ctx).setPart tag.toNat (p.killed c report)
  let s := if p.running ≠ some c then s
    else match (s.part tag.toNat).next with
      | some (d, p) => (s.setPart tag.toNat p).start tag d
      | none => s
  s.answerAll tag (p.launchesOf c)

/-- A context that a kill or HALT.q may name (R385). -/
def Part.present (p : Part) (c : Nat) : Bool := (p.ctx c).st != 0 && (p.ctx c).st != 4

/-- CONTEXT_KILL (R373): source 1 for the management complex and the host alike. -/
def execContextKill (tag ctx : Nat) (cause : BitVec 8) (_byHost : Bool) (s : State) : Host.Outcome State Fault Refusal :=
  .next (if ctx < 8 && (s.part tag).present ctx then s.kill (BitVec.ofNat 6 tag) ctx cause 1 else s)

/-! ### HALT.q (R375) -/

/-- The last buffered record of a context's cores carries TRUNC and the cause (R408). -/
def truncRecord (cause : Byte) (r : List Word) : List Word :=
  match r with
  | w :: ws => (w ||| (1#64 <<< 59) ||| (cause.setWidth 64 <<< 51)) :: ws
  | [] => []

def truncLast (cause : Byte) : List (List Word) → List (List Word)
  | [] => []
  | [r] => [truncRecord cause r]
  | r :: rs => r :: truncLast cause rs

/-- The buffered tail is written out first. -/
def State.flushTail (s : State) (tag : BitVec 6) (cause : Byte) : State :=
  let ps := s.coresOf tag
  let s := match (ps.filter fun p => !(s.core p).trace.isEmpty).getLast? with
    | some p => s.modCore p fun c => { c with trace := truncLast cause c.trace }
    | none => s
  s.flushAll tag

/-- A firing stops as under a kill, with no record (R129, R412). A region that its HAND has put into Handing stays there (R207; the model's
choice, log 101). -/
def State.stopFiring (s : State) (t : StreamId) : State :=
  ((s.endTrackers t).freeSlot t).modCore t.core fun c => { c with takes := c.takes.filter fun w => w.slot != t.slot }

/-- An outbound copy is cancelled; a slot that it was filling is Empty again. -/
def State.cancelCopy (s : State) (o : Outbound) : State :=
  let s := { s with outbound := s.outbound.filter (· != o) }
  if o.phase = .sending then s.setLaceWord o.pos o.slot (lsEmpty (s.laceWord o.pos o.slot)) else s

/-- Requests and tours of a launch at a core are cancelled, their ring entries with status 0x09; a tour ends with
the masks that it has (R259, R277, R280). -/
def State.cancelAt (s : State) (p : Nat) (num : BitVec 16) : State :=
  let c := s.core p
  let tours := c.tours.filter fun u => u.tk.launch == num && !u.ended
  let seqs := ((c.reqs.filter fun r => r.tk.launch == num).map (·.tk.seq)) ++ tours.map (·.tk.seq)
  let s := (s.outbound.filter fun o => o.issuer == p && tours.any fun u => u.tk.seq == o.seq).foldl State.cancelCopy s
  let s := seqs.foldl (fun s q => s.dispatchEnd p q .cancelled 0x09) s
  s.modCore p fun c =>
    { c with
      reqs := c.reqs.filter fun r => r.tk.launch != num
      tours := c.tours.map fun u => if u.tk.launch == num then { u with told := true, ended := true } else u }

/-- Records of a launch in a half are cancelled, and a B image that is not whole goes with its task (R293, R306). -/
def State.cancelHalf (s : State) (h : Nat) (num : BitVec 16) : State :=
  let x := s.half h
  let gone := (x.queue ++ (x.run.map (·.r)).toList).filter fun r => r.tk.launch == num
  let s := gone.foldl (fun s r => s.dispatchEnd r.core r.tk.seq .cancelled 0x09) s
  (s.setHalf h { x with
    queue := x.queue.filter fun r => r.tk.launch != num
    run := x.run.filter fun u => u.r.tk.launch != num
    image := if x.run.any fun u => u.r.tk.launch == num && !u.ready then none else x.image }).rampDown h

/-- The firings, requests, tours, tasks and bindings of a launch stop. -/
def State.stopLaunch (s : State) (tag : BitVec 6) (num : BitVec 16) : State :=
  let s := (s.coresOf tag).foldl (fun s p =>
    let s := (List.range 5).foldl (fun s k =>
      let sl := (s.core p).slot k
      if sl.st != 0 && sl.launch == num then s.stopFiring ⟨p, k, false⟩ else s) s
    s.cancelAt p num) s
  let s := (s.part tag.toNat).halves.foldl (fun s e => s.cancelHalf e.2 num) s
  let s := ((s.link tag.toNat).binds.filter fun b => b.launch == num).foldl (fun s b =>
    match (s.link tag.toNat).binds.find? fun u => u.order == b.order with
    | some u => s.endBinding tag.toNat u none
    | none => s) s
  s.settle tag.toNat

/-- HALT.q of the context that the units hold. -/
def State.resetWork (s : State) (tag : BitVec 6) (c : Nat) (cause : Byte) : State :=
  let s := if (s.ctx tag.toNat c).trace.isSome then s.flushTail tag cause else s
  let live := (s.part tag.toNat).live.filter fun l => l.launch.ctx.toNat == c
  live.foldl (fun s l => (s.stopLaunch tag l.num).retireLaunch tag l) s

/-- The units of a partition as they stood in an earlier state. -/
def State.restoreUnits (s old : State) (tag : BitVec 6) : State :=
  let ps := old.coresOf tag
  let s := ps.foldl (fun s p =>
    let s := (s.clearLocal p).setCore p (old.core p)
    (old.localCells p).foldl (fun s c => { s with mem := s.mem.write (localKey p c.1) c.2 }) s) s
  let s := (old.part tag.toNat).halves.foldl (fun s e => s.setHalf e.2 (old.half e.2)) s
  { s with
    bad := s.bad ++ old.bad.filter fun b => ps.any fun p => decide (localKey p 0 ≤ b) && decide (b < localKey (p + 1) 0)
    links := NMap.set s.links tag.toNat (old.link tag.toNat)
    mesh := old.mesh
    succs := old.succs
    outbound := old.outbound
    stations := old.stations }

/-- Do something to a context that does not run: it is put into the units for it, and captured again. -/
def State.withCtx (s : State) (tag : BitVec 6) (c : Nat) (f : State → State) : State :=
  let ctx := BitVec.ofNat 3 c
  let p := s.part tag.toNat
  if p.running = some c then f s
  else
    let run := BitVec.ofNat 3 (p.running.getD 0)
    let s' := f ((s.vacate tag run).load tag ctx)
    let s' := (s'.coresOf tag).foldl (fun s p => s.writeArea tag ctx p) s'
    let s' := s'.writePsave tag ctx
    let s' := { s'.vacate tag ctx with saved := NMap.set s'.saved (savedKey tag c) (s'.image tag ctx) }
    s'.restoreUnits s tag

/-- HALT.q: a context's launch work is reset (R375). -/
def State.haltQ (s : State) (tag : BitVec 6) (c : Nat) (cause : Byte) : State :=
  let ls := (s.part tag.toNat).launchesOf c
  let s := s.modPart tag.toNat fun p => p.dropQueue c
  let s := if (s.part tag.toNat).running = some c || (NMap.find s.saved (savedKey tag c)).isSome then
      s.withCtx tag c fun s => s.resetWork tag c cause
    else s
  s.answerAll tag ls

/-! ### HALT (R385) -/

def haltBody (act : State → BitVec 6 → Nat → Byte → State) (stops : Part → Nat → BitVec 16 → Bool) (t : StreamId) (f : FmtA) (s : State) :
    Run State := do
  s.supervisor t
  let tag := (s.core t.core).tag
  let c := ((s.reg t f.a).extractLsb' 0 3).toNat
  let p := s.part tag.toNat
  if !p.present c then setD s t f 0x04
  else
    let s' := act s tag c ((s.reg t f.b).extractLsb' 0 8)
    if stops p c (s.slot t).launch then .error (.hold s') else setD s' t f 0

/-- HALT: the issuer stops with the kill of its own context. -/
def execHalt (f : FmtA) (s : State) : Host.Outcome State Fault Refusal :=
  issueA (entSys 0xFC usedDab) anyFields
    (haltBody (fun s tag c cause => s.kill tag c cause 0) fun p c _ => p.running == some c) f s

/-- HALT.q: the issuer stops when it belongs to a launch that the reset retires. -/
def execHaltQ (f : FmtA) (s : State) : Host.Outcome State Fault Refusal :=
  issueA (entSys 0xFC usedDab) anyFields
    (haltBody State.haltQ fun p c n => p.live.any fun l => l.num == n && l.launch.ctx.toNat == c && p.running == some c) f s

/-! ### The loss of a core (R275, R277, R372) -/

/-- The last column of R275 for one slot. -/
def State.loseLace (s : State) (p i : Nat) : State :=
  let w := s.laceWord p i
  let seq := lsTseq w
  let issuer := s.laceIssuer p i
  if lsState w = 1 then
    match s.outbound.find? fun o => o.phase == .sending && o.pos == p && o.slot == i with
    | none => s.setLaceWord p i (lsEmpty w)
    | some o =>
      let s := { s with outbound := s.outbound.filter (· != o) }.setLaceWord p i (lsEmpty w)
      (s.stopSkipped o.issuer o.seq o.stop).sendFrom o.issuer o.seq o.sender o.frozen (o.stop + 1)
  else if lsState w = 2 ∨ lsState w = 3 ∨ lsState w = 4 then
    let s := s.modTour issuer seq fun u => { u with skipped := u.skipped ||| stopBit (lsStop w) }
    (s.releaseSlot p i).getD s
  else s

/-- CORE_LOST (R372). -/
def execCoreLost (core : Nat) (s : State) : Host.Outcome State Fault Refusal :=
  if (s.core core).lost || !(s.core core).valid then .next s
  else
    let s := s.modCore core fun c => { c with lost := true, cmds := [], takes := [] }
    let s := (List.range 5).foldl (fun s k => if ((s.core core).slot k).st = 0 then s else s.abandon ⟨core, k, false⟩) s
    let s := (List.range 16).foldl (fun s i => s.loseLace core i) s
    .next (s.report core 5 0 0 0x05 0 0 0 none)

/-! ### Steps that a store to the control block has asked for (R265, R351) -/

/-- LACESLOT_WRITE (R265). -/
def execLaceslotWrite (core slot : Nat) (v : Word) (s : State) : Host.Outcome State Fault Refusal :=
  .next (if slot < 16 then s.laceWrite core slot v else s)

/-- CONTEXT_DESCRIPTOR_WRITE (R351): the block of the supervisor core holds the descriptors. -/
def execContextDescriptorWrite (core ctx word : Nat) (v : Word) (s : State) : Host.Outcome State Fault Refusal :=
  let c := s.core core
  .next (if c.valid && c.isSup && decide (ctx < 8) then s.descWrite c.tag.toNat ctx word v else s)

end Sys2Proof.Machine
end

