-- ==== Sys2Proof/Machine/HostLink.lean ====
section
/-!
DEFINITION. The host link, launch packets, block queues and boot (R413 to R420), what the management complex writes (R200, R351, R363, R383),
and the states of the module (R392).
-/
namespace Sys2Proof.Machine

def tagOf (tag : Nat) : BitVec 6 := BitVec.ofNat 6 tag
def State.modVf (s : State) (tag : Nat) (f : Vf → Vf) : State := s.modPart tag fun p => { p with vf := f p.vf }

/-! ### Doorbells and completions (R413, R414) -/

/-- Completions reserved: those of launches queued or live, and those written that the host has not taken. -/
def Vf.reserved (v : Vf) : Nat := v.pending + (v.c - v.take).toNat

/-- DOORBELL: up to 256 are held in order. -/
def execDoorbell (tag : Nat) (i : BitVec 8) (s : State) : Host.Outcome State Fault Refusal :=
  .next (s.modVf tag fun v => if v.bells.length < 256 then { v with bells := v.bells ++ [i] } else v)

def launchCtx (w : Word) : BitVec 3 := w.extractLsb' 4 3
def launchPrio (w : Word) : BitVec 2 := w.extractLsb' 0 2

/-- The launches that the queue of 256 holds: one whose cores are being placed may go back to it (R358, R361). -/
def Part.queued (p : Part) : Nat := p.queue.length + p.placing.toList.length

/-- A launch enters the queue (R358). -/
def Part.enqueue (p : Part) (w0 image reply : Word) (prio : BitVec 2) (o : Origin) : Part :=
  { p with queue := p.queue ++ [⟨p.arrivals, prio, launchCtx w0, image, reply, o⟩], arrivals := p.arrivals + 1 }

def Vf.word (v : Vf) (i : Byte) (w : Nat) : Word := NMap.get 0 v.subs (8 * i.toNat + w)

/-- The descriptor of a doorbell is queued, or refused with a completion at once (R414, R421). -/
def State.copyBell (s : State) (tag : Nat) (i : Byte) : State :=
  let p := s.part tag
  let v := p.vf
  let w0 := v.word i 0
  let reply := v.word i 2
  let done (v : Vf) : Vf := { v with bells := v.bells.tail, count := v.count + 1 }
  if !p.present (launchCtx w0).toNat then s.modVf tag fun v => done (v.complete 0 i 0x04)
  else if !s.replyOk ((s.supOf (tagOf tag)).getD nCorePositions) reply then s.modVf tag fun v => done (v.complete 0 i 0x08)
  else
    let p := p.enqueue w0 (v.word i 1) reply (launchPrio w0) (.host i)
    s.setPart tag { p with vf := done { v with pending := if tgtV reply then v.pending else v.pending + 1 } }

/-- DOORBELL_COPY: the oldest doorbell, while the queue and the completion ring have room. -/
def execDoorbellCopy (tag : Nat) (s : State) : Host.Outcome State Fault Refusal :=
  let p := s.part tag
  match p.vf.bells with
  | [] => .next s
  | i :: _ => .next (if p.queued < 256 ∧ p.vf.reserved < 256 then s.copyBell tag i else s)

/-- TAKE_WRITE: one that would pass C is ignored. -/
def execTakeWrite (tag : Nat) (v : BitVec 16) (s : State) : Host.Outcome State Fault Refusal :=
  .next (s.modVf tag fun x => if (v - x.take).ule (x.c - x.take) then { x with take := v } else x)

/-- FUNCTION_LEVEL_RESET (R415). -/
def execFunctionLevelReset (tag : Nat) (s : State) : Host.Outcome State Fault Refusal :=
  let s := (List.range 8).foldl (fun s c => if (s.part tag).present c then s.haltQ (tagOf tag) c 0xF0 else s) s
  .next (s.modVf tag fun v => { v with subs := [], slots := [], bells := [] })

/-! ### The BARs as the host reads them (R413, R420) -/

/-- BOOTSTAT. -/
def Boot.word (b : Boot) : Word := 0#32 ++ b.code ++ b.attempt ++ 0#12 ++ b.phase
/-- A 64-bit read of a virtual function's BAR. -/
def Vf.bar (v : Vf) (off : Nat) : Word :=
  if off = 0x08 then v.c.setWidth 64
  else if off = 0x10 then v.take.setWidth 64
  else if off = 0x18 then v.count.setWidth 64
  else if 0x5000 ≤ off ∧ off < 0x5800 then NMap.get 0 v.slots ((off - 0x5000) / 8)
  else 0
/-- A 64-bit read of the physical function's BAR. -/
def State.pfBar (s : State) (off : Nat) : Word := if off = 0 then s.devid else if off = 8 then s.io.boot.word else 0

/-! ### Welt ports and launch packets (R416 to R418) -/

/-- WELT_PORT_DOWN (R416). -/
def execWeltPortDown (port : Nat) (s : State) : Host.Outcome State Fault Refusal :=
  .next { s with io := { s.io with down := if s.io.down.contains port then s.io.down else port :: s.io.down } }

/-- A word of a packet's payload. -/
def packetWord (x : BitVec 768) (i : Nat) : Word := x.extractLsb' (64 * i) 64

/-- The partition of this module with a GPID. -/
def State.partOfGpid (s : State) (g : BitVec 16) : Option (BitVec 6) :=
  (s.cores.find? fun e => e.2.valid && e.2.gpid == g).map fun e => e.2.tag

def State.setEntry (s : State) (k : Nat) (e : LaunchEntry) : State := { s with io := { s.io with table := NMap.set s.io.table k e } }

/-- Checks 2 to 5 for the entry of the packet's tenant: the state with the packet queued, or with what a failed check leaves. -/
def State.acceptPacket (s : State) (k : Nat) (e : LaunchEntry) (tag : BitVec 6) (x : BitVec 768) : State :=
  let refuse (s : State) (e : LaunchEntry) : State := s.setEntry k { e with refused := e.refused + 1 }
  let ok := Config.gmac e.key (x.extractLsb' 0 640) == x.extractLsb' 640 128
  let seq := packetWord x 1
  let w0 := packetWord x 2
  let c := (launchCtx w0).toNat
  let p := s.part tag.toNat
  if !ok || seq.ule e.lastSeq then refuse s e
  else
    let e := { e with lastSeq := seq }
    if !e.mask.getLsbD c || !p.present c || !s.replyOk ((s.supOf tag).getD nCorePositions) (packetWord x 4) then refuse s e
    else if 256 ≤ p.queued then refuse s e
    else
      let prio := if e.maxPrio.ult (launchPrio w0) then e.maxPrio else launchPrio w0
      (s.setEntry k e).setPart tag.toNat (p.enqueue w0 (packetWord x 3) (packetWord x 4) prio .packet)

/-- LAUNCH_PACKET (R418); before PHASE 5 the complex accepts none (R420). -/
def execLaunchPacket (payload : BitVec 768) (s : State) : Host.Outcome State Fault Refusal :=
  if s.io.boot.phase ≠ 5 then .next s
  else
    match s.io.table.find? fun e => e.2.tenant == (packetWord payload 0).extractLsb' 0 32 with
    | none => .next { s with io := { s.io with refused := s.io.refused + 1 } }
    | some (k, e) =>
      match s.partOfGpid e.gpid with
      | none => .next (s.setEntry k { e with refused := e.refused + 1 })
      | some tag => .next (s.acceptPacket k e tag payload)

/-! ### Block queues (R416, R419) -/

/-- The two gateway cores of a port. -/
def gateways (port : Nat) : List Nat :=
  match portPlaces[port]? with
  | none => []
  | some (x, y) => [posOf x y, posOf (if x = 0 then 1 else 46) y]

def BlockStream.of (b : BlockStream) (port : Nat) (stream : BitVec 16) : Bool := b.port == port && b.stream == stream

/-- A block as a message of nine words from outside the module; its SENDER is not stated (log 28). -/
def State.deliverBlock (s : State) (b : BlockStream) (x : Block) : State :=
  let c := s.core b.core
  let snd := s.freeWord
  let body := (b.stream ++ x.index ++ 0#8 ++ x.scale : Word) :: wordsOf 8 x.data.toNat
  let h := header snd.2.time (snd.1.extractLsb' 0 12) 9 b.chan 0 false true
  snd.2.inject ⟨b.core, b.core, c.tag, c.ctx, b.chan, h :: body, targetWord b.chan 0x1FFF c.lcore, none⟩

def State.portQueue (s : State) (port : Nat) : List Block := NMap.get [] s.io.blocks port
def State.setQueue (s : State) (port : Nat) (q : List Block) : State := { s with io := { s.io with blocks := NMap.set s.io.blocks port q } }

/-- A block whose index has been delivered is discarded and counted. -/
def State.dupBlock (s : State) (port : Nat) : State :=
  { s with io := { s.io with dups := NMap.set s.io.dups port (NMap.get 0 s.io.dups port + 1) } }

/-- The queue delivers a stream's blocks in ascending index without a gap; at most `n` of them leave it. -/
def State.drainBlocks (s : State) (port : Nat) (stream : BitVec 16) : Nat → State
  | 0 => s
  | n + 1 =>
    let q := s.portQueue port
    match s.io.streams.find? fun b => b.of port stream with
    | none => s
    | some b =>
      match q.find? fun x => x.stream == stream && decide (x.index.toNat ≤ b.next) with
      | none => s
      | some x =>
        let s := s.setQueue port (q.erase x)
        if x.index.toNat < b.next then (s.dupBlock port).drainBlocks port stream n
        else
          let go (y : BlockStream) : BlockStream := if y.of port stream then { y with next := y.next + 1 } else y
          ({ s with io := { s.io with streams := s.io.streams.map go } }.deliverBlock b x).drainBlocks port stream n

/-- BLOCK_STREAM_BINDING, to a channel that a message may be addressed to: not 0, where task packets alone arrive, and not 63 (R116,
R118). Blocks of the stream that wait in the queue are delivered from the first index on. -/
def execBlockStreamBinding (port : Nat) (stream : BitVec 16) (core chan : Nat) (first : BitVec 32) (s : State) :
    Host.Outcome State Fault Refusal :=
  if !(gateways port).contains core || decide (chan = 0) || decide (63 ≤ chan) then .next s
  else
    let rest := s.io.streams.filter fun b => !b.of port stream
    let b : BlockStream := ⟨port, stream, core, BitVec.ofNat 6 chan, first.toNat⟩
    let s : State := { s with io := { s.io with streams := rest ++ [b] } }
    .next (s.drainBlocks port stream 64)

/-- BLOCK_ARRIVAL: while the queue is full the port withholds credits, so no block arrives. -/
def execBlockArrival (port : Nat) (stream : BitVec 16) (index : BitVec 32) (scale : Byte) (block : Vec) (s : State) :
    Host.Outcome State Fault Refusal :=
  let q := s.portQueue port
  if s.io.down.contains port || decide (64 ≤ q.length) then .next s
  else .next ((s.setQueue port (q ++ [⟨stream, index, scale, block⟩])).drainBlocks port stream 64)

/-! ### Boot (R420) -/

def State.modBoot (s : State) (f : Boot → Boot) : State := { s with io := { s.io with boot := f s.io.boot } }

/-- A further boot attempt begins at the DHCP step. -/
def Boot.attemptOn (b : Boot) : Boot := { b with attempt := if b.attempt = 255 then 255 else b.attempt + 1, phase := 1, retry := none }
/-- A failure: its code, and the wait before the next attempt. -/
def Boot.fail (b : Boot) (now : Word) (code : Byte) : Boot :=
  { b with code := code, retry := some (now + BitVec.ofNat 64 b.wait), wait := min (2 * b.wait) 64000000000 }
/-- The boot is in a phase and does not wait. -/
def Boot.at (b : Boot) (phase : BitVec 4) : Bool := b.phase == phase && b.retry.isNone

/-- POWER_ON. -/
def execPowerOn (s : State) : Host.Outcome State Fault Refusal := .next (s.modBoot fun b => if b.at 0 then b.attemptOn else b)
/-- DHCP_LEASE. -/
def execDhcpLease (ok : Bool) (s : State) : Host.Outcome State Fault Refusal :=
  .next (s.modBoot fun b => if !b.at 1 then b else if ok then { b with phase := 2 } else b.fail s.time 1)
/-- IMAGE_FETCH_COMPLETE: the fetch and both checks. -/
def execImageFetchComplete (image : FetchResult) (s : State) : Host.Outcome State Fault Refusal :=
  .next (s.modBoot fun b =>
    if !b.at 2 then b
    else
      let verify := { b with phase := 3 }
      match image with
      | .failed => b.fail s.time 2
      | .keyMismatch => verify.fail s.time 3
      | .badSignature => verify.fail s.time 4
      | .malformed => verify.fail s.time 5
      | .verified => { b with phase := 4 })
/-- BOOT_RETRY_EXPIRE. -/
def execBootRetryExpire (s : State) : Host.Outcome State Fault Refusal :=
  .next (s.modBoot fun b => if b.retry.any fun t => t.ule s.time then b.attemptOn else b)
/-- MEMORY_TRAINING_COMPLETE. -/
def execMemoryTrainingComplete (ok : Bool) (s : State) : Host.Outcome State Fault Refusal :=
  .next (s.modBoot fun b => if !b.at 4 then b else if ok then { b with phase := 5 } else b.fail s.time 6)

/-! ### What the management complex writes -/

/-- The page at a VA of a context becomes Private to a core of the partition, when it is mapped on this module and Unclaimed (R351). -/
def State.claimPage (s : State) (tag : BitVec 6) (ctx : BitVec 3) (lcore : BitVec 12) (va : Word) : State :=
  match s.walk tag ctx va false with
  | none => s
  | some l =>
    if !s.isOwn l.module || (s.region l.key).st ≠ .unclaimed then s
    else s.setRegion l.key { Region.reset with st := .priv, size := l.size, hcore := lcore, tag := tag, ctx := ctx }

/-- Core save areas belong to their cores, the partition save area to the supervisor core; a page that two areas share belongs to the lower
(R351; log 88). -/
def State.claimAreas (s : State) (tag : BitVec 6) (ctx : BitVec 3) : State :=
  let x := s.ctx tag.toNat ctx.toNat
  let granules (base : Word) (n : Nat) (lcore : BitVec 12) (s : State) : State :=
    (List.range n).foldl (fun s i => s.claimPage tag ctx lcore (base + BitVec.ofNat 64 (0x10000 * i))) s
  match s.supOf tag with
  | none => s
  | some sup =>
    let s := (List.range (s.core sup).nCores).foldl (fun s n => granules (x.area n) 16 (BitVec.ofNat 12 n) s) s
    granules x.psave 0x4A0 (s.core sup).lcore s

/-- A leaf's page is no claimed region of this module. -/
def State.freePage (s : State) (l : Leaf) : Bool := !s.isOwn l.module || (s.region l.key).st == .unclaimed

/-- Frames that a context finds in its tables for the first time, and that no region claims, read as zeros (R220). -/
def State.zeroLeaves (s : State) (ls : List Leaf) : State :=
  ls.foldl (fun s l => if s.isOwn l.module && s.freePage l then s.scrub l.key (pageLen l.size) else s) s

/-- CONTEXT_CREATION: the descriptor, a fresh key, its frames, which read as zeros, the save areas, and STATE 1 with the PASS of R352 (R219,
R220, R351). -/
def execContextCreation (tag ctx : Nat) (d : NewContext) (s : State) : Host.Outcome State Fault Refusal :=
  let p := s.part tag
  if s.io.boot.phase ≠ 5 || p.present ctx || decide (8 ≤ ctx) then .next s
  else
    let x : Ctx := { Ctx.reset with
      tickets := d.tickets, st := 1, pass := p.entryPass 0, root := d.root &&& 0xFFFFFFF000, saveBase := d.saveBase, psave := d.psave }
    let s := (s.setPart tag (p.setCtx ctx x)).newKey (8 * tag + ctx)
    let s := { s with saved := NMap.erase s.saved (8 * tag + ctx) }
    .next ((s.zeroLeaves (s.pagesOf (tagOf tag) (BitVec.ofNat 3 ctx))).claimAreas (tagOf tag) (BitVec.ofNat 3 ctx))

/-- HALF_POOL_GRANT (R383): a half leaves the pool only while no logical half maps to it. -/
def execHalfPoolGrant (tag half : Nat) (grant : Bool) (s : State) : Host.Outcome State Fault Refusal :=
  .next (s.modPart tag fun p =>
    if grant then (if half < 576 ∧ !p.pool.contains half then { p with pool := half :: p.pool } else p)
    else if p.halves.any fun e => e.2 == half then p
    else { p with pool := p.pool.filter (· != half) })

/-- The contexts that exist: partition, index and STATE. -/
def State.contexts (s : State) : List (Nat × Nat × BitVec 3) :=
  (s.parts.flatMap fun e => (List.range 8).map fun c => (e.1, c, (s.ctx e.1 c).st)).filter fun x => x.2.2 != 0

/-- The pages of a context that a change of tables maps, unmaps or maps otherwise. -/
def State.remapped (old new : State) (tag ctx : Nat) : List Leaf :=
  let a := old.pagesOf (tagOf tag) (BitVec.ofNat 3 ctx)
  let b := new.pagesOf (tagOf tag) (BitVec.ofNat 3 ctx)
  (a.filter fun l => !b.contains l) ++ b.filter fun l => !a.contains l

/-- The service acts on Unclaimed regions only, but for contexts that are stopped or killed (R200). -/
def State.mayRemap (old new : State) : Bool :=
  old.contexts.all fun x => x.2.2 == 3 || x.2.2 == 4 || (old.remapped new x.1 x.2.1).all old.freePage

/-- A context whose pages a change of tables remaps loses its translations and lines, and the frames that are new to it read as zeros
(R200, R220). -/
def State.remapContext (old new s : State) (tag ctx : Nat) : State :=
  if (old.remapped new tag ctx).isEmpty then s
  else
    let mine := old.pagesOf (tagOf tag) (BitVec.ofNat 3 ctx)
    (s.dropLines (tagOf tag) (BitVec.ofNat 3 ctx)).zeroLeaves
      ((new.pagesOf (tagOf tag) (BitVec.ofNat 3 ctx)).filter fun l => !mine.any fun o => o.key == l.key)

/-- MAPPING_SERVICE: page-table entries by physical address. It acts where no page of a context that is not stopped changes but an Unclaimed
one, and drops the translations and lines of the context that it serves and of every other whose pages change (R200, R220; log 88). -/
def execMappingService (tag ctx : Nat) (_va : Word) (writes : List (Nat × Word)) (s : State) : Host.Outcome State Fault Refusal :=
  let new := writes.foldl (fun s e => s.store (lpddrKey e.1) 8 e.2.toNat) s
  .next (if s.mayRemap new then
      s.contexts.foldl (fun x c => s.remapContext new x c.1 c.2.1) (new.dropLines (tagOf tag) (BitVec.ofNat 3 ctx))
    else s)

def LaunchEntry.zero : LaunchEntry := ⟨0, 0, 0, 0, 0, 0, 0⟩

/-- Word `w` of a launch-table entry: tenant, GPID, CTXMASK, MAXPRIO, the key's halves, LASTSEQ. -/
def LaunchEntry.set (e : LaunchEntry) (w : Nat) (v : Word) : LaunchEntry :=
  match w with
  | 0 => { e with tenant := v.extractLsb' 0 32 }
  | 1 => { e with gpid := v.extractLsb' 0 16 }
  | 2 => { e with mask := v.extractLsb' 0 8 }
  | 3 => { e with maxPrio := v.extractLsb' 0 2 }
  | 4 => { e with key := e.key.extractLsb' 64 64 ++ v }
  | 5 => { e with key := v ++ e.key.extractLsb' 0 64 }
  | 6 => { e with lastSeq := v }
  | _ => e

/-- A port's table of 64 GPIDs (R348). -/
def State.gpidRoom (s : State) (port : Nat) (gpid : BitVec 16) : Bool :=
  let k := port * 2 ^ 16 + gpid.toNat
  (NMap.find s.gpids k).isSome || decide ((s.gpids.filter fun e => e.1 / 2 ^ 16 == port).length < 64)

/-- The contexts that run, by tag. -/
def State.runningTags (s : State) : List (Nat × Nat) := s.parts.filterMap fun e => e.2.running.map fun c => (e.1, c)

/-- REGISTER_WRITE (R4). The management complex writes a handler entry whole, for launch 0 (R363); one that is not well formed is not written,
as no agent leaves such an entry (R115; log 72). A module identifier lies below 6,144, and the routing table names one of the 18 ports and
changes only while no context runs (R416, R417). -/
def execRegisterWrite (r : HostReg) (v : Word) (s : State) : Host.Outcome State Fault Refusal :=
  .next (match r with
    | .rampTime => { s with rampTime := v.extractLsb' 0 16 }
    | .tripThreshold => { s with trip := v }
    | .accessLimit => { s with limit := v }
    | .moduleId => if v.ult 6144 then { s with module := v.extractLsb' 0 13 } else s
    | .submission tag i w => if w < 8 then s.modVf tag fun x => { x with subs := NMap.set x.subs (8 * i.toNat + w) v } else s
    | .gpidEntry port gpid =>
      if s.gpidRoom port gpid then { s with gpids := NMap.set s.gpids (port * 2 ^ 16 + gpid.toNat) (v.extractLsb' 0 6).toNat } else s
    | .route m =>
      if s.runningTags.isEmpty && v.ult 18 then { s with io := { s.io with routes := NMap.set s.io.routes m v.toNat } } else s
    | .launchEntry e w => if e < 256 then s.setEntry e ((NMap.get LaunchEntry.zero s.io.table e).set w v) else s
    | .handler core i hw1 hw2 =>
      if handlerOk v hw1 hw2 then s.modCore core fun c => c.setHandler i.toNat ⟨v, hw1, hw2, 0⟩ else s
    | .channel core ch => s.modCore core fun c => if c.chcfgStatus ch.toNat v = 0 then c.chcfgWrite ch.toNat v else c
    | .logicalTable core => s.modCore core fun c => { c with lctBase := ctlMix 0x021 c.lctBase v })

/-! ### Module states (R392, R395, R410) -/

/-- The running context of a partition is captured as at a gang switch, once what a switch waits for has come (R353, R392). -/
def State.park (s : State) (e : Nat × Nat) : State :=
  if !s.settled (tagOf e.1) then s
  else
    let s := (s.modPart e.1 Part.withdraw).capture (tagOf e.1) (BitVec.ofNat 3 e.2) s.time
    s.modPart e.1 fun p => { p.setCtx e.2 { p.ctx e.2 with st := 1 } with running := none, starting := false }

/-- An idle-clocked module captures every context that still runs (R392). -/
def State.parkIdle (s : State) : State := if s.mode == .idleClocked && !s.frozen then s.runningTags.foldl State.park s else s

/-- Off keeps nothing: the module is as after reset, and its boot starts from ROM when it leaves off (R392, R420). -/
def State.powerOff (s : State) : State :=
  { State.reset with
    agenda := s.agenda
    epoch := s.epoch
    free := s.free
    cur := s.cur
    time := s.time
    weltOut := s.weltOut
    mailbox := s.mailbox
    notices := s.notices
    stepping := s.stepping
    metal := s.metal
    mode := .off }

/-- MODULE_STATE_COMMAND (R392): the module moves at once, and its contexts stop and are captured as their accesses end (log 93); a frozen
module leaves that state through off alone (R410). -/
def execModuleStateCommand (m : ModuleState) (s : State) : Host.Outcome State Fault Refusal :=
  .next (match m with
    | .off => s.powerOff
    | .idleClocked => if s.frozen then s else ({ s with mode := .idleClocked } : State).parkIdle
    | .active => if s.frozen then s else { s with mode := .active }
    | .clockStopped => if s.frozen then s else { s with mode := .clockStopped })

end Sys2Proof.Machine
end

