-- ==== Sys2Proof/Machine/ScalarFp.lean ====
section
/-!
DEFINITION. The scalar floating-point instructions, OP 0x48 to 0x55 (R108 to R112).
-/
namespace Sys2Proof.Machine

/-- The rounding instructions take FMT and REP, the others REP only (R108, R109). -/
def entFp (op : Byte) (u : Used) : Entry := ⟨op, u, true, true, none⟩

/-- The type code and the operands as values (R109). -/
def fpTy (f : FmtA) : Nat := f.fn.toNat
def State.fpA (s : State) (t : StreamId) (f : FmtA) : Val := valOf (fpTy f) (s.operandA t f).toNat
def State.fpB (s : State) (t : StreamId) (f : FmtA) : Val := valOf (fpTy f) (s.reg t f.b).toNat
def State.fpC (s : State) (t : StreamId) (f : FmtA) : Val := valOf (fpTy f) (s.reg t f.c).toNat
/-- The rounding code: MOD[2:0], or FMT's (R50, R108). -/
def State.fpRm (s : State) (t : StreamId) (f : FmtA) : Nat := (s.strm t).rm (f.md.extractLsb' 0 3).toNat

/-- A result of type T is written zero-extended. -/
def fpResult (g : State → StreamId → FmtA → Nat) (t : StreamId) (f : FmtA) (s : State) : Run State :=
  .ok (s.resultA t f (BitVec.ofNat 64 (g s t f)))

/-- FCMP's mask (R110). -/
def fcmpMask (x y : Val) : Nat :=
  if x.isNan || y.isNan then 8
  else match x.cmp y with
    | .lt => 1
    | .eq => 2
    | .gt => 4

/-- FCLS's mask (R110). -/
def fclsMask (c bits : Nat) : Nat :=
  let t := fty c
  let x := bits % 2 ^ t.w
  let neg := 2 ^ (t.w - 1) ≤ x
  let ex := x / 2 ^ t.fb % 2 ^ t.eb
  let fr := x % 2 ^ t.fb
  if ex = 2 ^ t.eb - 1 then
    (if fr = 0 then (if neg then 2 ^ 0 else 2 ^ 7) else if 2 ^ (t.fb - 1) ≤ fr then 2 ^ 9 else 2 ^ 8)
  else if ex = 0 then
    (if fr = 0 then (if neg then 2 ^ 3 else 2 ^ 4) else if neg then 2 ^ 2 else 2 ^ 5)
  else if neg then 2 ^ 1
  else 2 ^ 6

/-- FCVT's result as 64 bits: sign-extended for i types, otherwise zero-extended (R111). -/
def fcvtBits (dst rm : Nat) (v : Val) : Nat :=
  let r := cvt dst rm v
  if !isFloat dst && isSigned dst && 2 ^ (tyW dst - 1) ≤ r then r + (2 ^ 64 - 2 ^ tyW dst) else r

/-- FMOV's sign operations (R112). -/
def signOf (c bits : Nat) : Nat := bits / 2 ^ (tyW c - 1) % 2
def magOf (c bits : Nat) : Nat := bits % 2 ^ (tyW c - 1)

/-- FADD (R109). -/
def execFadd (f : FmtA) (s : State) : Host.Outcome State Fault Refusal :=
  issueA (entFp 0x48 usedDab) anyFields (fpResult fun s t f => cvt (fpTy f) (s.fpRm t f) (addV (s.fpRm t f) (s.fpA t f) (s.fpB t f))) f s
/-- FSUB (R109). -/
def execFsub (f : FmtA) (s : State) : Host.Outcome State Fault Refusal :=
  issueA (entFp 0x49 usedDab) anyFields (fpResult fun s t f => cvt (fpTy f) (s.fpRm t f) (addV (s.fpRm t f) (s.fpA t f) (s.fpB t f).negate)) f s
/-- FMUL (R109). -/
def execFmul (f : FmtA) (s : State) : Host.Outcome State Fault Refusal :=
  issueA (entFp 0x4A usedDab) anyFields (fpResult fun s t f => cvt (fpTy f) (s.fpRm t f) (mulV (s.fpA t f) (s.fpB t f))) f s
/-- FMA (R109). -/
def execFma (f : FmtA) (s : State) : Host.Outcome State Fault Refusal :=
  issueA (entFp 0x4B usedDabc) anyFields (fpResult fun s t f => cvt (fpTy f) (s.fpRm t f) (fmaV (s.fpRm t f) (s.fpA t f) (s.fpB t f) (s.fpC t f))) f s
/-- FDIV (R83, R109). -/
def execFdiv (f : FmtA) (s : State) : Host.Outcome State Fault Refusal :=
  issueA (entFp 0x4C usedDab) anyFields (fpResult fun s t f => cvt (fpTy f) (s.fpRm t f) (divV (s.fpA t f) (s.fpB t f))) f s
/-- FSQRT (R83, R109). -/
def execFsqrt (f : FmtA) (s : State) : Host.Outcome State Fault Refusal :=
  issueA (entFp 0x4D usedDa) anyFields (fpResult fun s t f => cvt (fpTy f) (s.fpRm t f) (sqrtV (s.fpA t f))) f s
/-- FMIN (R109). -/
def execFmin (f : FmtA) (s : State) : Host.Outcome State Fault Refusal :=
  issueA (entInt 0x4E usedDab) anyFields (fpResult fun s t f => cvt (fpTy f) 0 (minV (s.fpA t f) (s.fpB t f))) f s
/-- FMAX (R109). -/
def execFmax (f : FmtA) (s : State) : Host.Outcome State Fault Refusal :=
  issueA (entInt 0x4F usedDab) anyFields (fpResult fun s t f => cvt (fpTy f) 0 (maxV (s.fpA t f) (s.fpB t f))) f s
/-- FCMP (R110). -/
def execFcmp (f : FmtA) (s : State) : Host.Outcome State Fault Refusal :=
  issueA (entInt 0x50 usedDab) anyFields (fpResult fun s t f => fcmpMask (s.fpA t f) (s.fpB t f)) f s
/-- FCLS (R110). -/
def execFcls (f : FmtA) (s : State) : Host.Outcome State Fault Refusal :=
  issueA (entInt 0x51 usedDa) anyFields (fpResult fun s t f => fclsMask (fpTy f) (s.operandA t f).toNat) f s
/-- FCVT (R111); C holds the source type. -/
def execFcvt (f : FmtA) (s : State) : Host.Outcome State Fault Refusal :=
  issueA (entFp 0x52 ⟨true, true, false, true, false⟩) (fun f => cvtType f.c) (fpResult fun s t f => fcvtBits (fpTy f) (s.fpRm t f) (valOf f.c.toNat (s.operandA t f).toNat)) f s
/-- FEXP2 (R79, R109). -/
def execFexp2 (f : FmtA) (s : State) : Host.Outcome State Fault Refusal :=
  issueA (entFp 0x53 usedDa) anyFields (fpResult fun s t f => exp2 (fpTy f) (s.fpRm t f) (s.fpA t f)) f s
/-- FLOG2 (R81, R109). -/
def execFlog2 (f : FmtA) (s : State) : Host.Outcome State Fault Refusal :=
  issueA (entFp 0x54 usedDa) anyFields (fpResult fun s t f => log2 (fpTy f) (s.fpRm t f) (s.fpA t f)) f s
/-- FMOV (R112). -/
def execFmov (f : FmtA) (s : State) : Host.Outcome State Fault Refusal :=
  issueA (entInt 0x55 usedDa) anyFields (fpResult fun s t f => (s.operandA t f).toNat % 2 ^ tyW (fpTy f)) f s
/-- FMOV.neg (R112). -/
def execFmovNeg (f : FmtA) (s : State) : Host.Outcome State Fault Refusal :=
  issueA (entInt 0x55 usedDa) anyFields (fpResult fun s t f => magOf (fpTy f) (s.operandA t f).toNat + (1 - signOf (fpTy f) (s.operandA t f).toNat) * 2 ^ (tyW (fpTy f) - 1)) f s
/-- FMOV.abs (R112). -/
def execFmovAbs (f : FmtA) (s : State) : Host.Outcome State Fault Refusal :=
  issueA (entInt 0x55 usedDa) anyFields (fpResult fun s t f => magOf (fpTy f) (s.operandA t f).toNat) f s
/-- FMOV.sgn (R112). -/
def execFmovSgn (f : FmtA) (s : State) : Host.Outcome State Fault Refusal :=
  issueA (entInt 0x55 usedDab) anyFields (fpResult fun s t f => magOf (fpTy f) (s.operandA t f).toNat + signOf (fpTy f) (s.reg t f.b).toNat * 2 ^ (tyW (fpTy f) - 1)) f s

end Sys2Proof.Machine
end

