-- ==== Sys2Proof/Machine/Vector.lean ====
section
/-!
DEFINITION. Vector lanes: the lanes of a register and their predicate bits (R154 to R156), the common operand fetch and result (R159), lane
arithmetic (R160), the predicate stack (R157, R158), reductions, moves and permutation (R161 to R163).
-/
namespace Sys2Proof.Machine

/-! ### Lanes (R154, R155, R159) -/

/-- The bits of lane `j` of width `w`. -/
def laneOf (w : Nat) (v : Vec) (j : Nat) : Nat := v.toNat / 2 ^ (w * j) % 2 ^ w
/-- A register whose lane `j` holds `g j`. -/
def ofLanes (w : Nat) (g : Nat → Nat) : Vec := BitVec.ofNat 512 (((List.range (512 / w)).map fun j => g j % 2 ^ w * 2 ^ (w * j)).sum)

/-- TOP (R155). -/
def Slot.top (sl : Slot) : Word := sl.preds.headD (BitVec.allOnes 64)
/-- ACT(j) of a lane of width `w` under a top entry. -/
def laneActive (top : Word) (w j : Nat) : Bool := top.getLsbD (w * j / 8)

def State.vrm (s : State) (t : StreamId) (f : FmtV) : Nat := (s.strm t).rm f.rnd.toNat

/-- The lane is acted on (R156). -/
def State.laneOn (s : State) (t : StreamId) (f : FmtV) (w j : Nat) : Bool := !f.p || laneActive (s.slot t).top w j
/-- Operand a: a register or the oldest entry of a queue. -/
def State.vecA (s : State) (t : StreamId) (f : FmtV) : Vec := if f.qa then s.queueHead t f.a.toNat else s.vreg t f.a
/-- What an inactive or unwritten lane of the destination holds: its old value, or zero in a queue entry. -/
def State.vecOld (s : State) (t : StreamId) (f : FmtV) : Vec := if f.qd then 0 else s.vreg t f.d
/-- Operand b of a lane: s[S] in every lane with BS, otherwise v[VB]. -/
def State.laneB (s : State) (t : StreamId) (f : FmtV) (j : Nat) : Nat :=
  if f.bs then (s.reg t f.s).toNat % 2 ^ f.w else laneOf f.w (s.vreg t f.b) j

/-- The pop of operand a takes effect with the instruction (R90). -/
def State.vecPop (s : State) (t : StreamId) (f : FmtV) : State := if f.qa then s.pop t f.a.toNat else s
/-- The result: pushed as one entry, or written to v[VD]. -/
def State.vecResult (s : State) (t : StreamId) (f : FmtV) (r : Vec) : State :=
  let s := s.vecPop t f
  if f.qd then s.push t f.d.toNat r else s.setVreg t f.d r

/-- A guarded result: lane `j` is `g j` where the lane is active. -/
def State.guarded (s : State) (t : StreamId) (f : FmtV) (w : Nat) (g : Nat → Nat) : Vec :=
  ofLanes w fun j => if s.laneOn t f w j then g j else laneOf w (s.vecOld t f) j

/-- A vector instruction that takes FMT where `fmt` says so. -/
def entVec (op : Byte) (u : Used) (fmt : Bool) : Entry := ⟨op, u, fmt, true, none⟩

def vDab : Used := ⟨true, true, true, false, false⟩
def vDabs : Used := ⟨true, true, true, false, true⟩
def vDabc : Used := ⟨true, true, true, true, false⟩
def vDabcs : Used := ⟨true, true, true, true, true⟩
def vDa : Used := ⟨true, true, false, false, false⟩
def vDas : Used := ⟨true, true, false, false, true⟩
def vDs : Used := ⟨true, false, false, false, true⟩
def vDbs : Used := ⟨true, false, true, false, true⟩
def vAbs : Used := ⟨false, true, true, false, true⟩
def vAs : Used := ⟨false, true, false, false, true⟩
def vD : Used := ⟨true, false, false, false, false⟩
def vS : Used := ⟨false, false, false, false, true⟩
def vNone : Used := ⟨false, false, false, false, false⟩

/-! ### Lane arithmetic (R160) -/

/-- f of R160 for one lane: the instruction, the rounding code and the operand bits. -/
abbrev LaneOp := FmtV → Nat → Nat → Nat → Nat → Nat

def laneBody (g : LaneOp) (t : StreamId) (f : FmtV) (s : State) : Run State :=
  .ok (s.vecResult t f (s.guarded t f f.w fun j =>
    g f (s.vrm t f) (laneOf f.w (s.vecA t f) j) (s.laneB t f j) (laneOf f.w (s.vreg t f.c) j)))

/-- The integer value of a lane, signed for i types. -/
def laneInt (c x : Nat) : Int := if isSigned c && decide (2 ^ (tyW c - 1) ≤ x) then (x : Int) - (2 ^ tyW c : Nat) else x
/-- An exact integer result: modulo 2^w, or clamped with SAT. -/
def laneEnc (f : FmtV) (x : Int) : Nat := encInt f.tyNo (if f.sat then clampInt f.tyNo x else x)

/-- An instruction on integer types with its floating counterpart, whose exact value is rounded once. -/
def laneNum (gi : Int → Int → Int) (gf : Nat → Val → Val → Val) : LaneOp := fun f rm a b _ =>
  let c := f.tyNo
  if isFloat c then cvt c rm (gf rm (valOf c a) (valOf c b)) else laneEnc f (gi (laneInt c a) (laneInt c b))

def opVadd : LaneOp := laneNum (· + ·) addV
def opVsub : LaneOp := laneNum (· - ·) fun rm x y => addV rm x y.negate
def opVmul : LaneOp := laneNum (· * ·) fun _ => mulV
def opVmulHi : LaneOp := fun f _ a b _ =>
  let c := f.tyNo
  encInt c (laneInt c a * laneInt c b / (2 ^ tyW c : Nat))
def opVfma : LaneOp := fun f rm a b z => cvt f.tyNo rm (fmaV rm (valOf f.tyNo a) (valOf f.tyNo b) (valOf f.tyNo z))
def opVmin : LaneOp := laneNum min fun _ => minV
def opVmax : LaneOp := laneNum max fun _ => maxV
def opVabs : LaneOp := laneNum (fun a _ => a.natAbs) fun _ x _ => x.abs
def opVneg : LaneOp := laneNum (fun a _ => -a) fun _ x _ => x.negate
def opVand : LaneOp := fun _ _ a b _ => a &&& b
def opVor : LaneOp := fun _ _ a b _ => a ||| b
def opVxor : LaneOp := fun _ _ a b _ => a ^^^ b

/-- The count of a shift. -/
def laneCount (f : FmtV) (b : Nat) : Nat := if f.var then (f.imm.extractLsb' 0 6).toNat else b % f.w
def opVshl : LaneOp := fun f _ a b _ => laneEnc f (laneInt f.tyNo a * (2 ^ laneCount f b : Nat))
def opVshr : LaneOp := fun f _ a b _ => a / 2 ^ laneCount f b
def opVsra : LaneOp := fun f _ a b _ =>
  let x : Int := if 2 ^ (f.w - 1) ≤ a then (a : Int) - (2 ^ f.w : Nat) else a
  encInt f.tyNo (x / (2 ^ laneCount f b : Nat))
def opVexp2 : LaneOp := fun f rm a _ _ => exp2 f.tyNo rm (valOf f.tyNo a)
def opVlog2 : LaneOp := fun f rm a _ _ => log2 f.tyNo rm (valOf f.tyNo a)
def opVrcp : LaneOp := fun f rm a _ _ => cvt f.tyNo rm (rcpV (valOf f.tyNo a))
def opVrsq : LaneOp := fun f rm a _ _ => cvt f.tyNo rm (rsqV (valOf f.tyNo a))
def opVdiv : LaneOp := fun f rm a b _ => cvt f.tyNo rm (divV (valOf f.tyNo a) (valOf f.tyNo b))

/-- VADD (R160). -/
def execVadd (f : FmtV) (s : State) : Host.Outcome State Fault Refusal :=
  issueV (entVec 0x89 vDabs (tyF f.ty)) (prompt (laneBody opVadd)) f s
/-- VSUB (R160). -/
def execVsub (f : FmtV) (s : State) : Host.Outcome State Fault Refusal :=
  issueV (entVec 0x8A vDabs (tyF f.ty)) (prompt (laneBody opVsub)) f s
/-- VMUL (R160). -/
def execVmul (f : FmtV) (s : State) : Host.Outcome State Fault Refusal :=
  issueV (entVec 0x8B vDabs (tyF f.ty)) (prompt (laneBody opVmul)) f s
/-- VMUL.hi (R160). -/
def execVmulHi (f : FmtV) (s : State) : Host.Outcome State Fault Refusal :=
  issueV (entVec 0x8B vDabs false) (prompt (laneBody opVmulHi)) f s
/-- VFMA (R160). -/
def execVfma (f : FmtV) (s : State) : Host.Outcome State Fault Refusal :=
  issueV (entVec 0x8C vDabcs true) (prompt (laneBody opVfma)) f s
/-- VMIN (R160). -/
def execVmin (f : FmtV) (s : State) : Host.Outcome State Fault Refusal :=
  issueV (entVec 0x8D vDabs false) (prompt (laneBody opVmin)) f s
/-- VMAX (R160). -/
def execVmax (f : FmtV) (s : State) : Host.Outcome State Fault Refusal :=
  issueV (entVec 0x8E vDabs false) (prompt (laneBody opVmax)) f s
/-- VABS (R160). -/
def execVabs (f : FmtV) (s : State) : Host.Outcome State Fault Refusal :=
  issueV (entVec 0x8F vDa false) (prompt (laneBody opVabs)) f s
/-- VNEG (R160). -/
def execVneg (f : FmtV) (s : State) : Host.Outcome State Fault Refusal :=
  issueV (entVec 0x90 vDa false) (prompt (laneBody opVneg)) f s
/-- VAND (R160). -/
def execVand (f : FmtV) (s : State) : Host.Outcome State Fault Refusal :=
  issueV (entVec 0x91 vDabs false) (prompt (laneBody opVand)) f s
/-- VOR (R160). -/
def execVor (f : FmtV) (s : State) : Host.Outcome State Fault Refusal :=
  issueV (entVec 0x92 vDabs false) (prompt (laneBody opVor)) f s
/-- VXOR (R160). -/
def execVxor (f : FmtV) (s : State) : Host.Outcome State Fault Refusal :=
  issueV (entVec 0x93 vDabs false) (prompt (laneBody opVxor)) f s
/-- VSHL (R160). -/
def execVshl (f : FmtV) (s : State) : Host.Outcome State Fault Refusal :=
  issueV (entVec 0x94 vDabs false) (prompt (laneBody opVshl)) f s
/-- VSHR (R160). -/
def execVshr (f : FmtV) (s : State) : Host.Outcome State Fault Refusal :=
  issueV (entVec 0x95 vDabs false) (prompt (laneBody opVshr)) f s
/-- VSRA (R160). -/
def execVsra (f : FmtV) (s : State) : Host.Outcome State Fault Refusal :=
  issueV (entVec 0x96 vDabs false) (prompt (laneBody opVsra)) f s
/-- VEXP2 (R79, R160). -/
def execVexp2 (f : FmtV) (s : State) : Host.Outcome State Fault Refusal :=
  issueV (entVec 0xA0 vDa true) (prompt (laneBody opVexp2)) f s
/-- VLOG2 (R81, R160). -/
def execVlog2 (f : FmtV) (s : State) : Host.Outcome State Fault Refusal :=
  issueV (entVec 0xA1 vDa true) (prompt (laneBody opVlog2)) f s
/-- VRCP (R83, R160). -/
def execVrcp (f : FmtV) (s : State) : Host.Outcome State Fault Refusal :=
  issueV (entVec 0xA2 vDa true) (prompt (laneBody opVrcp)) f s
/-- VRSQ (R83, R160). -/
def execVrsq (f : FmtV) (s : State) : Host.Outcome State Fault Refusal :=
  issueV (entVec 0xA3 vDa true) (prompt (laneBody opVrsq)) f s
/-- VDIV (R83, R160). -/
def execVdiv (f : FmtV) (s : State) : Host.Outcome State Fault Refusal :=
  issueV (entVec 0xA4 vDabs true) (prompt (laneBody opVdiv)) f s

/-! ### The predicate stack (R155, R157) -/

/-- cc of R157 for one lane. -/
def laneCond (c : Nat) (cc : BitVec 3) (a b : Nat) : Bool :=
  if isFloat c then
    let x := valOf c a
    let y := valOf c b
    if x.isNan || y.isNan then unordHolds cc else ordHolds cc (x.cmp y)
  else ordHolds cc (compareInt (laneInt c a) (laneInt c b))

/-- An entry with every predicate bit of lane j equal to `g j`; a lane of width w owns w/8 bits. -/
def predEntry (w : Nat) (g : Nat → Bool) : Word :=
  BitVec.ofNat 64 (((List.range 64).map fun i => if g (8 * i / w) then 2 ^ i else 0).sum)

def State.setPreds (s : State) (t : StreamId) (ps : List Word) : State := s.modSlot t fun sl => { sl with preds := ps }

def vcmpBody (t : StreamId) (f : FmtV) (s : State) : Run State :=
  let sl := s.slot t
  if 8 ≤ sl.preds.length then trap 0x09
  else
    let new := predEntry f.w fun j => laneCond f.tyNo (f.imm.extractLsb' 0 3) (laneOf f.w (s.vecA t f) j) (s.laneB t f j)
    .ok ((s.vecPop t f).setPreds t ((new &&& sl.top) :: sl.preds))

/-- VCMP (R157). -/
def execVcmp (f : FmtV) (s : State) : Host.Outcome State Fault Refusal := issueV (entVec 0x97 vAbs false) (prompt vcmpBody) f s

def vpnotBody (t : StreamId) (_ : FmtV) (s : State) : Run State :=
  match (s.slot t).preds with
  | [] => trap 0x09
  | p :: ps => .ok (s.setPreds t ((~~~p &&& ps.headD (BitVec.allOnes 64)) :: ps))

/-- VPNOT (R157). -/
def execVpnot (f : FmtV) (s : State) : Host.Outcome State Fault Refusal := issueV (entVec 0x98 vNone false) (prompt vpnotBody) f s

def vpopBody (t : StreamId) (_ : FmtV) (s : State) : Run State :=
  match (s.slot t).preds with
  | [] => trap 0x09
  | _ :: ps => .ok (s.setPreds t ps)

/-- VPOP (R157). -/
def execVpop (f : FmtV) (s : State) : Host.Outcome State Fault Refusal := issueV (entVec 0x99 vNone false) (prompt vpopBody) f s

def vselBody (t : StreamId) (f : FmtV) (s : State) : Run State :=
  .ok (s.setVreg t f.d (ofLanes f.w fun j =>
    laneOf f.w (if laneActive (s.slot t).top f.w j then s.vreg t f.a else s.vreg t f.b) j))

/-- VSEL (R158). -/
def execVsel (f : FmtV) (s : State) : Host.Outcome State Fault Refusal := issueV (entVec 0x9A vDab false) (prompt vselBody) f s

def vcmprBody (t : StreamId) (f : FmtV) (s : State) : Run State :=
  let kept := ((List.range (512 / f.w)).filter fun j => laneActive (s.slot t).top f.w j).map fun j => laneOf f.w (s.vreg t f.a) j
  .ok ((s.setVreg t f.d (ofLanes f.w fun j => kept.getD j 0)).setReg t f.s (BitVec.ofNat 64 kept.length))

/-- VCMPR (R158). -/
def execVcmpr (f : FmtV) (s : State) : Host.Outcome State Fault Refusal := issueV (entVec 0x9F vDas false) (prompt vcmprBody) f s

/-! ### Reductions (R84, R161) -/

/-- The lanes of a reduction, an excluded one as the identity `e`. -/
def State.redLanes (s : State) (t : StreamId) (f : FmtV) (e : Nat) : List Nat :=
  (List.range (512 / f.w)).map fun j => if s.laneOn t f f.w j then laneOf f.w (s.vecA t f) j else e

/-- A scalar result: sign-extended for i types, zero-extended otherwise. -/
def laneScalar (c x : Nat) : Word := if isFloat c then BitVec.ofNat 64 x else BitVec.ofInt 64 (laneInt c x)

/-- One addition of the tree, rounded once. -/
def sumOf (c rm a b : Nat) : Nat := cvt c rm (addV rm (valOf c a) (valOf c b))

/-- The identities of R84 as encodings: −0, −inf or MIN(T), +inf or MAX(T). -/
def negZero (c : Nat) : Nat := (fty c).signBit true
def maxIdentity (c : Nat) : Nat := if isFloat c then cvt c 0 (.inf true) else encInt c (intMin c)
def minIdentity (c : Nat) : Nat := if isFloat c then cvt c 0 (.inf false) else encInt c (intMax c)

def vrsumBody (t : StreamId) (f : FmtV) (s : State) : Run State :=
  let c := f.tyNo
  let r : Word :=
    if isFloat c then
      BitVec.ofNat 64 ((tree (sumOf c (s.vrm t f)) (9 - lgWidth f.ty) (s.redLanes t f (negZero c))).headD 0)
    else BitVec.ofInt 64 (((s.redLanes t f 0).map (laneInt c)).foldl (· + ·) 0)
  .ok ((s.vecPop t f).setReg t f.s r)

/-- VRSUM (R161). -/
def execVrsum (f : FmtV) (s : State) : Host.Outcome State Fault Refusal :=
  issueV (entVec 0x9B vAs (tyF f.ty)) (prompt vrsumBody) f s

/-- VRMAX and VRMIN: the tree over a selection, which no order changes. -/
def vrselBody (e : Nat → Nat) (gi : Int → Int → Int) (gf : Val → Val → Val) (t : StreamId) (f : FmtV) (s : State) : Run State :=
  let c := f.tyNo
  let op (a b : Nat) : Nat := if isFloat c then cvt c 0 (gf (valOf c a) (valOf c b)) else encInt c (gi (laneInt c a) (laneInt c b))
  .ok ((s.vecPop t f).setReg t f.s (laneScalar c ((tree op (9 - lgWidth f.ty) (s.redLanes t f (e c))).headD 0)))

/-- VRMAX (R161). -/
def execVrmax (f : FmtV) (s : State) : Host.Outcome State Fault Refusal :=
  issueV (entVec 0x9C vAs false) (prompt (vrselBody maxIdentity max maxV)) f s
/-- VRMIN (R161). -/
def execVrmin (f : FmtV) (s : State) : Host.Outcome State Fault Refusal :=
  issueV (entVec 0x9D vAs false) (prompt (vrselBody minIdentity min minV)) f s

/-! ### Moves and permutation (R162, R163) -/

/-- Every active lane takes one value. -/
def bcBody (x : State → StreamId → FmtV → Nat) (t : StreamId) (f : FmtV) (s : State) : Run State :=
  let r := s.guarded t f f.w fun _ => x s t f
  .ok (if f.qd then s.push t f.d.toNat r else s.setVreg t f.d r)

/-- VBC from a scalar register (R162). -/
def execVbc (f : FmtV) (s : State) : Host.Outcome State Fault Refusal :=
  issueV (entVec 0x86 vDs false) (prompt (bcBody fun s t f => (s.reg t f.s).toNat)) f s
/-- VBC of an immediate (R162). -/
def execVbcImm (f : FmtV) (s : State) : Host.Outcome State Fault Refusal :=
  issueV (entVec 0x86 vD false) (prompt (bcBody fun _ _ f => (f.imm.signExtend 64).toNat)) f s
/-- VBC of a lane (R162). -/
def execVbcLane (f : FmtV) (s : State) : Host.Outcome State Fault Refusal :=
  issueV (entVec 0x86 vDa false) (prompt (bcBody fun s t f => laneOf f.w (s.vreg t f.a) f.imm.toNat)) f s
/-- VMVS (R162). -/
def execVmvs (f : FmtV) (s : State) : Host.Outcome State Fault Refusal :=
  issueV (entVec 0x87 vAs false) (prompt fun t f s =>
    .ok (s.setReg t f.s (laneScalar f.tyNo (laneOf f.w (s.vreg t f.a) f.imm.toNat)))) f s
/-- VMVS.pred (R162). -/
def execVmvsPred (f : FmtV) (s : State) : Host.Outcome State Fault Refusal :=
  issueV (entVec 0x87 vS false) (prompt fun t f s => .ok (s.setReg t f.s (s.slot t).top)) f s
/-- VINS (R162). -/
def execVins (f : FmtV) (s : State) : Host.Outcome State Fault Refusal :=
  issueV (entVec 0x88 vDs false) (prompt fun t f s =>
    .ok (s.setVreg t f.d (ofLanes f.w fun j =>
      if j = f.imm.toNat then (s.reg t f.s).toNat else laneOf f.w (s.vreg t f.d) j))) f s

def vpermBody (t : StreamId) (f : FmtV) (s : State) : Run State :=
  let n := 512 / f.w
  .ok (s.setVreg t f.d (s.guarded t f f.w fun j =>
    let i := laneOf f.w (s.vreg t f.b) j
    if i < n then laneOf f.w (s.vreg t f.a) i else if i < 2 * n then laneOf f.w (s.vreg t f.c) (i - n) else 0))

/-- VPERM (R163). -/
def execVperm (f : FmtV) (s : State) : Host.Outcome State Fault Refusal := issueV (entVec 0x9E vDabc false) (prompt vpermBody) f s

end Sys2Proof.Machine
end

