-- ==== Sys2Proof/Machine/VecBlock.lean ====
section
/-!
DEFINITION. Vector conversion (R167, R168), block quantisation and the gateway reduction (R169 to R171).
-/
namespace Sys2Proof.Machine

/-! ### VCVT (R167, R168) -/

/-- The intermediate types of NARROW for a chain of R168. -/
def cvtVia (src dst : Nat) : List Nat :=
  if src = 12 && (dst = 9 || dst = 10) then [11]
  else if src = 12 && 13 ≤ dst then [11, 9]
  else if src = 11 && 13 ≤ dst then [9]
  else []

def chain (src dst rm bits : Nat) : Nat := narrow (cvtVia src dst) dst rm (valOf src bits)

def vcvtBody (t : StreamId) (f : FmtV) (s : State) : Run State :=
  let src := (f.imm.extractLsb' 0 4).toNat
  let p := (f.imm.extractLsb' 4 4).toNat
  let ws := tyW src
  let wd := f.w
  let n := 512 / max ws wd
  let one (j : Nat) : Nat := chain src f.tyNo (s.vrm t f) (laneOf ws (s.vecA t f) j)
  .ok (s.vecResult t f (ofLanes wd fun d =>
    let e := if wd ≤ ws then d - p * n else d
    let inPart := if wd ≤ ws then decide (p * n ≤ d) && decide (d < p * n + n) else true
    if inPart && s.laneOn t f wd d then one (if wd ≤ ws then e else p * n + e) else laneOf wd (s.vecOld t f) d))

/-- VCVT (R167). -/
def execVcvt (f : FmtV) (s : State) : Host.Outcome State Fault Refusal :=
  issueV (entVec 0xA5 vDa true) (prompt vcvtBody) f s

/-! ### QBLOCK (R170) -/

/-- EMAX(Tn) and MAXV(Tn). -/
def qEmax (c : Nat) : Int :=
  match c with
  | 13 => 8
  | 14 => 15
  | 15 => 2
  | 1 => 6
  | _ => 2
def qMaxv (c : Nat) : Val := if isFloat c then floatVal c (fty c).maxMag else .ofInt (intMax c)

/-- The largest magnitude of a block. -/
def blockMax (ys : List Val) : Val := ys.foldl (fun m y => if m.cmp y.abs == .lt then y.abs else m) (.zero false)

/-- The least ue4m3 value at or above amax / MAXV, or 448 (R170). -/
def leastScale (amax maxv : Val) : Byte :=
  match (List.range 0x7F).find? fun k => (mulV (scaleVal 2 (BitVec.ofNat 8 k)) maxv).cmp amax != .lt with
  | some k => BitVec.ofNat 8 k
  | none => 0x7E

/-- floor(log2 x) of a value above zero. -/
def floorLog2 : Val → Int
  | .fin _ m e _ => (Nat.log2 m : Int) + e
  | _ => 0

/-- The scale of a block of finite values. -/
def blockScale (c kind : Nat) (amax : Val) : Byte :=
  if kind = 1 then
    (if amax.isZero then 127 else BitVec.ofInt 8 (max 0 (min 254 (floorLog2 amax - qEmax c + 127))))
  else leastScale amax (qMaxv c)

/-- SATCVT: an infinity becomes MAXF. -/
def satCvt (c rm : Nat) (v : Val) : Nat :=
  let r := cvt c rm v
  if isFloat c && (valOf c r).isInf then (fty c).signBit v.neg + (fty c).maxMag else r

/-- QBLOCK: the elements and the scale. -/
def qblock (c kind rm : Nat) (ys : List Val) : List Nat × Byte :=
  if ys.any fun y => y.isNan || y.isInf then (ys.map fun _ => 0, if kind = 1 then 0xFF else 0x7F)
  else
    let scale := blockScale c kind (blockMax ys)
    let sv := scaleVal kind scale
    (ys.map fun y => if sv.isZero then cvt c rm (.zero y.neg) else satCvt c rm (divV y sv), scale)

/-- The scale kind and the block number of R169. -/
def scaleKindOf (f : FmtV) : Nat := (f.imm.extractLsb' 4 2).toNat
def blockOf (f : FmtV) : Nat := (f.imm.extractLsb' 6 2).toNat

/-- A register with narrow block `b` replaced by 32 elements. -/
def putBlock (w b : Nat) (old : Vec) (qs : List Nat) : Vec :=
  ofLanes w fun j => if 32 * b ≤ j ∧ j < 32 * b + 32 then qs.getD (j - 32 * b) 0 else laneOf w old j

def vqntBody (t : StreamId) (f : FmtV) (s : State) : Run State :=
  let src := (f.imm.extractLsb' 0 4).toNat
  let ws := tyW src
  let lane (j : Nat) : Nat := if j < 512 / ws then laneOf ws (s.vreg t f.a) j else laneOf ws (s.vreg t f.b) (j - 512 / ws)
  let r := qblock f.tyNo (scaleKindOf f) (s.vrm t f) ((List.range 32).map fun j => valOf src (lane j))
  .ok ((s.setVreg t f.d (putBlock f.w (blockOf f) (s.vreg t f.d) r.1)).setReg t f.s (r.2.setWidth 64))

/-- VQNT (R169, R170). -/
def execVqnt (f : FmtV) (s : State) : Host.Outcome State Fault Refusal :=
  issueV (entVec 0xA6 vDabs true) (prompt vqntBody) f s

def vdqntBody (t : StreamId) (f : FmtV) (s : State) : Run State :=
  let src := (f.imm.extractLsb' 0 4).toNat
  let sv := scaleVal (scaleKindOf f) ((s.reg t f.s).extractLsb' 0 8)
  let first := 32 * blockOf f + (if f.imm.getLsbD 8 then 16 else 0)
  .ok (s.vecResult t f (s.guarded t f f.w fun j =>
    cvt f.tyNo (s.vrm t f) (scaleV (valOf src (laneOf (tyW src) (s.vecA t f) (first + j))) sv)))

/-- VDQNT (R169, R171). -/
def execVdqnt (f : FmtV) (s : State) : Host.Outcome State Fault Refusal :=
  issueV (entVec 0xA7 vDas true) (prompt vdqntBody) f s

def baddqBody (t : StreamId) (f : FmtV) (s : State) : Run State :=
  let c := f.tyNo
  let kind := scaleKindOf f
  let b := blockOf f
  let rm := s.vrm t f
  let sa := scaleVal kind ((s.reg t f.s).extractLsb' 0 8)
  let sb := scaleVal kind ((s.reg t f.s).extractLsb' 8 8)
  let ys := (List.range 32).map fun j =>
    addV rm (scaleV (valOf c (laneOf f.w (s.vreg t f.a) (32 * b + j))) sa) (scaleV (valOf c (laneOf f.w (s.vreg t f.b) (32 * b + j))) sb)
  let r := qblock c kind rm ys
  .ok ((s.setVreg t f.d (putBlock f.w b (s.vreg t f.d) r.1)).setReg t f.s (r.2.setWidth 64))

/-- BADDQ (R169, R170). -/
def execBaddq (f : FmtV) (s : State) : Host.Outcome State Fault Refusal :=
  issueV (entVec 0xA8 vDabs true) (prompt baddqBody) f s

end Sys2Proof.Machine
end

