-- ==== Sys2Proof/Machine/VecMem.lean ====
section
/-!
DEFINITION. Vector memory: loads, stores, gathers (R164 to R166, R174) and the cb2 decode with its table in local memory (R172).
-/
namespace Sys2Proof.Machine

/-- An active element: its lane and its address. -/
structure Elem where
  lane : Nat
  addr : Word
  deriving DecidableEq, Repr

/-- The width at which elements move: a 4-bit VLD or VST moves bytes, one predicate bit each (R154, R164). -/
def memW (f : FmtV) : Nat := max 8 (tyWidth f.ty)

/-- How an instruction forms the address of a lane (R164). -/
abbrev ElemAddr := State → StreamId → FmtV → Nat → Word

def addrUnit : ElemAddr := fun s t f j => s.reg t f.s + f.imm.signExtend 64 + BitVec.ofNat 64 (j * (memW f / 8))
def addrStride : ElemAddr := fun s t f j => s.reg t f.s + BitVec.ofNat 64 j * f.imm.signExtend 64
def addrIndex : ElemAddr := fun s t f j =>
  s.reg t f.s + (BitVec.ofInt 64 (signedOf (tyWidth f.ty) (laneOf (tyWidth f.ty) (s.vreg t f.b) j)) <<< (f.imm.extractLsb' 0 3).toNat)

def State.elems (s : State) (t : StreamId) (f : FmtV) (g : ElemAddr) : List Elem :=
  ((List.range (512 / memW f)).filter fun j => s.laneOn t f (memW f) j).map fun j => ⟨j, g s t f j⟩

/-! ### Checks at issue (R165) -/

def State.elemCheck (s : State) (t : StreamId) (base : Word) (n : Nat) (store : Bool) (e : Elem) : Run Unit := do
  if addrTag e.addr != addrTag base then trapAt 0x04 e.addr
  else do
    let sp ← s.scalarSpace t e.addr n false store
    if store then
      match sp with
      | .lm p off => s.mayWrite t p off n e.addr
      | _ => s.mayStoreDevice t e.addr
    else .ok ()

def State.elemChecks (s : State) (t : StreamId) (base : Word) (n : Nat) (store : Bool) : List Elem → Run Unit
  | [] => .ok ()
  | e :: es => do
    s.elemCheck t base n store e
    s.elemChecks t base n store es

/-! ### Loads (R165, R184, R206, R209, R225) -/

/-- The place of an element outside local memory: of every space that R103 admits. -/
def State.elemPlace (s : State) (p : Nat) (a : Word) : Option Place := s.spacePlace p a (s.space p a)

/-- The translations that the elements need (R404). -/
def State.touchElems (s : State) (p : Nat) (es : List Elem) : State := es.foldl (fun s e => s.touchPage p e.addr) s

/-- One element of a load: its bytes, or the late status. Each element by itself must lie inside one read window of another core (log 87);
at another module it may end as any access there does (R184, R204, R348). -/
def State.elemRead (s : State) (p : Nat) (a : Word) (n : Nat) : Except Byte Nat × State :=
  match s.space p a with
  | some (.lm q off) =>
    if q ≠ p && !((s.core q).valid && (s.core q).tag == (s.core p).tag && (s.core q).windowCovers off n) then (.error 0x04, s)
    else if (s.badIn (localKey q off) n).isSome then (.error 0x05, s)
    else (.ok (s.mem.readNat (localKey q off) n), s)
  | _ =>
    match s.elemPlace p a with
    | none => (.error 0x03, s)
    | some pl =>
      let r := s.region pl.rkey
      if pl.module ≠ 0x1FFF then
        match s.awayRead pl.module n with
        | (.ok x, s') => (.ok (snapPatch (sbSnap (s.core p).sbuf pl.module pl.key n) x), s')
        | (.error st, s') => (.error st, s')
      else if (r.refuses ((s.core p).holds r) false false).isSome then (.error 0x04, s)
      else if (s.badIn pl.key n).isSome then (.error 0x05, s)
      else (.ok (s.devRead p pl.key n), s)

/-- The elements of a load in lane order, up to the lowest that fails. -/
def State.elemsRead (s : State) (p n : Nat) : List Elem → Except VLate (List (Nat × Nat)) × State
  | [] => (.ok [], s)
  | e :: es =>
    match s.elemRead p e.addr n with
    | (.error st, s) => (.error ⟨st, e.addr, st == 0x03⟩, s)
    | (.ok x, s) =>
      match s.elemsRead p n es with
      | (.error l, s) => (.error l, s)
      | (.ok xs, s) => (.ok ((e.lane, x) :: xs), s)

/-- A message of the slot is still on its way to a core whose local memory an element lies in (R228). -/
def State.elemsBehind (s : State) (t : StreamId) (es : List Elem) : Bool :=
  es.any fun e => match s.space t.core e.addr with | some (.lm q _) => q != t.core && s.messageAhead t.core t.slot q | _ => false

/-- A die on the way to an element relocks (R394). -/
def State.elemsShut (s : State) (p : Nat) (es : List Elem) : Bool := es.any fun e => !s.reachable p e.addr

/-- A load performs after every older access of its slot, and at another core after its older messages there (R166, R228). -/
def vloadBody (g : ElemAddr) (t : StreamId) (f : FmtV) (s : State) : Run (State × VEnd) := do
  let w := memW f
  let es := s.elems t f g
  s.elemChecks t (s.reg t f.s) (w / 8) false es
  if !s.drained t || s.elemsBehind t es || s.elemsShut t.core es then .error (.hold s)
  else
    match (s.touchElems t.core es).elemsRead t.core (w / 8) es with
    | (.error l, s') => .ok (s', .late l)
    | (.ok xs, s') =>
      let r := ofLanes w fun j => (NMap.find xs j).getD (laneOf w (s.vecOld t f) j)
      .ok (if f.qd then s'.push t f.d.toNat r else s'.setVreg t f.d r, .performed)

/-- VLD (R164). -/
def execVld (f : FmtV) (s : State) : Host.Outcome State Fault Refusal := issueV (entVec 0x80 vDs false) (vloadBody addrUnit) f s
/-- VLDS (R164). -/
def execVlds (f : FmtV) (s : State) : Host.Outcome State Fault Refusal := issueV (entVec 0x82 vDs false) (vloadBody addrStride) f s
/-- VGLD (R164). -/
def execVgld (f : FmtV) (s : State) : Host.Outcome State Fault Refusal := issueV (entVec 0x84 vDbs false) (vloadBody addrIndex) f s

/-! ### Stores (R165, R181, R206, R224) -/

/-- The first byte of an element of `n` bytes in the core's own local memory. -/
def State.elemKey (s : State) (p : Nat) (e : Elem) : Option Nat :=
  match s.space p e.addr with
  | some (.lm q off) => some (localKey q off)
  | _ => none

/-- The elements of a vector store cover a granule of local memory together, which replaces it (R181; log 86). -/
def State.elemsCover (s : State) (p n : Nat) (es : List Elem) (b : Nat) : Bool :=
  (List.range 8).all fun i => es.any fun e => (s.elemKey p e).any fun k => decide (k ≤ b + i) && decide (b + i < k + n)

/-- The granules with an error that the elements do not cover keep it (R181). -/
def State.coverBad (s : State) (p n : Nat) (es : List Elem) : State :=
  { s with bad := s.bad.filter fun b => !(decide (2 ^ 49 ≤ b) && s.elemsCover p n es b) }

/-- The late status of one element of a store among all of them (R165, R181, R204, R206). -/
def State.elemProbe (s : State) (p : Nat) (all : List Elem) (e : Elem) (n : Nat) : Option Byte × State :=
  match s.elemKey p e with
  | some k =>
    (if s.bad.any (fun b => decide (b < k + n) && decide (k < b + errUnit b) && !s.elemsCover p n all b) then some 0x05 else none, s)
  | none =>
    match s.elemPlace p e.addr with
    | none => (some 0x03, s)
    | some pl =>
      let r := s.region pl.rkey
      if pl.module ≠ 0x1FFF then
        let o := s.awayOutcome pl.module
        (if o.1 = 0 then none else some o.1, o.2)
      else if (r.refuses ((s.core p).mayHold r) true false).isSome then
        (some 0x04, s.modCore p fun c => c.pmCount 0x22 none 1)
      else (none, s)

def State.elemsProbe (s : State) (p n : Nat) (all : List Elem) : List Elem → Option VLate × State
  | [] => (none, s)
  | e :: es =>
    match s.elemProbe p all e n with
    | (some st, s) => (some ⟨st, e.addr, st == 0x03⟩, s)
    | (none, s) => s.elemsProbe p n all es

/-- The store-buffer lines that the elements touch. -/
def State.elemLines (s : State) (p : Nat) (es : List Elem) : List (BitVec 13 × Nat) :=
  es.foldl (fun ls e =>
    match s.elemKey p e with
    | some _ => ls
    | none =>
      match s.elemPlace p e.addr with
      | some pl => if ls.contains (pl.module, lineOf pl.key) then ls else ls ++ [(pl.module, lineOf pl.key)]
      | none => ls) []

/-- The oldest entry of the buffer performs at its home. -/
def State.performOldest (s : State) (p : Nat) : State :=
  match (s.core p).sbuf with
  | e :: es => ((s.performEntry p e).modCore p fun c => { c with sbuf := es }).entryGone p e
  | [] => s

/-- An element of a vector store enters the buffer. The instruction waits at its start for the entries that it needs; a store of more
lines than the buffer has finds room as its own oldest entries perform. Nothing older of the slot stands in the buffer then (R166). The
entry carries the instruction's number and the address of its lowest lane there, for lanes enter in rising order (R174). -/
def State.elemEnter (s : State) (t : StreamId) (pl : Place) (a : Word) (n x : Nat) : State :=
  let mark (s : State) : State :=
    s.modCore t.core fun c =>
      { c with sbuf := c.sbuf.map fun e =>
          if e.line == lineOf pl.key && e.module == pl.module && e.slot == t.slot && e.vec.isNone then { e with vec := some (c.dseq, a) } else e }
  match s.sbEnter t pl pl.key n x false with
  | .ok s' => mark s'
  | .error _ =>
    match (s.performOldest t.core).sbEnter t pl pl.key n x false with
    | .ok s' => mark s'
    | .error _ => s

def State.elemWrite (s : State) (t : StreamId) (e : Elem) (n x : Nat) : State :=
  match s.elemKey t.core e with
  | some k => s.store k n x
  | none =>
    match s.elemPlace t.core e.addr with
    | some pl => s.elemEnter t pl e.addr n x
    | none => s

/-- Elements are written in rising lane order, after every older access of the slot has performed; nothing is written when an element
faults late (R164 to R166). -/
def vstoreBody (g : ElemAddr) (t : StreamId) (f : FmtV) (s : State) : Run (State × VEnd) := do
  let w := memW f
  let es := s.elems t f g
  s.elemChecks t (s.reg t f.s) (w / 8) true es
  let c := s.core t.core
  if !s.drained t || s.elemsShut t.core es then .error (.hold s)
  else if !c.sbuf.isEmpty && decide (16 < c.sbuf.length + (s.elemLines t.core es).length) then .error (.hold s)
  else
    match (s.touchElems t.core es).elemsProbe t.core (w / 8) es es with
    | (some l, s') => .ok (s', .late l)
    | (none, s') =>
      let s' := es.foldl (fun s' e => s'.elemWrite t e (w / 8) (laneOf w (s.vecA t f) e.lane)) (s'.coverBad t.core (w / 8) es)
      .ok (s'.vecPop t f, if (s'.core t.core).sbuf.any (·.slot == t.slot) then .buffered else .performed)

/-- VST (R164). -/
def execVst (f : FmtV) (s : State) : Host.Outcome State Fault Refusal := issueV (entVec 0x81 vAs false) (vstoreBody addrUnit) f s
/-- VSTS (R164). -/
def execVsts (f : FmtV) (s : State) : Host.Outcome State Fault Refusal := issueV (entVec 0x83 vAs false) (vstoreBody addrStride) f s
/-- VSCT (R164). -/
def execVsct (f : FmtV) (s : State) : Host.Outcome State Fault Refusal := issueV (entVec 0x85 vAbs false) (vstoreBody addrIndex) f s

/-! ### VCBD (R172) -/

def vcbdBody (t : StreamId) (f : FmtV) (s : State) : Run (State × VEnd) := do
  let ea := s.reg t f.s
  let off ← s.ownLocal t ea
  if ea.toNat % 8 ≠ 0 then trapAt 0x07 ea
  else if localSize < off + 2048 then trapAt 0x08 ea
  else if !s.drained t then .error (.hold s)
  else
    let code (j : Nat) : BitVec 16 := BitVec.ofNat 16 (laneOf 16 (s.vreg t f.a) (8 * (f.imm.extractLsb' 0 2).toNat + j / 8))
    let entry (j : Nat) : Nat := off + 8 * ((code j).extractLsb' 8 8).toNat
    match (List.range 64).find? fun j => s.laneOn t f 8 j && (s.badIn (localKey t.core (entry j)) 8).isSome with
    | some j => .ok (s, .late ⟨0x05, ea + BitVec.ofNat 64 (entry j - off), false⟩)
    | none =>
      .ok (s.setVreg t f.d (s.guarded t f 8 fun j =>
        encInt 1 ((cb2 (code j) (s.localWord t.core (entry j))).getD (j % 8) 0)), .performed)

/-- VCBD (R172). -/
def execVcbd (f : FmtV) (s : State) : Host.Outcome State Fault Refusal := issueV (entVec 0xA9 vDas false) vcbdBody f s

end Sys2Proof.Machine
end

