-- ==== Sys2Proof/Machine/Dispatch.lean ====
section
/-!
DEFINITION. The meaning of every instruction and of every step of a unit, by name.
-/
namespace Sys2Proof.Machine

def exec (i : Instr) (s : State) : Host.Outcome State Fault Refusal :=
  match i with
  | .nop f => Sys2Proof.Machine.execNop f s
  | .fmt f => Sys2Proof.Machine.execFmt f s
  | .rep f => Sys2Proof.Machine.execRep f s
  | .br f => Sys2Proof.Machine.execBr f s
  | .brz f => Sys2Proof.Machine.execBrz f s
  | .brzNz f => Sys2Proof.Machine.execBrzNz f s
  | .jmp f => Sys2Proof.Machine.execJmp f s
  | .jal f => Sys2Proof.Machine.execJal f s
  | .jr f => Sys2Proof.Machine.execJr f s
  | .jrL f => Sys2Proof.Machine.execJrL f s
  | .ret f => Sys2Proof.Machine.execRet f s
  | .loop f => Sys2Proof.Machine.execLoop f s
  | .end_ f => Sys2Proof.Machine.execEnd f s
  | .align f => Sys2Proof.Machine.execAlign f s
  | .trap f => Sys2Proof.Machine.execTrap f s
  | .brk f => Sys2Proof.Machine.execBrk f s
  | .add f => Sys2Proof.Machine.execAdd f s
  | .addImm f => Sys2Proof.Machine.execAddImm f s
  | .addi f => Sys2Proof.Machine.execAddi f s
  | .sub f => Sys2Proof.Machine.execSub f s
  | .subImm f => Sys2Proof.Machine.execSubImm f s
  | .mul f => Sys2Proof.Machine.execMul f s
  | .mulImm f => Sys2Proof.Machine.execMulImm f s
  | .mulh f => Sys2Proof.Machine.execMulh f s
  | .mulhImm f => Sys2Proof.Machine.execMulhImm f s
  | .mulhn f => Sys2Proof.Machine.execMulhn f s
  | .mulhnImm f => Sys2Proof.Machine.execMulhnImm f s
  | .div f => Sys2Proof.Machine.execDiv f s
  | .divImm f => Sys2Proof.Machine.execDivImm f s
  | .divn f => Sys2Proof.Machine.execDivn f s
  | .divnImm f => Sys2Proof.Machine.execDivnImm f s
  | .rem f => Sys2Proof.Machine.execRem f s
  | .remImm f => Sys2Proof.Machine.execRemImm f s
  | .remn f => Sys2Proof.Machine.execRemn f s
  | .remnImm f => Sys2Proof.Machine.execRemnImm f s
  | .and f => Sys2Proof.Machine.execAnd f s
  | .andImm f => Sys2Proof.Machine.execAndImm f s
  | .or f => Sys2Proof.Machine.execOr f s
  | .orImm f => Sys2Proof.Machine.execOrImm f s
  | .xor f => Sys2Proof.Machine.execXor f s
  | .xorImm f => Sys2Proof.Machine.execXorImm f s
  | .andn f => Sys2Proof.Machine.execAndn f s
  | .andnImm f => Sys2Proof.Machine.execAndnImm f s
  | .shl f => Sys2Proof.Machine.execShl f s
  | .shlImm f => Sys2Proof.Machine.execShlImm f s
  | .shr f => Sys2Proof.Machine.execShr f s
  | .shrImm f => Sys2Proof.Machine.execShrImm f s
  | .sra f => Sys2Proof.Machine.execSra f s
  | .sraImm f => Sys2Proof.Machine.execSraImm f s
  | .rotr f => Sys2Proof.Machine.execRotr f s
  | .rotrImm f => Sys2Proof.Machine.execRotrImm f s
  | .clz f => Sys2Proof.Machine.execClz f s
  | .ctz f => Sys2Proof.Machine.execCtz f s
  | .popc f => Sys2Proof.Machine.execPopc f s
  | .min f => Sys2Proof.Machine.execMin f s
  | .minImm f => Sys2Proof.Machine.execMinImm f s
  | .max f => Sys2Proof.Machine.execMax f s
  | .maxImm f => Sys2Proof.Machine.execMaxImm f s
  | .minn f => Sys2Proof.Machine.execMinn f s
  | .minnImm f => Sys2Proof.Machine.execMinnImm f s
  | .maxn f => Sys2Proof.Machine.execMaxn f s
  | .maxnImm f => Sys2Proof.Machine.execMaxnImm f s
  | .slt f => Sys2Proof.Machine.execSlt f s
  | .sltImm f => Sys2Proof.Machine.execSltImm f s
  | .sltn f => Sys2Proof.Machine.execSltn f s
  | .sltnImm f => Sys2Proof.Machine.execSltnImm f s
  | .sel f => Sys2Proof.Machine.execSel f s
  | .li f => Sys2Proof.Machine.execLi f s
  | .lih f => Sys2Proof.Machine.execLih f s
  | .extbN64 f => Sys2Proof.Machine.execExtbN64 f s
  | .extbI64 f => Sys2Proof.Machine.execExtbI64 f s
  | .insb f => Sys2Proof.Machine.execInsb f s
  | .madr f => Sys2Proof.Machine.execMadr f s
  | .madrPhys f => Sys2Proof.Machine.execMadrPhys f s
  | .radr f => Sys2Proof.Machine.execRadr f s
  | .lcor f => Sys2Proof.Machine.execLcor f s
  | .lcorLog f => Sys2Proof.Machine.execLcorLog f s
  | .whoLcore f => Sys2Proof.Machine.execWhoLcore f s
  | .whoCoreword f => Sys2Proof.Machine.execWhoCoreword f s
  | .whoPlace f => Sys2Proof.Machine.execWhoPlace f s
  | .whoNcores f => Sys2Proof.Machine.execWhoNcores f s
  | .whoStage f => Sys2Proof.Machine.execWhoStage f s
  | .whoSlot f => Sys2Proof.Machine.execWhoSlot f s
  | .phash f => Sys2Proof.Machine.execPhash f s
  | .phashPlace f => Sys2Proof.Machine.execPhashPlace f s
  | .fadd f => Sys2Proof.Machine.execFadd f s
  | .fsub f => Sys2Proof.Machine.execFsub f s
  | .fmul f => Sys2Proof.Machine.execFmul f s
  | .fma f => Sys2Proof.Machine.execFma f s
  | .fdiv f => Sys2Proof.Machine.execFdiv f s
  | .fsqrt f => Sys2Proof.Machine.execFsqrt f s
  | .fmin f => Sys2Proof.Machine.execFmin f s
  | .fmax f => Sys2Proof.Machine.execFmax f s
  | .fcmp f => Sys2Proof.Machine.execFcmp f s
  | .fcls f => Sys2Proof.Machine.execFcls f s
  | .fcvt f => Sys2Proof.Machine.execFcvt f s
  | .fexp2 f => Sys2Proof.Machine.execFexp2 f s
  | .flog2 f => Sys2Proof.Machine.execFlog2 f s
  | .fmov f => Sys2Proof.Machine.execFmov f s
  | .fmovNeg f => Sys2Proof.Machine.execFmovNeg f s
  | .fmovAbs f => Sys2Proof.Machine.execFmovAbs f s
  | .fmovSgn f => Sys2Proof.Machine.execFmovSgn f s
  | .ld f => Sys2Proof.Machine.execLd f s
  | .st f => Sys2Proof.Machine.execSt f s
  | .stRel f => Sys2Proof.Machine.execStRel f s
  | .ldq f => Sys2Proof.Machine.execLdq f s
  | .stq f => Sys2Proof.Machine.execStq f s
  | .stqRel f => Sys2Proof.Machine.execStqRel f s
  | .ldr f => Sys2Proof.Machine.execLdr f s
  | .amadd f => Sys2Proof.Machine.execAmadd f s
  | .ammin f => Sys2Proof.Machine.execAmmin f s
  | .ammax f => Sys2Proof.Machine.execAmmax f s
  | .amswp f => Sys2Proof.Machine.execAmswp f s
  | .amcas f => Sys2Proof.Machine.execAmcas f s
  | .amdec f => Sys2Proof.Machine.execAmdec f s
  | .cbcfg f => Sys2Proof.Machine.execCbcfg f s
  | .cbcfgWin f => Sys2Proof.Machine.execCbcfgWin f s
  | .cbcfgRdwin f => Sys2Proof.Machine.execCbcfgRdwin f s
  | .cbtakeFree f => Sys2Proof.Machine.execCbtakeFree f s
  | .cbtakeFill f => Sys2Proof.Machine.execCbtakeFill f s
  | .cbgiveFill f => Sys2Proof.Machine.execCbgiveFill f s
  | .cbgiveFree f => Sys2Proof.Machine.execCbgiveFree f s
  | .cbtakeWaitServed core buf fill => Sys2Proof.Machine.execCbtakeWaitServed core buf fill s
  | .hand f => Sys2Proof.Machine.execHand f s
  | .handInit f => Sys2Proof.Machine.execHandInit f s
  | .publ f => Sys2Proof.Machine.execPubl f s
  | .publLace f => Sys2Proof.Machine.execPublLace f s
  | .recl f => Sys2Proof.Machine.execRecl f s
  | .reclNb f => Sys2Proof.Machine.execReclNb f s
  | .reclDrop f => Sys2Proof.Machine.execReclDrop f s
  | .reclReadersDone t => Sys2Proof.Machine.execReclReadersDone t s
  | .capq f => Sys2Proof.Machine.execCapq f s
  | .capqHold f => Sys2Proof.Machine.execCapqHold f s
  | .shad f => Sys2Proof.Machine.execShad f s
  | .swapm f => Sys2Proof.Machine.execSwapm f s
  | .swapmAbort f => Sys2Proof.Machine.execSwapmAbort f s
  | .fence f => Sys2Proof.Machine.execFence f s
  | .ftest f => Sys2Proof.Machine.execFtest f s
  | .ftestAll f => Sys2Proof.Machine.execFtestAll f s
  | .fenceTrackerComplete core slot seq => Sys2Proof.Machine.execFenceTrackerComplete core slot seq s
  | .send f => Sys2Proof.Machine.execSend f s
  | .sendRh f => Sys2Proof.Machine.execSendRh f s
  | .sendt f => Sys2Proof.Machine.execSendt f s
  | .sendtRh f => Sys2Proof.Machine.execSendtRh f s
  | .callat f => Sys2Proof.Machine.execCallat f s
  | .spawn f => Sys2Proof.Machine.execSpawn f s
  | .spawnAt f => Sys2Proof.Machine.execSpawnAt f s
  | .join f => Sys2Proof.Machine.execJoin f s
  | .hset f => Sys2Proof.Machine.execHset f s
  | .hsetRd f => Sys2Proof.Machine.execHsetRd f s
  | .hmask f => Sys2Proof.Machine.execHmask f s
  | .hmaskUn f => Sys2Proof.Machine.execHmaskUn f s
  | .hmaskRd f => Sys2Proof.Machine.execHmaskRd f s
  | .chcfg f => Sys2Proof.Machine.execChcfg f s
  | .chcnt f => Sys2Proof.Machine.execChcnt f s
  | .chcntFree f => Sys2Proof.Machine.execChcntFree f s
  | .chcntHeap f => Sys2Proof.Machine.execChcntHeap f s
  | .chpop f => Sys2Proof.Machine.execChpop f s
  | .chpopCh f => Sys2Proof.Machine.execChpopCh f s
  | .chpopDrop f => Sys2Proof.Machine.execChpopDrop f s
  | .chpopChDrop f => Sys2Proof.Machine.execChpopChDrop f s
  | .wait f => Sys2Proof.Machine.execWait f s
  | .waitConditionMet t => Sys2Proof.Machine.execWaitConditionMet t s
  | .waitTimeout t => Sys2Proof.Machine.execWaitTimeout t s
  | .dacc f => Sys2Proof.Machine.execDacc f s
  | .daccClr f => Sys2Proof.Machine.execDaccClr f s
  | .vld f => Sys2Proof.Machine.execVld f s
  | .vst f => Sys2Proof.Machine.execVst f s
  | .vlds f => Sys2Proof.Machine.execVlds f s
  | .vsts f => Sys2Proof.Machine.execVsts f s
  | .vgld f => Sys2Proof.Machine.execVgld f s
  | .vsct f => Sys2Proof.Machine.execVsct f s
  | .vbc f => Sys2Proof.Machine.execVbc f s
  | .vbcImm f => Sys2Proof.Machine.execVbcImm f s
  | .vbcLane f => Sys2Proof.Machine.execVbcLane f s
  | .vmvs f => Sys2Proof.Machine.execVmvs f s
  | .vmvsPred f => Sys2Proof.Machine.execVmvsPred f s
  | .vins f => Sys2Proof.Machine.execVins f s
  | .vadd f => Sys2Proof.Machine.execVadd f s
  | .vsub f => Sys2Proof.Machine.execVsub f s
  | .vmul f => Sys2Proof.Machine.execVmul f s
  | .vmulHi f => Sys2Proof.Machine.execVmulHi f s
  | .vfma f => Sys2Proof.Machine.execVfma f s
  | .vmin f => Sys2Proof.Machine.execVmin f s
  | .vmax f => Sys2Proof.Machine.execVmax f s
  | .vabs f => Sys2Proof.Machine.execVabs f s
  | .vneg f => Sys2Proof.Machine.execVneg f s
  | .vand f => Sys2Proof.Machine.execVand f s
  | .vor f => Sys2Proof.Machine.execVor f s
  | .vxor f => Sys2Proof.Machine.execVxor f s
  | .vshl f => Sys2Proof.Machine.execVshl f s
  | .vshr f => Sys2Proof.Machine.execVshr f s
  | .vsra f => Sys2Proof.Machine.execVsra f s
  | .vcmp f => Sys2Proof.Machine.execVcmp f s
  | .vpnot f => Sys2Proof.Machine.execVpnot f s
  | .vpop f => Sys2Proof.Machine.execVpop f s
  | .vsel f => Sys2Proof.Machine.execVsel f s
  | .vcmpr f => Sys2Proof.Machine.execVcmpr f s
  | .vrsum f => Sys2Proof.Machine.execVrsum f s
  | .vrmax f => Sys2Proof.Machine.execVrmax f s
  | .vrmin f => Sys2Proof.Machine.execVrmin f s
  | .vperm f => Sys2Proof.Machine.execVperm f s
  | .vexp2 f => Sys2Proof.Machine.execVexp2 f s
  | .vlog2 f => Sys2Proof.Machine.execVlog2 f s
  | .vrcp f => Sys2Proof.Machine.execVrcp f s
  | .vrsq f => Sys2Proof.Machine.execVrsq f s
  | .vdiv f => Sys2Proof.Machine.execVdiv f s
  | .vcvt f => Sys2Proof.Machine.execVcvt f s
  | .vqnt f => Sys2Proof.Machine.execVqnt f s
  | .vdqnt f => Sys2Proof.Machine.execVdqnt f s
  | .baddq f => Sys2Proof.Machine.execBaddq f s
  | .vcbd f => Sys2Proof.Machine.execVcbd f s
  | .vectorLateFault t => Sys2Proof.Machine.execVectorLateFault t s
  | .copy f => Sys2Proof.Machine.execCopy f s
  | .copyb f => Sys2Proof.Machine.execCopyb f s
  | .copyp f => Sys2Proof.Machine.execCopyp f s
  | .gath f => Sys2Proof.Machine.execGath f s
  | .cstat f => Sys2Proof.Machine.execCstat f s
  | .cstatSeq f => Sys2Proof.Machine.execCstatSeq f s
  | .copyCompletion core seq n => Sys2Proof.Machine.execCopyCompletion core seq n s
  | .lace f => Sys2Proof.Machine.execLace f s
  | .ltake f => Sys2Proof.Machine.execLtake f s
  | .ltakeNb f => Sys2Proof.Machine.execLtakeNb f s
  | .lrel f => Sys2Proof.Machine.execLrel f s
  | .lstat f => Sys2Proof.Machine.execLstat f s
  | .lstatHold f => Sys2Proof.Machine.execLstatHold f s
  | .lstatTour f => Sys2Proof.Machine.execLstatTour f s
  | .laceTileRead core seq => Sys2Proof.Machine.execLaceTileRead core seq s
  | .laceOutboundStart core seq => Sys2Proof.Machine.execLaceOutboundStart core seq s
  | .laceLastByte core seq => Sys2Proof.Machine.execLaceLastByte core seq s
  | .laceHoldExpire core slot => Sys2Proof.Machine.execLaceHoldExpire core slot s
  | .laceOutboundDone core slot => Sys2Proof.Machine.execLaceOutboundDone core slot s
  | .laceTourComplete core seq => Sys2Proof.Machine.execLaceTourComplete core seq s
  | .mtask f => Sys2Proof.Machine.execMtask f s
  | .mqry f => Sys2Proof.Machine.execMqry f s
  | .mqryHalf f => Sys2Proof.Machine.execMqryHalf f s
  | .mqryCtr f => Sys2Proof.Machine.execMqryCtr f s
  | .mqryNear f => Sys2Proof.Machine.execMqryNear f s
  | .mcbl f => Sys2Proof.Machine.execMcbl f s
  | .mcblApply half => Sys2Proof.Machine.execMcblApply half s
  | .dseq f => Sys2Proof.Machine.execDseq f s
  | .dseqIdx f => Sys2Proof.Machine.execDseqIdx f s
  | .matrixTaskStart half => Sys2Proof.Machine.execMatrixTaskStart half s
  | .matrixTaskComplete half => Sys2Proof.Machine.execMatrixTaskComplete half s
  | .matrixPreempt half points => Sys2Proof.Machine.execMatrixPreempt half points s
  | .halfUncorrectableError half => Sys2Proof.Machine.execHalfUncorrectableError half s
  | .rampEnd half => Sys2Proof.Machine.execRampEnd half s
  | .pbind f => Sys2Proof.Machine.execPbind f s
  | .pstg f => Sys2Proof.Machine.execPstg f s
  | .pdet f => Sys2Proof.Machine.execPdet f s
  | .pqry f => Sys2Proof.Machine.execPqry f s
  | .pqryTime f => Sys2Proof.Machine.execPqryTime f s
  | .pqryEnergy f => Sys2Proof.Machine.execPqryEnergy f s
  | .pqryStage f => Sys2Proof.Machine.execPqryStage f s
  | .ppos f => Sys2Proof.Machine.execPpos f s
  | .pposDone f => Sys2Proof.Machine.execPposDone f s
  | .govt f => Sys2Proof.Machine.execGovt f s
  | .govtRd f => Sys2Proof.Machine.execGovtRd f s
  | .sourceReaderItem tag entry catchUp => Sys2Proof.Machine.execSourceReaderItem tag entry catchUp s
  | .itemDelivery tag entry stage catchUp => Sys2Proof.Machine.execItemDelivery tag entry stage catchUp s
  | .catchupRetire tag entry => Sys2Proof.Machine.execCatchupRetire tag entry s
  | .bindingComplete tag entry => Sys2Proof.Machine.execBindingComplete tag entry s
  | .governorEvaluation tag => Sys2Proof.Machine.execGovernorEvaluation tag s
  | .governorDonorMask core => Sys2Proof.Machine.execGovernorDonorMask core s
  | .bbc f => Sys2Proof.Machine.execBbc f s
  | .bbcWriteback core n => Sys2Proof.Machine.execBbcWriteback core n s
  | .time f => Sys2Proof.Machine.execTime f s
  | .timeLo f => Sys2Proof.Machine.execTimeLo f s
  | .cycl f => Sys2Proof.Machine.execCycl f s
  | .cyclS f => Sys2Proof.Machine.execCyclS f s
  | .enrg f => Sys2Proof.Machine.execEnrg f s
  | .enrgL f => Sys2Proof.Machine.execEnrgL f s
  | .thrs f => Sys2Proof.Machine.execThrs f s
  | .pmcr f => Sys2Proof.Machine.execPmcr f s
  | .pmcrRd f => Sys2Proof.Machine.execPmcrRd f s
  | .tracMark f => Sys2Proof.Machine.execTracMark f s
  | .tracCfg f => Sys2Proof.Machine.execTracCfg f s
  | .tracRd f => Sys2Proof.Machine.execTracRd f s
  | .traceFlush core => Sys2Proof.Machine.execTraceFlush core s
  | .traceSample core => Sys2Proof.Machine.execTraceSample core s
  | .ctlr f => Sys2Proof.Machine.execCtlr f s
  | .ctlw f => Sys2Proof.Machine.execCtlw f s
  | .ctlwChancfg f => Sys2Proof.Machine.execCtlwChancfg f s
  | .ctlwLctbase f => Sys2Proof.Machine.execCtlwLctbase f s
  | .eret f => Sys2Proof.Machine.execEret f s
  | .sysc f => Sys2Proof.Machine.execSysc f s
  | .ctxs f => Sys2Proof.Machine.execCtxs f s
  | .ctxl f => Sys2Proof.Machine.execCtxl f s
  | .ptag f => Sys2Proof.Machine.execPtag f s
  | .lctw f => Sys2Proof.Machine.execLctw f s
  | .gang f => Sys2Proof.Machine.execGang f s
  | .gangNext f => Sys2Proof.Machine.execGangNext f s
  | .keyi f => Sys2Proof.Machine.execKeyi f s
  | .mhalf f => Sys2Proof.Machine.execMhalf f s
  | .mhalfRel f => Sys2Proof.Machine.execMhalfRel f s
  | .dlog f => Sys2Proof.Machine.execDlog f s
  | .dlogRd f => Sys2Proof.Machine.execDlogRd f s
  | .halt f => Sys2Proof.Machine.execHalt f s
  | .haltQ f => Sys2Proof.Machine.execHaltQ f s
  | .instructionFetch t => Sys2Proof.Machine.execInstructionFetch t s
  | .messageArrival src => Sys2Proof.Machine.execMessageArrival src s
  | .heapReplay core chan => Sys2Proof.Machine.execHeapReplay core chan s
  | .selection core => Sys2Proof.Machine.execSelection core s
  | .successorMessage k => Sys2Proof.Machine.execSuccessorMessage k s
  | .storePerform core ack => Sys2Proof.Machine.execStorePerform core ack s
  | .grantProbeAnswer t => Sys2Proof.Machine.execGrantProbeAnswer t s
  | .remoteAccessAnswer t reply => Sys2Proof.Machine.execRemoteAccessAnswer t reply s
  | .remoteAccessTimeout t => Sys2Proof.Machine.execRemoteAccessTimeout t s
  | .pageWalkComplete w => Sys2Proof.Machine.execPageWalkComplete w s
  | .handFlip t => Sys2Proof.Machine.execHandFlip t s
  | .swapmExchange t => Sys2Proof.Machine.execSwapmExchange t s
  | .lateFaultTrap t => Sys2Proof.Machine.execLateFaultTrap t s
  | .collectorForward row => Sys2Proof.Machine.execCollectorForward row s
  | .slotCommandResume core slot => Sys2Proof.Machine.execSlotCommandResume core slot s
  | .slotCommandAbandon core slot => Sys2Proof.Machine.execSlotCommandAbandon core slot s
  | .laceslotWrite core slot v => Sys2Proof.Machine.execLaceslotWrite core slot v s
  | .contextDescriptorWrite core ctx word v => Sys2Proof.Machine.execContextDescriptorWrite core ctx word v s
  | .gangSwitch tag => Sys2Proof.Machine.execGangSwitch tag s
  | .resumeBroadcast tag => Sys2Proof.Machine.execResumeBroadcast tag s
  | .contextKill tag ctx cause byHost => Sys2Proof.Machine.execContextKill tag ctx cause byHost s
  | .launchPlacement tag n => Sys2Proof.Machine.execLaunchPlacement tag n s
  | .launchWithdraw tag => Sys2Proof.Machine.execLaunchWithdraw tag s
  | .launchRetire tag launch => Sys2Proof.Machine.execLaunchRetire tag launch s
  | .coreLost core => Sys2Proof.Machine.execCoreLost core s
  | .counterClaim core unit => Sys2Proof.Machine.execCounterClaim core unit s
  | .counterRelease core unit => Sys2Proof.Machine.execCounterRelease core unit s
  | .halfPoolGrant tag half grant => Sys2Proof.Machine.execHalfPoolGrant tag half grant s
  | .mappingService tag ctx va writes => Sys2Proof.Machine.execMappingService tag ctx va writes s
  | .registerWrite r v => Sys2Proof.Machine.execRegisterWrite r v s
  | .moduleStateCommand m => Sys2Proof.Machine.execModuleStateCommand m s
  | .operatingPointSet die p => Sys2Proof.Machine.execOperatingPointSet die p s
  | .relockComplete die => Sys2Proof.Machine.execRelockComplete die s
  | .hostStepSet die k => Sys2Proof.Machine.execHostStepSet die k s
  | .thermalTrip die sensor reading => Sys2Proof.Machine.execThermalTrip die sensor reading s
  | .debugStop core before => Sys2Proof.Machine.execDebugStop core before s
  | .freeze => Sys2Proof.Machine.execFreeze s
  | .bypass => Sys2Proof.Machine.execBypass s
  | .samplePreload => Sys2Proof.Machine.execSamplePreload s
  | .extest => Sys2Proof.Machine.execExtest s
  | .idcode => Sys2Proof.Machine.execIdcode s
  | .doorbell tag index => Sys2Proof.Machine.execDoorbell tag index s
  | .doorbellCopy tag => Sys2Proof.Machine.execDoorbellCopy tag s
  | .takeWrite tag v => Sys2Proof.Machine.execTakeWrite tag v s
  | .functionLevelReset tag => Sys2Proof.Machine.execFunctionLevelReset tag s
  | .weltPortDown port => Sys2Proof.Machine.execWeltPortDown port s
  | .launchPacket payload => Sys2Proof.Machine.execLaunchPacket payload s
  | .blockArrival port stream index scale block => Sys2Proof.Machine.execBlockArrival port stream index scale block s
  | .powerOn => Sys2Proof.Machine.execPowerOn s
  | .dhcpLease ok => Sys2Proof.Machine.execDhcpLease ok s
  | .imageFetchComplete image => Sys2Proof.Machine.execImageFetchComplete image s
  | .bootRetryExpire => Sys2Proof.Machine.execBootRetryExpire s
  | .alignWindowElapsed core slot => Sys2Proof.Machine.execAlignWindowElapsed core slot s
  | .memoryTrainingComplete ok => Sys2Proof.Machine.execMemoryTrainingComplete ok s
  | .contextCreation tag ctx d => Sys2Proof.Machine.execContextCreation tag ctx d s
  | .blockStreamBinding port stream core chan first => Sys2Proof.Machine.execBlockStreamBinding port stream core chan first s

end Sys2Proof.Machine
end

