-- ==== Sys2Proof/Machine/Gate.lean ====
section
/-!
DEFINITION. When a unit's own step may take place: the clocks of the module and of its dies (R392 to R395, R410), the stop of a partition at
T and its common start (R353, R386), and what the management complex may do before PHASE 5 (R420); what the timer may not pass (R338, R408);
and what follows each act (R336).
-/
namespace Sys2Proof.Machine

/-- Whom a unit's step belongs to: a core (`drains`: it also goes on between T and the capture) or a half, with the dies that what moves has
to pass (R394), a walk of a station, a partition's link engine with the home that it reads, the dispatcher or the link engine where it writes
cores, the start of a context, the clocked rest of the module, the host or the management complex, or the power and debug port. -/
inductive Scope where
  | stream
  | core (p : Nat) (drains : Bool) (via : List Nat)
  | half (h : Nat) (drains : Bool) (via : List Nat)
  | preempt (h : Nat)
  | walk (n k : Nat)
  | part (tag : Nat) (via : List Nat)
  | writes (tag : Nat)
  | start (tag : Nat)
  | clocked
  | host
  | power
  deriving DecidableEq, Repr

/-- A message for core `q`. -/
def msgTo (p q : Nat) : Scope := .core q false (diesBetween (dieOfSender p) (dieOf q))

/-- The receiver of the k-th packet and of the k-th successor message of the mesh, and of a message at a welt port. -/
def State.meshTo (s : State) (k : Nat) : Scope :=
  match s.mesh[k]? with
  | some p => msgTo p.src p.dst
  | none => .clocked
def State.succTo (s : State) (k : Nat) : Scope :=
  match s.succs[k]? with
  | some m => msgTo m.src m.dst
  | none => .clocked
def State.weltScope (s : State) (port : Nat) (gpid : BitVec 16) (lcore : BitVec 12) : Scope :=
  match s.weltTo port gpid lcore 0 with
  | .ok (some (_, q)) => msgTo (2304 + port) q
  | _ => .clocked

/-- The address of the answer that a stream may take: of the access that holds it, else of an LDR here or at another module. -/
def State.answeredAt (s : State) (t : StreamId) (away : Bool) : Option Word :=
  match (s.strm t).pend with
  | some ⟨.remote, _, _, _, a⟩ => a
  | _ => (s.oldestLdr t away).map (·.addr)

/-- The address that a waiting instruction has asked about. -/
def State.askedAt (s : State) (t : StreamId) : Option Word :=
  (s.strm t).pend.bind fun w =>
    match w.i with
    | .hand f | .swapm f | .recl f => some (s.reg t f.a)
    | _ => w.line

/-- The answer to a stream, there and back. -/
def State.answerTo (s : State) (t : StreamId) (a : Option Word) (drains : Bool) : Scope :=
  .core t.core drains ((a.map (s.reach t.core)).getD [])

/-- A store of a core on its way to its home. -/
def State.storeScope (s : State) (p : Nat) (k : Option Nat) : Scope :=
  match k.bind fun k => (s.core p).sbuf[k]? with
  | some e => .core p true (diesBetween (dieOf p) (if e.module = 0x1FFF then dieOfHome e.home else s.dieToModule p e.module))
  | none => .core p true []

/-- The outbound copies of a tour, from the core that issued it or from a stop. -/
def State.copyScope (s : State) (p : Nat) (seq : BitVec 16) : Scope :=
  .core p false ((s.outbound.filter fun o => o.issuer == p && o.seq == seq).flatMap fun o =>
    diesBetween (dieOf ((o.sender.map (·.1)).getD p)) (dieOf o.pos))

/-- The oldest report of a row, on its way to the supervisor core (R370). -/
def State.reportScope (s : State) (row : Nat) : Scope :=
  match (NMap.get [] s.collectors row).head? with
  | some r => ((s.reportTo r).map fun q => msgTo r.src q).getD .clocked
  | none => .clocked

/-- The answer that another module has dropped a message, at the core that sent it. -/
def State.mismatchScope (s : State) (gpid : BitVec 16) (words : List Word) : Scope :=
  match answerFirst gpid words s.weltOut with
  | some (o, _) => .core o.src true []
  | none => .clocked

/-- An item for a stage instance, at the core that takes the next one: from the core that emitted it, or from the source that the reader
has read (R317, R332; log 95). -/
def State.itemScope (s : State) (tag entry stage : Nat) (catchUp : Bool) : Scope :=
  match ((s.link tag).find entry stage catchUp).bind fun x => (s.deliverable x [] x.held).map fun h => (x, h) with
  | some (x, h, q) =>
    let sender := (s.placeOfLogical (tagOf tag) (hdrSender (h.words.headD 0)).toNat).map dieOf
    let from_ := if h.reader then x.reader.map fun r => dieOfKey r.key else sender
    .core q false (diesBetween (from_.getD (dieOf q)) (dieOf q))
  | none => .part tag []

/-- A source reader reads at the home of its region. -/
def State.readerScope (s : State) (tag entry : Nat) (catchUp : Bool) : Scope :=
  .part tag ((((s.link tag).find entry 0 catchUp).bind (·.reader)).map fun r => dieOfKey r.key).toList

/-- A block goes from its port to the gateway core of its stream (R419). -/
def State.blockScope (s : State) (port : Nat) (stream : BitVec 16) : Scope :=
  match s.io.streams.find? fun b => b.of port stream with
  | some b => msgTo (2304 + port) b.core
  | none => .clocked

/-- The dies between a half and the operands, the results and the save area of its task; the tasks that it may start among them. -/
def State.taskDies (s : State) (h : Nat) : List Nat :=
  if !s.relocks then []
  else match ((s.half h).run.map (·.r)).or (s.nextTask h) with
    | some r => (r.aTouches ++ r.bTouches ++ r.cTouches ++ r.saveTouches).flatMap fun x => diesThere (halfDie h) (s.dieAt r.core x.addr)
    | none => []

/-- The dies between a core and a word that it writes back: of a block counter, or of the trace ring. -/
def State.bbcDies (s : State) (p n : Nat) : List Nat :=
  let c := s.core p
  s.reach p (((s.ctx c.tag.toNat c.ctx.toNat).bbcBase &&& 0x00FFFFFFFFFFFFFF) + BitVec.ofNat 64 (8 * n))
def State.ringDies (s : State) (p : Nat) : List Nat :=
  let c := s.core p
  match (s.ctx c.tag.toNat c.ctx.toNat).trace with
  | some (a, _) => s.reach p (a &&& 0x00FFFFFFFFFFFFFF)
  | none => []

/-- The tile of a tour, at its home. -/
def State.tileDies (s : State) (p : Nat) (seq : BitVec 16) : List Nat := ((s.tour p seq).map fun u => s.reach p u.tile).getD []

/-- The scope of a unit's step; what no line names is an instruction of the ISA, which only a stream or a command executes. -/
def State.scope (s : State) (i : Instr) : Scope :=
  match i with
  | .instructionFetch t => .core t.core false (s.reach t.core ((s.strm t).pc.setWidth 64 &&& 0x00FFFFFFFFFFFFC0))
  | .lateFaultTrap t | .vectorLateFault t | .waitConditionMet t | .waitTimeout t => .core t.core false []
  | .grantProbeAnswer t | .reclReadersDone t => s.answerTo t (s.askedAt t) false
  | .remoteAccessTimeout t => .core t.core true []
  | .remoteAccessAnswer t r => s.answerTo t (s.answeredAt t (r != .own)) true
  | .handFlip t | .swapmExchange t => s.answerTo t (s.askedAt t) true
  | .messageArrival (.mesh k) => s.meshTo k
  | .messageArrival (.port p) => .core p false []
  | .messageArrival (.welt port gpid lcore _ _) => s.weltScope port gpid lcore
  | .messageArrival (.weltSuccessor port gpid _ handle _) => s.weltScope port gpid (shLcore handle)
  | .messageArrival (.weltMismatch gpid words) => s.mismatchScope gpid words
  | .successorMessage k => s.succTo k
  | .heapReplay p _ | .selection p | .slotCommandResume p _ | .slotCommandAbandon p _ | .alignWindowElapsed p _ | .traceSample p
  | .cbtakeWaitServed p _ _ | .copyCompletion p _ _ | .laceOutboundDone p _ | .laceHoldExpire p _
  | .laceTourComplete p _ | .governorDonorMask p => .core p false []
  | .laceTileRead p seq => .core p false (s.tileDies p seq)
  | .laceOutboundStart p seq | .laceLastByte p seq => s.copyScope p seq
  | .storePerform p k => s.storeScope p k
  | .traceFlush p => .core p true (s.ringDies p)
  | .bbcWriteback p n => .core p true (s.bbcDies p n.toNat)
  | .fenceTrackerComplete p _ _ | .laceslotWrite p _ _ | .contextDescriptorWrite p _ _ _ =>
    .core p true []
  | .matrixTaskStart h | .matrixTaskComplete h => .half h false (s.taskDies h)
  | .mcblApply h => .half h false []
  | .halfUncorrectableError h | .rampEnd h => .half h true []
  | .matrixPreempt h _ => .preempt h
  | .pageWalkComplete w => .walk w.station w.walker
  | .sourceReaderItem tag entry catchUp => s.readerScope tag entry catchUp
  | .itemDelivery tag entry stage catchUp => s.itemScope tag entry stage catchUp
  | .launchPlacement tag _ | .launchRetire tag _ | .bindingComplete tag _ | .governorEvaluation tag | .catchupRetire tag _ => .writes tag
  | .collectorForward row => s.reportScope row
  | .gangSwitch tag => .start tag
  | .blockArrival port stream _ _ _ => s.blockScope port stream
  | .resumeBroadcast _ | .launchWithdraw _ | .coreLost _ => .clocked
  | .contextKill _ _ _ _ | .counterClaim _ _ | .counterRelease _ _ | .halfPoolGrant _ _ _ | .mappingService _ _ _ _ | .registerWrite _ _
  | .operatingPointSet _ _ | .relockComplete _ | .hostStepSet _ _ | .thermalTrip _ _ _ | .debugStop _ _ | .freeze | .doorbell _ _
  | .doorbellCopy _ | .takeWrite _ _ | .functionLevelReset _ | .weltPortDown _ | .launchPacket _ | .powerOn | .dhcpLease _
  | .imageFetchComplete _ | .bootRetryExpire | .memoryTrainingComplete _ | .contextCreation _ _ _ | .blockStreamBinding _ _ _ _ _ => .host
  | .moduleStateCommand _ | .bypass | .samplePreload | .extest | .idcode => .power
  | _ => .stream

/-- The partition's units are between T and the capture, or between the load and the resume broadcast. -/
def State.stoppedAt (s : State) (tag : Nat) (drains : Bool) : Bool :=
  let p := s.part tag
  p.starting || (!drains && s.halts tag)

def State.coreMoves (s : State) (p : Nat) (drains : Bool) : Bool :=
  s.clocked && decide (p < nCorePositions) && !s.relocking (dieOf p) &&
    !((s.core p).valid && s.stoppedAt (s.core p).tag.toNat drains)

def State.halfMoves (s : State) (h : Nat) (drains : Bool) : Bool :=
  s.clocked && decide (h < 576) && !s.relocking (halfDie h) && !(s.half h).owner.any fun t => s.stoppedAt t.toNat drains

/-- The management complex and the host act unless the module is frozen or off. -/
def State.managed (s : State) : Bool := !s.frozen && s.mode != .off

/-- The module that answers a stream: the one that the access which holds it has asked, else that of its oldest LDR. -/
def State.askedModule (s : State) (t : StreamId) : BitVec 13 := ((s.answeredAt t true).map (s.moduleAt t.core)).getD 0x1FFF

/-- A packet of the other modules passes no port that is down: no answer, no acknowledgement and no message (R204, R417; log 17). -/
def State.portsUp (s : State) (i : Instr) : Bool :=
  match i with
  | .remoteAccessAnswer t r => r == .own || !s.portDown (s.askedModule t)
  | .storePerform p (some k) => ((s.core p).sbuf[k]?).all fun e => e.module == 0x1FFF || !s.portDown e.module
  | .messageArrival (.welt port _ _ _ _) | .messageArrival (.weltSuccessor port _ _ _ _) => !s.io.down.contains port
  | _ => true

/-- The step may take place now. -/
def State.permits (s : State) (i : Instr) : Bool :=
  s.portsUp i && match s.scope i with
  | .stream => false
  | .core p drains via => s.coreMoves p drains && via.all fun d => !s.relocking d
  | .half h drains via => s.halfMoves h drains && via.all fun d => !s.relocking d
  | .preempt h => s.halfMoves h true && (s.half h).owner.any fun t => s.halts t.toNat
  | .walk n k => s.clocked && !s.relocking (n / 96) && ((s.station n).walks[k]?.all fun w => !s.stoppedAt w.tag.toNat false)
  | .part tag via => s.clocked && !s.stoppedAt tag false && via.all fun d => !s.relocking d
  | .writes tag => s.clocked && !s.stoppedAt tag false && s.diesReady (tagOf tag)
  | .start tag => s.clocked && s.mode == .active && s.diesReady (tagOf tag)
  | .clocked => s.clocked
  | .host => s.managed
  | .power => true

/-! ### What happens at a value of the timer (R338, R408) -/

/-- The governor of a partition evaluates, unless a die of the partition relocks, on which no core can move (R338, R393; log 94). -/
def State.governs (s : State) (tag : Nat) : Bool :=
  (s.part tag).running.isSome && !(s.governed tag).isEmpty && s.clocked && !s.stoppedAt tag false && s.diesReady (tagOf tag)
/-- A governor has still to evaluate at this value of the timer, or a core to take its sample: the timer stands until it has. -/
def State.due (s : State) : Bool :=
  (s.parts.any fun e => s.governs e.1 && s.evaluates e.1) || s.cores.any fun e => s.coreMoves e.1 false && s.samples e.1
def untilMultiple (now n : Nat) : Nat := n - now % n
/-- The ticks of the next `dt` up to the first value at which one of them is due. -/
def State.span (s : State) (dt : Nat) : Nat :=
  let dt := if s.parts.any fun e => s.governs e.1 then min dt (untilMultiple s.time.toNat 4096) else dt
  s.cores.foldl (fun d e =>
    match s.samplePeriod e.1 with
    | some n => if s.coreMoves e.1 false then min d (untilMultiple s.time.toNat n) else d
    | none => d) dt
/-- The timer advances by at most `dt` ticks, and passes no value at which something is due. -/
def State.passTime (s : State) (dt : Nat) : State := if s.due then s else s.advance (s.span dt)

/-- The management complex writes a command into a core's command area (R376). -/
def State.commands (s : State) : Bool := s.managed && s.io.boot.phase == 5

/-- The link engines notice a failed instance at once (R336), and an idle-clocked module captures what has drained (R392). -/
def State.afterAct (s : State) : State := (s.links.foldl (fun s e => s.failWork e.1) s).parkIdle

/-- A core and a slot that the module has (R10, R86). -/
def streamExists (t : StreamId) : Bool := decide (t.core < nCorePositions) && decide (t.slot < 5)

end Sys2Proof.Machine
end

