-- ==== Sys2Proof/Machine/Step.lean ====
section
/-!
DEFINITION. One step of the module: the head of the agenda moves (log 1).
-/
namespace Sys2Proof.Machine

/-- The outcome of `exec` with its issuer forgotten and the link engines' answer to what it did. -/
def settleOutcome : Host.Outcome State Fault Refusal → Host.Outcome State Fault Refusal
  | .next s => .next { s with cur := .none }.afterAct
  | r => r

/-- `exec` for an issuer. -/
def execFor (who : Issuer) (i : Instr) (s : State) : Host.Outcome State Fault Refusal := settleOutcome (exec i { s with cur := who })

/-- A stream moves (R36 to R56). -/
noncomputable def moveStream (t : StreamId) (s : State) : Host.Outcome State Fault Refusal :=
  if !streamExists t then .fault .noSuchAgent
  else if !s.coreMoves t.core false then .next s
  else
    match s.prepare t with
    | .done s => .next s.afterAct
    | .run i s => execFor (.stream t) i s

/-- A unit takes a step of its own. -/
def moveUnit (i : Instr) (s : State) : Host.Outcome State Fault Refusal :=
  match s.scope i with
  | .stream => .refused .notAnEvent
  | _ => if s.permits i then execFor .none i s else .next s

/-- A command in a core's command area. -/
def moveCommand (core : Nat) (i : Instr) (a b : Word) (s : State) : Host.Outcome State Fault Refusal :=
  if nCorePositions ≤ core then .fault .noSuchAgent
  else if s.commands then execFor (.command core a b) i s
  else .next s

noncomputable def runAct (a : Act) (s : State) : Host.Outcome State Fault Refusal :=
  match a with
  | .stream t => moveStream t s
  | .unit i => moveUnit i s
  | .advance dt => .next (s.passTime dt)
  | .command core i x y => moveCommand core i x y s

/-- One step; an agenda that is used up is filled again. -/
noncomputable def step (s : State) : Host.Outcome State Fault Refusal :=
  match s.agenda with
  | [] => .next { s with agenda := Config.agendaAt s.epoch, epoch := s.epoch + 1 }
  | a :: rest => runAct a { s with agenda := rest }

/-! ### A word where the first step fetches (log 5) -/

/-- The words that stand in access-stream slots (R41): LDQ and STQ. -/
def standsInAccess (w : IWord) : Bool := opOf w == 0x5A || opOf w == 0x5B

/-- A line with a word in slot 0, NOPs after it, and its line word (R32 to R35). -/
def lineOfWord (w : IWord) : Line :=
  let acc := standsInAccess w
  let par := xorBits 96 w.toNat
  let lw : BitVec 32 := 0#2 ++ bit 1 acc ++ 0#4 ++ bit 1 par ++ 0#18 ++ bit 1 acc ++ 0#5
  lw ++ 0#384 ++ w

/-- Core 0 belongs to partition 0 with its context 0 running, its slot 0 runs at address 0, the line with the word stands in the cache of
cluster 0, and the stream of the word moves next. -/
def State.withFetchWord (s : State) (nbits w : Nat) : State :=
  let word : IWord := BitVec.ofNat 96 (w % 2 ^ nbits)
  let p := s.part 0
  let c := s.core 0
  let s := s.setPart 0 { p.setCtx 0 { p.ctx 0 with st := 2 } with running := some 0 }
  let s := s.setCore 0 ({ c with partTag := 0x80 }.setSlot 0 { c.slot 0 with st := 1 })
  { s with
    icache := NMap.set s.icache 0 [⟨0, 0, 0, lineOfWord word⟩]
    agenda := [.stream ⟨0, 0, standsInAccess word⟩] }

end Sys2Proof.Machine
end

