-- ==== Sys2Proof/Safety.lean ====
section
/-!
DEFINITION. The terms of the statements: safe steps, the memory's invariant, the premises under which an instruction issues, and what
an instruction leaves alone.
-/
namespace Sys2Proof.Machine

/-- The invariant of every state that a step reaches: equal memories are equal data. -/
def State.Inv (s : State) : Prop := s.mem.wf = true

/-- A step that stops with no fault. -/
def safeStep (s : State) : Prop := ∀ f, step s ≠ .fault f

/-! ### When an instruction issues -/

/-- The fields of the repetition that is due: the instruction's own, or stepped ones under REP; none where no repetition is left, a queue is
named against its direction or a field leaves its range (R51, R89, R91). -/
def State.dueA (s : State) (t : StreamId) (e : Entry) (ok : FmtA → Bool) (f : FmtA) : Option FmtA :=
  match (s.strm t).rep with
  | none => some f
  | some r =>
    if queueIllegalA e.op t.acc f || r.count = 0 || (s.strm t).repcnt = 0 || !repOkA e.u (queueUseA e.op f) t.acc f r then none
    else if ok (stepA f (r.count - (s.strm t).repcnt).toNat r) then some (stepA f (r.count - (s.strm t).repcnt).toNat r) else none

def State.dueV (s : State) (t : StreamId) (e : Entry) (f : FmtV) : Option FmtV :=
  match (s.strm t).rep with
  | none => some f
  | some r =>
    if queueIllegalV e.u t f || r.count = 0 || (s.strm t).repcnt = 0 || !repOkV e.u e.op t.acc f r then none
    else some (stepV f (r.count - (s.strm t).repcnt).toNat r)

/-- Stream `t` issues an instruction of format A, and the repetition that is due has the fields `g`: it stands in a stream that may execute
it, no prefix stands in its way (R41, R46 to R51), and its queues let it go (R89, R90). -/
structure State.IssuesA (s : State) (t : StreamId) (e : Entry) (ok : FmtA → Bool) (f g : FmtA) : Prop where
  cur : s.cur = .stream t
  legal : e.illegal t (s.strm t) = false
  fmt : fmtBad (s.strm t) (f.md.extractLsb' 0 3 != 0) = false
  due : s.dueA t e ok f = some g
  write : s.writeGate t (queueUseA e.op g).d g.d.toNat = .go
  readA : s.readGate t (queueUseA e.op g).a g.a.toNat = .go
  readC : s.readGate t (queueUseA e.op g).c g.c.toNat = .go

/-- The same of a vector instruction: no older one of its slot has met a fault that is on its way (R174). -/
structure State.IssuesV (s : State) (t : StreamId) (e : Entry) (f g : FmtV) : Prop where
  cur : s.cur = .stream t
  legal : e.illegal t (s.strm t) = false
  fmt : fmtBad (s.strm t) (f.rnd != 0) = false
  due : s.dueV t e f = some g
  write : s.writeGate t (g.qd && e.u.d) g.d.toNat = .go
  read : s.readGate t (g.qa && e.u.a) g.a.toNat = .go
  sound : (s.slot t).vecFaulted = false

structure State.IssuesE (s : State) (t : StreamId) (e : Entry) : Prop where
  cur : s.cur = .stream t
  legal : e.illegal t (s.strm t) = false

/-- A control-flow instruction stands in the execute stream with no prefix pending (R41, R48). -/
structure State.IssuesB (s : State) (t : StreamId) : Prop where
  cur : s.cur = .stream t
  exec : t.acc = false
  fmt : (s.strm t).fmt = none
  rep : (s.strm t).rep = none

/-! ### What an instruction completes with -/

/-- The instruction completes: its result goes to s[D] or to the queue that D names, its operand leaves its queue, and its stream moves on
(R51, R90, R97). -/
def Computes (mk : FmtA → Instr) (e : Entry) (ok : FmtA → Bool) (r : State → StreamId → FmtA → Word) : Prop :=
  ∀ (f g : FmtA) (s : State) (t : StreamId), s.IssuesA t e ok f g → exec (mk f) s = .next ((s.resultA t g (r s t g)).retire t)

/-- The two-operand register form and immediate form (R97). -/
def ofReg (op : Word → Word → Word) (s : State) (t : StreamId) (g : FmtA) : Word := op (s.operandA t g) (s.reg t g.b)
def ofImm (op : Word → Word → Word) (s : State) (t : StreamId) (g : FmtA) : Word := op (s.operandA t g) (g.imm.signExtend 64)
def ofImmN (op : Word → Word → Word) (s : State) (t : StreamId) (g : FmtA) : Word := op (s.operandA t g) (g.imm.setWidth 64)
def ofOne (op : Word → Word) (s : State) (t : StreamId) (g : FmtA) : Word := op (s.operandA t g)

/-- The instruction completes with a value in s[D]; it names no queue. -/
def Reads (mk : FmtA → Instr) (e : Entry) (r : State → StreamId → FmtA → Word) : Prop :=
  ∀ (f g : FmtA) (s : State) (t : StreamId), s.IssuesA t e anyFields f g → exec (mk f) s = .next ((s.setReg t g.d (r s t g)).retire t)

/-- An instruction of format A that issues completes under a condition on state and operands, and leaves `r` but for its stream's step. -/
def CompletesA (mk : FmtA → Instr) (e : Entry) (ok : FmtA → Bool) (pre : State → StreamId → FmtA → Prop)
    (r : State → StreamId → FmtA → State) : Prop :=
  ∀ (f g : FmtA) (s : State) (t : StreamId), s.IssuesA t e ok f g → pre s t g → exec (mk f) s = .next ((r s t g).retire t)

def CompletesE (mk : FmtE → Instr) (e : Entry) (pre : State → StreamId → FmtE → Prop) (r : State → StreamId → FmtE → State) : Prop :=
  ∀ (f : FmtE) (s : State) (t : StreamId), s.IssuesE t e → pre s t f → exec (mk f) s = .next ((r s t f).retire t)

/-- A vector instruction has issued: it is counted, takes its number and its entry of the ring, and its stream moves on (R173). -/
def State.issuedV (s : State) (t : StreamId) (op : Byte) (g : FmtV) : State :=
  ((s.countVector t).dispatch t (packV op g) .completed 0).retire t

def CompletesV (mk : FmtV → Instr) (e : Entry) (pre : State → StreamId → FmtV → Prop)
    (post : State → StreamId → FmtV → State → Prop) : Prop :=
  ∀ (f g : FmtV) (s : State) (t : StreamId), s.IssuesV t e f g → pre s t g →
    ∃ s', post s t g s' ∧ exec (mk f) s = .next (s'.issuedV t e.op g)

/-- The lanes of a register. -/
def LanesAre (w : Nat) (r : Vec) (F : Nat → Nat) : Prop := ∀ j, j < 512 / w → laneOf w r j = F j % 2 ^ w

/-- A lane-wise instruction: an active lane of the result holds `F` of the operand lanes, an inactive one the old lane (R156, R159). -/
def LaneWise (mk : FmtV → Instr) (e : Entry) (F : State → StreamId → FmtV → Nat → Nat → Nat → Nat) : Prop :=
  CompletesV mk e (fun _ _ _ => True) fun s t g s' => ∃ r : Vec, s' = s.vecResult t g r ∧
    LanesAre g.w r fun j => if g.p && !(s.slot t).top.getLsbD (g.w * j / 8) then laneOf g.w (s.vecOld t g) j
      else F s t g (laneOf g.w (s.vecA t g) j) (s.laneB t g j) (laneOf g.w (s.vreg t g.c) j)

/-- The scalar integer instructions and what their entries say of their issue (R97, R98). -/
def intForms : List ((FmtA → Instr) × Entry) := [
  (.add, entInt 0x20 usedDab), (.addImm, entInt 0x20 usedDa), (.addi, entInt 0x21 usedDab), (.sub, entInt 0x22 usedDab),
  (.subImm, entInt 0x22 usedDa), (.mul, entInt 0x23 usedDab), (.mulImm, entInt 0x23 usedDa), (.mulh, entInt 0x24 usedDab),
  (.mulhImm, entInt 0x24 usedDa), (.mulhn, entInt 0x25 usedDab), (.mulhnImm, entInt 0x25 usedDa), (.div, entInt 0x26 usedDab),
  (.divImm, entInt 0x26 usedDa), (.divn, entInt 0x27 usedDab), (.divnImm, entInt 0x27 usedDa), (.rem, entInt 0x28 usedDab),
  (.remImm, entInt 0x28 usedDa), (.remn, entInt 0x29 usedDab), (.remnImm, entInt 0x29 usedDa), (.and, entInt 0x2A usedDab),
  (.andImm, entInt 0x2A usedDa), (.or, entInt 0x2B usedDab), (.orImm, entInt 0x2B usedDa), (.xor, entInt 0x2C usedDab),
  (.xorImm, entInt 0x2C usedDa), (.andn, entInt 0x2D usedDab), (.andnImm, entInt 0x2D usedDa)] ++ [
  (.shl, entInt 0x2E usedDab), (.shlImm, entInt 0x2E usedDa), (.shr, entInt 0x2F usedDab), (.shrImm, entInt 0x2F usedDa),
  (.sra, entInt 0x30 usedDab), (.sraImm, entInt 0x30 usedDa), (.rotr, entInt 0x31 usedDab), (.rotrImm, entInt 0x31 usedDa),
  (.clz, entInt 0x32 usedDa), (.ctz, entInt 0x33 usedDa), (.popc, entInt 0x34 usedDa), (.min, entInt 0x35 usedDab),
  (.minImm, entInt 0x35 usedDa), (.max, entInt 0x36 usedDab), (.maxImm, entInt 0x36 usedDa), (.minn, entInt 0x37 usedDab),
  (.minnImm, entInt 0x37 usedDa), (.maxn, entInt 0x38 usedDab), (.maxnImm, entInt 0x38 usedDa), (.slt, entInt 0x39 usedDab),
  (.sltImm, entInt 0x39 usedDa), (.sltn, entInt 0x3A usedDab), (.sltnImm, entInt 0x3A usedDa), (.sel, entInt 0x3B usedDabc),
  (.li, entInt 0x3C usedD), (.lih, entInt 0x3D usedDa), (.extbN64, entInt 0x3E usedDa), (.extbI64, entInt 0x3E usedDa),
  (.insb, entInt 0x3F usedDab)]

/-- The control-flow instructions (R135). -/
def controlForms : List (FmtB → Instr) := [.br, .brz, .brzNz, .jmp, .jal, .jr, .jrL, .ret, .loop, .end_, .align, .trap, .brk]

/-- The slot at `pc` may be entered by a transfer (R40), which leaves `s1`: its line can be had, its line word is good and the slot
carries the TGT bit; or the line word fails, the line is read once more (R45) and what comes has the TGT bit, or is not checked here; or
the line cannot be had, and the fault is the target's. -/
def State.Lands (s : State) (t : StreamId) (pc : Pc) (s1 : State) : Prop :=
  pc.extractLsb' 3 3 = 0 ∧ pcSlot pc ≤ 4 ∧ s.lineShut t (pcLine pc) = false ∧
    ((∃ l, s.getLine t (pcLine pc) = .line l s1 ∧ lineWordOk l = true ∧ slotTgt l (pcSlot pc) = true) ∨
      (∃ l s2, s.getLine t (pcLine pc) = .line l s2 ∧ lineWordOk l = false ∧
        match s2.reread t (pcLine pc) l with
        | .fresh l' => s1 = s2.icPut t.core (pcLine pc) l' ∧ (lineWordOk l' = true → slotTgt l' (pcSlot pc) = true)
        | .away => (s.strm t).reread = some (pcLine pc) ∧ s1 = s2
        | _ => s1 = s2) ∨
      (∃ cause walk, s.getLine t (pcLine pc) = .fault cause walk ∧ s1 = s))

/-! ### What an instruction leaves alone -/

/-- Everything but the cores: memory, regions, partitions, the mesh, the links, the matrix halves, time. -/
def State.elsewhere (s : State) : State := { s with cores := [] }

/-- Nothing changes but slot `t.slot` of core `t.core` and the core's performance counters (R404). -/
structure OnlySlot (t : StreamId) (s s' : State) : Prop where
  elsewhere : s'.elsewhere = s.elsewhere
  cores : ∀ p, p ≠ t.core → s'.core p = s.core p
  core : { s'.core t.core with slots := (s.core t.core).slots, pm := (s.core t.core).pm } = s.core t.core
  slots : ∀ k, k ≠ t.slot → (s'.core t.core).slot k = (s.core t.core).slot k

/-- Within the slot nothing changes but scalar registers, queues and the program counters and prefixes of its streams. -/
def OnlyScalars (t : StreamId) (s s' : State) : Prop :=
  { s'.slot t with s := (s.slot t).s, q := (s.slot t).q, x := (s.slot t).x, a := (s.slot t).a } = s.slot t

/-- Every byte of memory reads as before. -/
def SameMemory (s s' : State) : Prop := ∀ a, s'.mem.read a = s.mem.read a

/-! ### Memory -/

/-- `n` bytes of the issuing core's own local memory, at an address that keeps the tag of its base and is a multiple of `n`
(R54, R103, R187). -/
structure State.OwnBytes (s : State) (t : StreamId) (base ea : Word) (n off : Nat) : Prop where
  tag : addrTag ea = addrTag base
  space : s.space t.core ea = some (.lm t.core off)
  bound : off + n ≤ localSize
  align : ea.toNat % n = 0

/-- A firing may write the bytes: no frame area in user mode, no open window, the output buffer of a pure stage, no partial write of a
granule with an error (R181, R185, R331, R364). -/
structure State.MayWrite (s : State) (t : StreamId) (off n : Nat) : Prop where
  frame : (s.core t.core).frameHit off n = false ∨ (s.strm t).pl ≠ 0
  pure : ∀ v, s.pureOf t = some v → (s.core t.core).inOb v off n = true
  window : (s.core t.core).windowHit off n = false
  error : s.badPartial (localKey t.core off) n = none

/-- The `n` bytes from `k` now hold `x`, every other byte reads as before, and nothing but memory and its error marks has changed. -/
def Wrote (k n x : Nat) (s s' : State) : Prop :=
  (∀ a, s'.mem.read a = if k ≤ a ∧ a < k + n then BitVec.ofNat 8 (x / 256 ^ (a - k)) else s.mem.read a) ∧
    { s' with mem := s.mem, bad := s.bad } = s

/-- The address of a memory operand (R54). -/
def State.memEa (s : State) (t : StreamId) (g : FmtA) : Word :=
  s.reg t g.a + (s.reg t g.b <<< (g.md.toNat % 8)) + BitVec.ofInt 64 g.imm.toInt

/-- Width in bytes of a scalar access, and what a load of `x` writes: i types are sign-extended (R187). -/
def accessBytes (g : FmtA) : Nat := tyW (g.fn.toNat % 16) / 8
def loaded (g : FmtA) (x : Nat) : Word :=
  if 1 ≤ g.fn.toNat % 16 ∧ g.fn.toNat % 16 ≤ 4 then (BitVec.ofNat (8 * accessBytes g) x).signExtend 64 else BitVec.ofNat 64 x

/-- A scalar access of device memory finds its place on this module: an untranslated vault address, or a translation that the serving
station holds (R201, R202). -/
structure State.OwnPlace (s : State) (t : StreamId) (i : Instr) (base ea : Word) (n : Nat) (pl : Place) : Prop where
  tag : addrTag ea = addrTag base
  space : ∃ sp, s.space t.core ea = some sp ∧ boundsCause sp n = none ∧ s.scalarPlace t i sp ea = .ok pl
  align : ea.toNat % n = 0
  module : pl.module = 0x1FFF

/-- A capability instruction finds the region of an address on this module, and leaves `s1`, in which only the serving station's cache and the
core's counters of misses and walks may have changed (R202, R210, R404). -/
structure State.Finds (s : State) (t : StreamId) (a : Word) (pl : Place) (s1 : State) : Prop where
  place : s.capPlace t a = .ok (pl, s1)
  own : pl.module = 0x1FFF

/-! ### Vector instructions -/

/-- The vector instructions that access no memory. -/
def laneForms : List ((FmtV → Instr) × Entry) := [
  (.vbc, entVec 0x86 vDs false), (.vbcImm, entVec 0x86 vD false), (.vbcLane, entVec 0x86 vDa false), (.vmvs, entVec 0x87 vAs false),
  (.vmvsPred, entVec 0x87 vS false), (.vins, entVec 0x88 vDs false), (.vadd, entVec 0x89 vDabs true), (.vsub, entVec 0x8A vDabs true),
  (.vmul, entVec 0x8B vDabs true), (.vmulHi, entVec 0x8B vDabs false), (.vfma, entVec 0x8C vDabcs true), (.vmin, entVec 0x8D vDabs false),
  (.vmax, entVec 0x8E vDabs false), (.vabs, entVec 0x8F vDa false), (.vneg, entVec 0x90 vDa false), (.vand, entVec 0x91 vDabs false),
  (.vor, entVec 0x92 vDabs false), (.vxor, entVec 0x93 vDabs false), (.vshl, entVec 0x94 vDabs false), (.vshr, entVec 0x95 vDabs false),
  (.vsra, entVec 0x96 vDabs false), (.vcmp, entVec 0x97 vAbs false), (.vpnot, entVec 0x98 vNone false)] ++ [
  (.vpop, entVec 0x99 vNone false), (.vsel, entVec 0x9A vDab false), (.vrsum, entVec 0x9B vAs true), (.vrmax, entVec 0x9C vAs false),
  (.vrmin, entVec 0x9D vAs false), (.vperm, entVec 0x9E vDabc false), (.vcmpr, entVec 0x9F vDas false), (.vexp2, entVec 0xA0 vDa true),
  (.vlog2, entVec 0xA1 vDa true), (.vrcp, entVec 0xA2 vDa true), (.vrsq, entVec 0xA3 vDa true), (.vdiv, entVec 0xA4 vDabs true),
  (.vcvt, entVec 0xA5 vDa true), (.vqnt, entVec 0xA6 vDabs true), (.vdqnt, entVec 0xA7 vDas true), (.baddq, entVec 0xA8 vDabs true)]

/-- Those of them that write a scalar register, and those that change the predicate stack. -/
def writesScalar (op : Byte) : Bool := [0x87, 0x9B, 0x9C, 0x9D, 0x9F, 0xA6, 0xA8].contains op
def changesStack (op : Byte) : Bool := [0x97, 0x98, 0x99].contains op

/-- Nothing changes but the slot, the core's counters and its dispatch ring (R173, R404). -/
structure OnlyVector (t : StreamId) (s s' : State) : Prop where
  elsewhere : s'.elsewhere = s.elsewhere
  cores : ∀ p, p ≠ t.core → s'.core p = s.core p
  core : { s'.core t.core with
    slots := (s.core t.core).slots
    pm := (s.core t.core).pm
    dseq := (s.core t.core).dseq
    ring := (s.core t.core).ring } = s.core t.core
  slots : ∀ k, k ≠ t.slot → (s'.core t.core).slot k = (s.core t.core).slot k

/-- A lane of a vector memory instruction is accessed (R156). -/
def State.laneMoves (s : State) (t : StreamId) (g : FmtV) (j : Nat) : Bool := !g.p || (s.slot t).top.getLsbD (memW g * j / 8)

/-- The addresses of the lanes of unit, strided and indexed accesses (R164). -/
def unitAddr (s : State) (t : StreamId) (g : FmtV) (j : Nat) : Word :=
  s.reg t g.s + BitVec.ofInt 64 g.imm.toInt + BitVec.ofNat 64 (j * (memW g / 8))
def strideAddr (s : State) (t : StreamId) (g : FmtV) (j : Nat) : Word := s.reg t g.s + BitVec.ofInt 64 (j * g.imm.toInt)
def indexAddr (s : State) (t : StreamId) (g : FmtV) (j : Nat) : Word :=
  s.reg t g.s + ((BitVec.ofNat g.w (laneOf g.w (s.vreg t g.b) j)).signExtend 64 <<< (g.imm.toNat % 8))

/-! ### Messages -/

/-- Core `p` has sent something: the mesh or the welt ports hold more, its message counters may have advanced, and nothing else has
changed. -/
structure Sent (p : Nat) (s s' : State) : Prop where
  rest : { s' with mesh := s.mesh, weltOut := s.weltOut, cores := [] } = { s with cores := [] }
  cores : ∀ q, q ≠ p → s'.core q = s.core q
  core : { s'.core p with pm := (s.core p).pm } = s.core p

/-- A target word that R138 lets a stream use, but for the core that it names. -/
def State.goodTarget (s : State) (t : StreamId) (w : Word) : Prop :=
  tgtV w = true ∧ tgtChan w ≠ 0 ∧ tgtChan w ≠ 63 ∧ (tgtChan w = 62 → (s.strm t).pl ≠ 0)

/-- A record of `n` bytes in the issuing core's own local memory, aligned and without an uncorrectable error. -/
structure State.OwnRecord (s : State) (t : StreamId) (ea : Word) (off align n : Nat) : Prop where
  space : s.space t.core ea = some (.lm t.core off)
  align : off % align = 0
  bound : off + n ≤ localSize
  error : s.badIn (localKey t.core off) n = none

/-- A packet to a logical core of this module, in channel 0. -/
def State.taskPacket (s : State) (t : StreamId) (n : Word) (q : Nat) (packet : List Word) : Packet :=
  let c := s.core t.core
  ⟨t.core, q, c.tag, c.ctx, 0, taskMessage s.time c.lcore false packet, targetWord 0 0x1FFF (n.extractLsb' 0 12), s.sender t⟩

end Sys2Proof.Machine
end

