-- ==== Sys2Proof/Certificates/Slice0/Obligations.lean ====
section
/-!
DEFINITION. The statements for the provers. Where a clause rests on a choice of the model its docstring names the log entry.
-/

open Sys2Proof Sys2Proof.Machine

/-! ### The scalar integer instructions (R97 to R100) -/

/-- R98, ADD, ADDI, SUB, MUL, MULH, MULHN: results modulo 2^64 and the high halves of the exact products. R99: integer division never
traps; the quotient and the remainder for every divisor, 0 and −1 among them. -/
def Obligations.IntegerArithmeticResults : Prop :=
  (Computes .add (entInt 0x20 usedDab) anyFields (ofReg fun a b => BitVec.ofInt 64 (a.toInt + b.toInt)) ∧
  Computes .addImm (entInt 0x20 usedDa) anyFields (ofImm fun a b => BitVec.ofInt 64 (a.toInt + b.toInt)) ∧
  Computes .addi (entInt 0x21 usedDab) anyFields (fun s t g =>
    BitVec.ofInt 64 ((s.operandA t g).toInt + (s.reg t g.b).toInt + (g.imm.signExtend 64).toInt)) ∧
  Computes .sub (entInt 0x22 usedDab) anyFields (ofReg fun a b => BitVec.ofInt 64 (a.toInt - b.toInt)) ∧
  Computes .subImm (entInt 0x22 usedDa) anyFields (ofImm fun a b => BitVec.ofInt 64 (a.toInt - b.toInt)) ∧
  Computes .mul (entInt 0x23 usedDab) anyFields (ofReg fun a b => BitVec.ofInt 64 (a.toInt * b.toInt)) ∧
  Computes .mulImm (entInt 0x23 usedDa) anyFields (ofImm fun a b => BitVec.ofInt 64 (a.toInt * b.toInt)) ∧
  Computes .mulh (entInt 0x24 usedDab) anyFields (ofReg fun a b => BitVec.ofInt 64 (a.toInt * b.toInt / 2 ^ 64)) ∧
  Computes .mulhImm (entInt 0x24 usedDa) anyFields (ofImm fun a b => BitVec.ofInt 64 (a.toInt * b.toInt / 2 ^ 64)) ∧
  Computes .mulhn (entInt 0x25 usedDab) anyFields (ofReg fun a b => BitVec.ofNat 64 (a.toNat * b.toNat / 2 ^ 64)) ∧
  Computes .mulhnImm (entInt 0x25 usedDa) anyFields (ofImmN fun a b => BitVec.ofNat 64 (a.toNat * b.toNat / 2 ^ 64))) ∧
  (let q (a b : Word) : Word := if b = 0 then BitVec.allOnes 64 else BitVec.ofInt 64 (a.toInt.tdiv b.toInt)
  let r (a b : Word) : Word := if b = 0 then a else BitVec.ofInt 64 (a.toInt - b.toInt * a.toInt.tdiv b.toInt)
  let qn (a b : Word) : Word := if b = 0 then BitVec.allOnes 64 else BitVec.ofNat 64 (a.toNat / b.toNat)
  let rn (a b : Word) : Word := if b = 0 then a else BitVec.ofNat 64 (a.toNat % b.toNat)
  Computes .div (entInt 0x26 usedDab) anyFields (ofReg q) ∧ Computes .divImm (entInt 0x26 usedDa) anyFields (ofImm q) ∧
  Computes .divn (entInt 0x27 usedDab) anyFields (ofReg qn) ∧ Computes .divnImm (entInt 0x27 usedDa) anyFields (ofImmN qn) ∧
  Computes .rem (entInt 0x28 usedDab) anyFields (ofReg r) ∧ Computes .remImm (entInt 0x28 usedDa) anyFields (ofImm r) ∧
  Computes .remn (entInt 0x29 usedDab) anyFields (ofReg rn) ∧ Computes .remnImm (entInt 0x29 usedDa) anyFields (ofImmN rn) ∧
  q (BitVec.intMin 64) (BitVec.allOnes 64) = BitVec.intMin 64 ∧ r (BitVec.intMin 64) (BitVec.allOnes 64) = 0)

/-- R98, the bitwise instructions, bit by bit; SHL, SHR, SRA and ROTR by b[5:0]; CLZ, CTZ and POPC. -/
def Obligations.BitwiseShiftAndCountResults : Prop :=
  (let by_ (f : Bool → Bool → Bool) (op : Word → Word → Word) : Prop := ∀ a b k, k < 64 → (op a b).getLsbD k = f (a.getLsbD k) (b.getLsbD k)
  let both (reg imm : FmtA → Instr) (op : Byte) (f : Bool → Bool → Bool) : Prop := ∃ g, by_ f g ∧
    Computes reg (entInt op usedDab) anyFields (ofReg g) ∧ Computes imm (entInt op usedDa) anyFields (ofImm g)
  both .and .andImm 0x2A (fun x y => x && y) ∧ both .or .orImm 0x2B (fun x y => x || y) ∧ both .xor .xorImm 0x2C (fun x y => x != y) ∧
  both .andn .andnImm 0x2D (fun x y => x && !y)) ∧
  (let shl (a b : Word) : Word := BitVec.ofNat 64 (a.toNat * 2 ^ (b.toNat % 64))
  let shr (a b : Word) : Word := BitVec.ofNat 64 (a.toNat / 2 ^ (b.toNat % 64))
  let sra (a b : Word) : Word := BitVec.ofInt 64 (a.toInt / 2 ^ (b.toNat % 64))
  let rotr (a b : Word) : Word := BitVec.ofNat 64 (a.toNat / 2 ^ (b.toNat % 64) + a.toNat * 2 ^ (64 - b.toNat % 64))
  let clz (a : Word) : Word := BitVec.ofNat 64 ((List.range 64).takeWhile fun k => !a.getLsbD (63 - k)).length
  let ctz (a : Word) : Word := BitVec.ofNat 64 ((List.range 64).takeWhile fun k => !a.getLsbD k).length
  let popc (a : Word) : Word := BitVec.ofNat 64 ((List.range 64).countP fun k => a.getLsbD k)
  Computes .shl (entInt 0x2E usedDab) anyFields (ofReg shl) ∧ Computes .shlImm (entInt 0x2E usedDa) anyFields (ofImm shl) ∧
  Computes .shr (entInt 0x2F usedDab) anyFields (ofReg shr) ∧ Computes .shrImm (entInt 0x2F usedDa) anyFields (ofImm shr) ∧
  Computes .sra (entInt 0x30 usedDab) anyFields (ofReg sra) ∧ Computes .sraImm (entInt 0x30 usedDa) anyFields (ofImm sra) ∧
  Computes .rotr (entInt 0x31 usedDab) anyFields (ofReg rotr) ∧ Computes .rotrImm (entInt 0x31 usedDa) anyFields (ofImm rotr) ∧
  Computes .clz (entInt 0x32 usedDa) anyFields (ofOne clz) ∧ Computes .ctz (entInt 0x33 usedDa) anyFields (ofOne ctz) ∧
  Computes .popc (entInt 0x34 usedDa) anyFields (ofOne popc))

/-- R98, comparisons, and SEL, LI, LIH; R100: the field of EXTB zero- or sign-extended, and the field that INSB replaces. -/
def Obligations.ComparesLiteralsAndBitFields : Prop :=
  (let small (a b : Word) : Word := if a.toInt ≤ b.toInt then a else b
  let large (a b : Word) : Word := if a.toInt ≤ b.toInt then b else a
  let smallN (a b : Word) : Word := if a.toNat ≤ b.toNat then a else b
  let largeN (a b : Word) : Word := if a.toNat ≤ b.toNat then b else a
  let less (a b : Word) : Word := if a.toInt < b.toInt then 1 else 0
  let lessN (a b : Word) : Word := if a.toNat < b.toNat then 1 else 0
  Computes .min (entInt 0x35 usedDab) anyFields (ofReg small) ∧ Computes .minImm (entInt 0x35 usedDa) anyFields (ofImm small) ∧
  Computes .max (entInt 0x36 usedDab) anyFields (ofReg large) ∧ Computes .maxImm (entInt 0x36 usedDa) anyFields (ofImm large) ∧
  Computes .minn (entInt 0x37 usedDab) anyFields (ofReg smallN) ∧ Computes .minnImm (entInt 0x37 usedDa) anyFields (ofImmN smallN) ∧
  Computes .maxn (entInt 0x38 usedDab) anyFields (ofReg largeN) ∧ Computes .maxnImm (entInt 0x38 usedDa) anyFields (ofImmN largeN) ∧
  Computes .slt (entInt 0x39 usedDab) anyFields (ofReg less) ∧ Computes .sltImm (entInt 0x39 usedDa) anyFields (ofImm less) ∧
  Computes .sltn (entInt 0x3A usedDab) anyFields (ofReg lessN) ∧ Computes .sltnImm (entInt 0x3A usedDa) anyFields (ofImmN lessN) ∧
  Computes .sel (entInt 0x3B usedDabc) anyFields (fun s t g => if s.operandA t g = 0 then s.reg t g.c else s.reg t g.b) ∧
  Computes .li (entInt 0x3C usedD) anyFields (fun _ _ g => BitVec.ofInt 64 g.imm.toInt) ∧
  Computes .lih (entInt 0x3D usedDa) anyFields (fun s t g =>
    BitVec.ofNat 64 (g.imm.toNat % 2 ^ 16 * 2 ^ 48 + (s.operandA t g).toNat % 2 ^ 48))) ∧
  (let pos (g : FmtA) : Nat := g.imm.toNat % 64
  let len (g : FmtA) : Nat := g.imm.toNat / 256 % 64 + 1
  let field (g : FmtA) (a : Word) : Nat := a.toNat / 2 ^ pos g % 2 ^ len g
  Computes .extbN64 (entInt 0x3E usedDa) anyFields (fun s t g => BitVec.ofNat 64 (field g (s.operandA t g))) ∧
  Computes .extbI64 (entInt 0x3E usedDa) anyFields (fun s t g => ((s.operandA t g).extractLsb' (pos g) (len g)).signExtend 64) ∧
  ∀ g : FmtA, pos g + len g ≤ 64 → ∃ r : Word → Word → Word,
    (∀ a b k, k < 64 → (r a b).getLsbD k =
      if pos g ≤ k ∧ k < pos g + len g then b.getLsbD (k - pos g) else a.getLsbD k) ∧
    ∀ (f : FmtA) (s : State) (t : StreamId), s.IssuesA t (entInt 0x3F usedDab) anyFields f g →
      exec (.insb f) s = .next ((s.resultA t g (r (s.operandA t g) (s.reg t g.b))).retire t))

/-- What a scalar integer instruction leaves alone: everything outside its slot, and in the slot every register but s[D], every queue but
those that QA and QD name, the predicate stack, the vector registers, the trap registers and the other stream. -/
def Obligations.IntegerFrame : Prop :=
  ∀ mk e, (mk, e) ∈ intForms → ∀ (f g : FmtA) (s s' : State) (t : StreamId), t.slot < 5 → s.IssuesA t e anyFields f g →
    exec (mk f) s = .next s' →
    OnlySlot t s s' ∧ OnlyScalars t s s' ∧ SameMemory s s' ∧ (s'.slot t).strm (!t.acc) = (s.slot t).strm (!t.acc) ∧
    (∀ r, (r ≠ g.d ∨ g.qd = true) → s'.reg t r = s.reg t r) ∧
    ∀ k, (g.qd = false ∨ k ≠ g.d.toNat) → (g.qa = false ∨ k ≠ g.a.toNat) → (s'.slot t).queue k = (s.slot t).queue k

/-- R87, R90, R97: where the result goes. s0 discards it; with QD it is pushed with zeros above; with QA the entry read has left its
queue. -/
def Obligations.ResultsReachTheirDestination : Prop :=
  ∀ (s : State) (t : StreamId) (g : FmtA) (x : Word), t.slot < 5 →
    (g.qd = false → (s.resultA t g x).reg t g.d = if g.d = 0 then 0 else x) ∧
    (g.qd = true → g.d.toNat < 8 → (g.qa = false ∨ g.a ≠ g.d) → ((s.slot t).queue g.d.toNat).length < 8 →
      ((s.resultA t g x).slot t).queue g.d.toNat = (s.slot t).queue g.d.toNat ++ [x.setWidth 512]) ∧
    (g.qa = true → g.a.toNat < 8 → (g.qd = false ∨ g.a ≠ g.d) →
      ((s.resultA t g x).slot t).queue g.a.toNat = ((s.slot t).queue g.a.toNat).tail)
/-- R267, R268, R270, R273: LACE of a tile that may be read marks it read in the region's record and starts a tour, with the tile as its home
holds it and its status register in the scoreboard; a tile read before gives 0x0B, a tile beyond the grid 0x07, an address between tiles
0x06, and a region without a grid or another launch's 0x04. The first LACE that finds no launch tag sets it, whatever its tile. -/
def Obligations.LaceStartsATour : Prop :=
  ∀ (s : State) (t : StreamId) (f : FmtE) (pl : Place) (off : Nat) (stops : List TourStop), t.slot < 5 →
    s.IssuesE t (entEngine 0xC8 usedDabc) → s.fifoOk t = true →
    let c := s.core t.core
    let ctl := s.reg t f.a
    let a := s.reg t f.b
    s.ctlMsgBad t.core ctl = false → ctlRestBad ctl = false → ctlFill ctl = false → ctlEsz ctl = 1 →
    (ctlMsg ctl = true → ctlChanNo ctl = 62 → (s.strm t).pl ≠ 0) → s.OwnRecord t (s.reg t f.c) off 64 64 →
    (s.strm t).snap = [] → s.itinerary t.core (s.mem.readNat (localKey t.core off) 64) = some stops →
    s.space t.core a = some (.virt a) ∨ (∃ q o, s.space t.core a = some (.vault q o) ∧ o < vaultSize ∧ addrTag a ≠ 2) →
    s.devPlace t.core a = some pl → s.reachable t.core a = true → pl.module = 0x1FFF →
    let r := s.region pl.rkey
    let me := (c.tag, (s.slot t).launch)
    let refused (st : Byte) (found : Region) : Prop := ∃ s' : State, exec (.lace f) s = .next (s'.retire t) ∧ SameMemory s s' ∧
      s'.region pl.rkey = found ∧ (∀ k, k ≠ pl.rkey → s'.region k = s.region k) ∧
      (s'.core t.core).tours = c.tours ∧ (f.d ≠ 0 → s'.reg t f.d = statusWord 0 c.dseq st)
    let tagged : Region := { r with laceLaunch := some me }
    (r.lace = none → refused 0x04 r) ∧
    ∀ g, r.lace = some g →
      let unit := 64 * gridTsz g
      let at_ := pl.key - pl.rkey
      (r.st ≠ .published → ¬(r.st = .shadowed ∧ r.side = false) → refused 0x04 r) ∧
      (r.st = .published ∨ r.st = .shadowed ∧ r.side = false →
        (∀ l, r.laceLaunch = some l → l ≠ me → refused 0x04 r) ∧
        (r.laceLaunch = none ∨ r.laceLaunch = some me →
          (at_ % unit ≠ 0 → refused 0x06 tagged) ∧
          (at_ % unit = 0 → gridRows g * gridCols g ≤ at_ / unit → refused 0x07 tagged) ∧
          (at_ % unit = 0 → at_ / unit < gridRows g * gridCols g → at_ / unit ∈ r.laceRead → refused 0x0B tagged) ∧
          (at_ % unit = 0 → at_ / unit < gridRows g * gridCols g → at_ / unit ∉ r.laceRead → ∃ s' : State,
            exec (.lace f) s = .next (s'.retire t) ∧ SameMemory s s' ∧
            s'.region pl.rkey = { r with laceRead := (at_ / unit) :: r.laceRead, laceLaunch := some me } ∧
            (∀ k, k ≠ pl.rkey → s'.region k = s.region k) ∧
            (s'.core t.core).tours = (c.tours.filter fun u => !u.ended || c.ring.any fun e => e.seq == u.tk.seq) ++
              [⟨s.ticket t f.d, ctl, a, gridTsz g, stops, some (s.mem.readNat pl.key unit), false, false, 0, 0, 0, 0, 0, false⟩] ∧
            (s'.slot t).board = if f.d = 0 then (s.slot t).board else (s.slot t).board ||| (1#64 <<< f.d.toNat))))

/-- R272, R275, R280: what LTAKE, LREL and LSTAT do in each state of a lace slot; LTAKE and LREL perform after the slot's older reads. R266,
R271, R274 to R279: the steps of a tour: the tile is read whole, or its error ends the tour, a copy waits for an Empty slot that is large
enough and then sends granules, its last byte makes the slot Held and the first arrival writes the tour's status, a hold past its limit is
overrun, and the last report ends the tour with its masks. -/
def Obligations.LaceSlotsAndTours : Prop :=
  (∀ (s : State) (t : StreamId) (f : FmtE),
    let i := f.imm.toNat % 16
    let p := t.core
    let w := s.laceWord p i
    let a := localAddr p (64 * lsBase w)
    let held : Prop := lsState w = 2 ∨ lsState w = 3 ∨ lsState w = 4
    let answer (x : Instr) (s0 : State) (v : Word) : Prop := exec x s = .next ((s0.setReg t f.d v).retire t)
    let become (x : Instr) (v : Word) (st : Nat) : Prop := ∃ s0 : State, answer x s0 v ∧ SameMemory s s0 ∧ lsState (s0.laceWord p i) = st ∧
      (s0.laceWord p i).extractLsb' 0 25 = w.extractLsb' 0 25 ∧ ∀ k, k ≠ i → s0.laceWord p k = s.laceWord p k
    (s.IssuesE t (entEngine 0xC9 usedD) → s.olderAccess t = false →
      (lsState w = 2 → become (.ltake f) a 3 ∧ become (.ltakeNb f) a 3) ∧
      (lsState w = 3 ∨ lsState w = 4 → answer (.ltake f) s a ∧ answer (.ltakeNb f) s a) ∧
      (¬held → exec (.ltake f) s = .next s ∧ answer (.ltakeNb f) s 0)) ∧
    (s.IssuesE t (entEngine 0xCA usedD) → s.olderAccess t = false →
      (¬held → answer (.lrel f) s 0x04) ∧
      (lsState w = 2 ∨ lsState w = 3 → s.lastStop p i = true → become (.lrel f) 0 0) ∧
      (lsState w = 2 ∨ lsState w = 3 → s.lastStop p i = false →
        answer (.lrel f) ((s.setLaceWord p i (lsMove w 5 (lsOvr w) 1)).startOut p i true) 0) ∧
      (lsState w = 4 → lsOut w = 2 → become (.lrel f) 0 0) ∧ (lsState w = 4 → lsOut w ≠ 2 → become (.lrel f) 0 5)) ∧
    (s.IssuesE t (entEngine 0xCB usedD) → answer (.lstat f) s w ∧
      answer (.lstatHold f) s (if held then s.time - ((s.core p).laceSlot i).since else 0)) ∧
    (s.IssuesE t (entEngine 0xCB usedDa) → (s.reg t f.a).toNat < 2 ^ 16 → ∃ v : Word, answer (.lstatTour f) s v ∧
      ∀ u, (s.core p).tours.find? (fun u => u.tk.seq.toNat == (s.reg t f.a).toNat) = some u → u.ended = false →
        v = u.masks ||| 0x8000)) ∧
  (∀ (s : State) (p : Nat) (seq : BitVec 16) (u : Tour), s.tour p seq = some u →
    (∀ pl x, u.data = some x → u.read = false → u.ended = false → s.devPlace p u.tile = some pl → pl.module = 0x1FFF →
      (s.badIn pl.key (64 * u.tsz) = none → exec (.laceTileRead p seq) s =
        .next ((s.modTour p seq fun u => { u with data := some x, read := true }).sendFrom p seq none none 0)) ∧
      ((s.badIn pl.key (64 * u.tsz)).isSome = true → exec (.laceTileRead p seq) s = .next (s.tourEnds p u 0 0x05 0))) ∧
    (∀ o, s.outbound.find? (fun o => o.of p seq .waiting || o.of p seq .sending) = some o → o.phase = .sending →
      exec (.laceOutboundStart p seq) s = .next (s.freeWord.2.moveTile o u (s.freeWord.1.toNat % (8 * u.tsz))).1) ∧
    (∀ o, s.outbound.find? (fun o => o.of p seq .waiting || o.of p seq .sending) = some o → o.phase = .waiting → o.slot < 16 →
      let w := s.laceWord o.pos o.slot
      (s.core o.pos).lost = false → lsState w = 0 →
      s.outbound.find? (fun x => x.phase == .waiting && x.pos == o.pos && x.slot == o.slot) = some o → u.tsz ≤ lsSize w →
      ∃ s' : State, exec (.laceOutboundStart p seq) s = .next s' ∧ SameMemory s s' ∧ lsState (s'.laceWord o.pos o.slot) = 1 ∧
        (s'.laceWord o.pos o.slot).extractLsb' 0 25 = w.extractLsb' 0 25 ∧
        s'.outbound = s.outbound.map fun x => if x == o then { o with phase := .sending } else x) ∧
    (∀ o x, s.Inv → s.outbound.find? (·.of p seq .sending) = some o → (∀ y ∈ s.outbound, y ≠ o → y.of p seq .sending = false) →
      o.slot < 16 → o.sender = none → o.frozen = none → u.data = some x →
      let w := s.laceWord o.pos o.slot
      let k := localKey o.pos (64 * lsBase w)
      ∃ s' : State, exec (.laceLastByte p seq) s = .next s' ∧ lsState (s'.laceWord o.pos o.slot) = 2 ∧
        lsTseq (s'.laceWord o.pos o.slot) = seq ∧ lsStop (s'.laceWord o.pos o.slot) = o.stop % 16 ∧
        s'.outbound = s.outbound.filter (· != o) ∧
        (∀ a, k + 8 * o.sent ≤ a → a < k + 64 * u.tsz → (u.told = true ∨ ((s.core p).slot u.tk.slot).inHandler = false) →
          s'.mem.read a = BitVec.ofNat 8 (x / 256 ^ (a - k))) ∧
        (u.told = false → u.tk.slot < 5 → u.tk.d ≠ 0 → s.firingRuns p u.tk.slot u.tk.fseq = true →
          ((s.core p).slot u.tk.slot).board.getLsbD u.tk.d.toNat = true →
          s'.reg ⟨p, u.tk.slot, false⟩ u.tk.d = statusWord 1 seq 0)) ∧
    (∀ o i, i < 16 → s.outbound.find? (fun o => o.sender == some (p, i) && o.phase == .arrived) = some o →
      exec (.laceOutboundDone p i) s =
        .next (({ s with outbound := s.outbound.filter (· != o) }.outDone o.sender).setCore p
          ((({ s with outbound := s.outbound.filter (· != o) }.outDone o.sender).core p).pmCount 0x09 none 1))) ∧
    (∀ i h, i < 16 → lsState (s.laceWord p i) ∈ [2, 3] → holdLimit (s.holdCode p i) = some h →
      (((s.time - ((s.core p).laceSlot i).since).toNat ≤ h → exec (.laceHoldExpire p i) s = .next s) ∧
      (h < (s.time - ((s.core p).laceSlot i).since).toNat → ∃ s' : State,
        exec (.laceHoldExpire p i) s = .next s' ∧ lsState (s'.laceWord p i) = 4 ∧ lsOvr (s'.laceWord p i) = true ∧
        (s.lastStop p i = true → lsOut (s'.laceWord p i) = 2) ∧ SameMemory s s'))) ∧
    (u.ended = false → u.read = true →
      (u.reports < u.stops.length → exec (.laceTourComplete p seq) s = .next s) ∧
      (u.stops.length ≤ u.reports → ∃ s' : State, exec (.laceTourComplete p seq) s = .next s' ∧
        (∀ u', s'.tour p seq = some u' → u'.ended = true ∧ u'.told = true) ∧
        (u.told = false → u.tk.slot < 5 → u.tk.d ≠ 0 → s.firingRuns p u.tk.slot u.tk.fseq = true →
          ((s.core p).slot u.tk.slot).board.getLsbD u.tk.d.toNat = true →
          s'.reg ⟨p, u.tk.slot, false⟩ u.tk.d = statusWord 0 seq 0x0D))))

/-- R284, R287 to R291, R309: MTASK without FMT traps 0x01; a task whose descriptor, half and image pass and whose probe succeeds enters
its half's queue with s[D] in the scoreboard, where it turns a falling ramp, stalls unexecuted while that holds 64 records, and what fails
gives its status at once; a probe that waits keeps the descriptor as it was read. MCBL queues its table in the same order and writes 0 to
s[D]. -/
def Obligations.MatrixTasksAreQueued : Prop :=
  ∀ (s : State) (t : StreamId) (f : FmtE) (off : Nat), t.slot < 5 →
    let c := s.core t.core
    let refused (i : Instr) (w : Word) : Prop := ∃ s' : State, exec i s = .next (s'.retire t) ∧ SameMemory s s' ∧
      s'.halves = s.halves ∧ (s'.core t.core).dseq = c.dseq + 1 ∧ (f.d ≠ 0 → s'.reg t f.d = w)
    let enters (i : Instr) (h : Nat) (r : MRec) (ramp : Ramp) (board : BitVec 64) (d : Word) : Prop := ∃ s' : State,
      exec i s = .next (s'.retire t) ∧ SameMemory s s' ∧
      s'.half h = { s.half h with queue := (s.half h).queue ++ [r], ramp := ramp } ∧ (∀ k, k ≠ h → s'.half k = s.half k) ∧
      (s'.core t.core).dseq = c.dseq + 1 ∧ (s'.slot t).board = board ∧ (f.d ≠ 0 → s'.reg t f.d = d)
    (s.IssuesE t ⟨0xD0, usedDabc, true, false, none⟩ →
      ((s.strm t).fmt = none → exec (.mtask f) s = .next (s.precise t 0x01 none)) ∧
      (∀ fm, (s.strm t).fmt = some fm → (s.strm t).snap = [] → s.OwnRecord t (s.reg t f.b) off 64 128 → s.descSnapshot t f =
        .ok (s.mem.readNat (localKey t.core off) 128, s.modStrm t fun x => { x with snap := [s.mem.readNat (localKey t.core off) 128] })) ∧
      (∀ b xs, (s.strm t).snap = b :: xs → s.descSnapshot t f = .ok (b, s)) ∧
      ∀ fm bytes s0, (s.strm t).fmt = some fm → s.descSnapshot t f = .ok (bytes, s0) →
        let r : MRec := ⟨s.nextOrder, t.core, s.ticket t f.d, c.tag, c.ctx, fm, wordsOf 16 bytes, s.reg t f.c, none, false, 0⟩
        let no (st : Byte) : Prop := refused (.mtask f) (statusWord 0 c.dseq st)
        (s.descBad t.core r = true → no 0x08) ∧
        (s.descBad t.core r = false → (tgtV (r.word 9) = true → tgtChan (r.word 9) = 62 → (s.strm t).pl ≠ 0) →
          (s.halfNo c.tag (s.reg t f.a) = none → no 0x04) ∧
          ∀ h, s.halfNo c.tag (s.reg t f.a) = some h →
            (2 ^ 21 < r.n * (r.bBytes + r.scBytes) → no 0x07) ∧
            ∀ s1, r.n * (r.bBytes + r.scBytes) ≤ 2 ^ 21 → s0.taskProbe t f h r = .ok s1 →
              (64 ≤ (s.half h).queue.length → exec (.mtask f) s = .next (s1.stall t)) ∧
              ((s.half h).queue.length < 64 → (s.half h).holdsId c.ctx r.id = true → no 0x08) ∧
              ((s.half h).queue.length < 64 → (s.half h).holdsId c.ctx r.id = false →
                enters (.mtask f) h r ((s.rampTurn h).half h).ramp
                  (if f.d = 0 then (s.slot t).board else (s.slot t).board ||| (1#64 <<< f.d.toNat)) (s.reg t f.d)))) ∧
    (s.IssuesE t (entEngine 0xD2 usedDab) → s.OwnRecord t (s.reg t f.b) off 8 2048 →
      let table := wordsOf 256 (s.mem.readNat (localKey t.core off) 2048)
      (s.halfNo c.tag (s.reg t f.a) = none → refused (.mcbl f) 0x04) ∧
      ∀ h, s.halfNo c.tag (s.reg t f.a) = some h →
        (64 ≤ (s.half h).queue.length → exec (.mcbl f) s = .next s) ∧
        ((s.half h).queue.length < 64 → (∃ w ∈ table, 2 ^ 33 ≤ w.toNat) → refused (.mcbl f) 0x08) ∧
        ((s.half h).queue.length < 64 → (∀ w ∈ table, w.toNat < 2 ^ 33) →
          enters (.mcbl f) h ⟨s.nextOrder, t.core, s.ticket t 0, c.tag, c.ctx, ⟨0, 0, 0, 0, 0, false, 0⟩, [], 0, some table, false, 0⟩
            (s.half h).ramp (s.slot t).board 0))

/-- R284 to R286, R292, R293, R304, R309, R398: a half starts its oldest ready task, takes the resident image or begins to load one, which
counts once it is loaded, goes on with the one that runs, delivers a task's status with its completion, keeps a preempted task as its
running one until it resumes, applies a table once nothing older is left, and drops its image on an uncorrectable error. R308, R310: what
MQRY and DSEQ read of a half, of its counters and of an entry of the dispatch ring. -/
def Obligations.HalvesRunAndAreQueried : Prop :=
  (∀ (s : State) (h : Nat),
    let x := s.half h
    (∀ r, x.run = none → s.nextTask h = some r → ∃ s' : State, exec (.matrixTaskStart h) s = .next s' ∧
      (s'.half h).queue = x.queue.filter (fun q => !(q.core == r.core && q.tk.seq == r.tk.seq)) ∧
      let found : Prop := ∃ b, x.image = some b ∧ b.keep = true ∧ s.imageKey r = (b.key, true)
      let hit : Prop := (s'.half h).run = some { MRun.fresh r with loaded := r.imagePieces.length } ∧ (s'.half h).image = x.image ∧
        (s'.half h).count 5 = x.count 5 + 1
      let load : Prop := (s'.half h).run = some (MRun.fresh r) ∧ (s'.half h).image = some (s.emptyImage r) ∧
        (s'.half h).count 5 = x.count 5 ∧ (s'.half h).count 4 = x.count 4
      (found → s.imageAway r = false → hit) ∧ (found → s.imageAway r = true → hit ∨ load) ∧ (¬found → load)) ∧
    (∀ n u, u.loaded < u.r.imagePieces.length → ∀ s1 u', s.loadPieces h u n = (s1, u', none) → u'.ready = true →
      n ≤ u.r.imagePieces.length - u.loaded →
      ((s.taskSome h n u).half h).run = some u' ∧ ((s.taskSome h n u).half h).count 4 = (s1.half h).count 4 + 1) ∧
    (∀ u, x.run = some u → exec (.matrixTaskStart h) s = .next (if u.r.saved then (s.rampUp h).resumeTask h u
      else s.freeWord.2.taskSome h (s.freeWord.1.toNat % taskWork u) u)) ∧
    (∀ u, x.run = some u → u.r.saved = false → ∀ s1 u', s.taskRun h (taskWork u) u = (s1, u', none) →
      exec (.matrixTaskComplete h) s = .next (s1.taskEnds h u' 0 0)) ∧
    (∀ u s1 u' e a, x.run = some u → u.r.saved = false → s.taskRun h (taskWork u) u = (s1, u', some (e, a)) →
      exec (.matrixTaskComplete h) s = .next (s1.taskEnds h u' e a)) ∧
    (∀ u st a, x.run = some u → tgtV (u.r.word 9) = false → u.r.tk.slot < 5 → u.r.tk.d ≠ 0 →
      s.firingRuns u.r.core u.r.tk.slot u.r.tk.fseq = true →
      ((s.core u.r.core).slot u.r.tk.slot).board.getLsbD u.r.tk.d.toNat = true →
      let s' := s.taskEnds h u st a
      (s'.half h).run = none ∧ (s'.half h).queue = x.queue ∧ (s'.half h).count 0 = x.count 0 + 1 ∧
        (s'.half h).image = (if st = 0x05 ∨ u.ready = false then none else x.image) ∧
        s'.reg ⟨u.r.core, u.r.tk.slot, false⟩ u.r.tk.d = statusWord u.done u.r.tk.seq st) ∧
    (∀ u, x.run = some u → exec (.halfUncorrectableError h) s = .next (s.taskEnds h u 0x05 0)) ∧
    (∀ u, x.run = some u → u.r.saved = false → ∃ s' : State, exec (.matrixPreempt h 0) s = .next s' ∧
      (s'.half h).run = some { u with r := { u.r with saved := true } } ∧ (s'.half h).image = none ∧ (s'.half h).queue = x.queue ∧
      (s'.half h).count 6 = x.count 6 + 1) ∧
    (∀ r rs table, x.run = none → x.queue = r :: rs → r.table = some table → ∃ s' : State, exec (.mcblApply h) s = .next s' ∧
      (s'.half h).codebook = table ∧ (s'.half h).queue = rs ∧ SameMemory s s') ∧
    (s.rampTime ≠ 0 → ∃ s' : State, exec (.rampEnd h) s = .next s' ∧ SameMemory s s' ∧ (s'.half h).queue = x.queue ∧
      (s'.half h).run = x.run ∧ (s'.half h).ramp = match x.ramp with
        | .quiescent => .quiescent
        | .full => .full
        | .rising b => if 1000 * s.rampTime.toNat ≤ (s.time - b).toNat then .full else x.ramp
        | .falling b => if 1000 * s.rampTime.toNat ≤ (s.time - b).toNat then .quiescent else x.ramp)) ∧
  (∀ (s : State) (t : StreamId) (f : FmtE),
    let c := s.core t.core
    let a := s.reg t f.a
    let answers (i : Instr) (P : Word → Prop) : Prop := ∃ w : Word, exec i s = .next ((s.setReg t f.d w).retire t) ∧ P w
    let entry (w : Word) (e : DEntry) : Prop := match f.imm.toNat % 4 with
      | 0 => w.extractLsb' 0 16 = e.seq ∧ w.extractLsb' 16 2 = e.st.code2 ∧ w.extractLsb' 32 3 = BitVec.ofNat 3 e.slot ∧
          w.getLsbD 39 = true ∧ w.extractLsb' 40 8 = if e.st = .issued then 0 else e.status
      | 1 => w = e.pc.setWidth 64
      | 2 => w = e.word.extractLsb' 0 64
      | _ => w = (e.word.extractLsb' 64 32).setWidth 64
    (s.IssuesE t (entEngine 0xD1 usedDa) →
      (a.toNat < 2 ^ 16 → answers (.mqry f) fun w => w.extractLsb' 16 16 = a.extractLsb' 0 16 ∧
        (∀ r u, s.findTask t.core (a.extractLsb' 0 16) = some (r, some u) →
          w.extractLsb' 56 8 = BitVec.ofNat 8 u.pidx ∧ w.extractLsb' 32 16 = BitVec.ofNat 16 u.done ∧
          w.extractLsb' 14 2 = BitVec.ofNat 2 u.phase ∧ w.extractLsb' 8 3 = 2) ∧
        (∀ r, s.findTask t.core (a.extractLsb' 0 16) = some (r, none) → w.extractLsb' 8 3 = 1)) ∧
      (s.halfNo c.tag a = none → exec (.mqryHalf f) s = .next ((s.setReg t f.d 0).retire t) ∧
        exec (.mqryCtr f) s = .next ((s.setReg t f.d 0).retire t)) ∧
      ∀ h, s.halfNo c.tag a = some h →
        answers (.mqryHalf f) (fun w => w.extractLsb' 0 10 = BitVec.ofNat 10 h ∧ w.extractLsb' 10 8 = BitVec.ofNat 8 (h / 4) ∧
          w.extractLsb' 18 7 = BitVec.ofNat 7 (64 - (s.half h).queue.length) ∧ w.getLsbD 48 = (s.half h).run.isSome ∧
          w.getLsbD 49 = ((s.half h).image.isSome && (s.half h).run.all (·.ready)) ∧ ∀ u, (s.half h).run = some u → w.extractLsb' 32 16 = u.r.id) ∧
        exec (.mqryCtr f) s = .next ((s.setReg t f.d ((s.half h).count (f.imm.toNat % 16))).retire t)) ∧
    (s.IssuesE t (entEngine 0xD1 usedD) → answers (.mqryNear f) fun w =>
      (s.nearHalf c.tag (clusterOf t.core) (f.imm.toNat % 4) = none → w = BitVec.allOnes 64) ∧
      ∀ l, s.nearHalf c.tag (clusterOf t.core) (f.imm.toNat % 4) = some l → w = BitVec.ofNat 64 l) ∧
    (s.IssuesE t (entEngine 0xD3 usedDa) →
      (a.toNat < 2 ^ 16 → answers (.dseq f) fun w =>
        (∀ e, c.ring.reverse.find? (fun e => e.seq == a.extractLsb' 0 16) = some e → entry w e) ∧
        (c.ring.reverse.find? (fun e => e.seq == a.extractLsb' 0 16) = none → w = 0)) ∧
      answers (.dseqIdx f) fun w => (∀ e, c.ring.reverse[a.toNat]? = some e → entry w e) ∧ (c.ring.reverse[a.toNat]? = none → w = 0)))

/-! ### Pipelines (R316 to R341) -/

/-- R320 to R328: PBIND of a well-formed chain whose pool, source, parameters and handlers pass enters a new binding under the lowest free
entry (the model's choice, log 19) with the entry's next generation, and answers its handle; what fails is answered in the order of
R324. R332, R333, R335, R337, R340: PSTG, PDET, the queries, PPOS and GOVT by the binding that the handle names. That GOVT answers a
malformed threshold with 0x08 before it asks whether the handle names a binding or whose the stage is, is the model's reading (log 61). -/
def Obligations.ChainsAreBoundAndServed : Prop :=
  (∀ (s : State) (t : StreamId) (f : FmtE) (off : Nat), s.IssuesE t (entPipe 0xE0 eDa) → s.OwnRecord t (s.reg t f.a) off 256 256 →
    let p := t.core
    let tag := (s.core p).tag.toNat
    let l := s.link tag
    let ws := s.localWords p off 32
    let answer (st : Word) : Prop := exec (.pbind f) s = .next ((s.setReg t f.d st).retire t)
    (s.chainOk p ws = false → answer 0x08) ∧
    (s.chainOk p ws = true → s.chainPool p ws = none → answer 0x04) ∧
    ∀ pool, s.chainOk p ws = true → s.chainPool p ws = some pool →
      ((∃ c ∈ pool, ∃ b ∈ l.binds, ∃ d ∈ b.pool, d.2 = c.2) → answer 0x04) ∧
      ∀ pl, (∀ c ∈ pool, ∀ b ∈ l.binds, ∀ d ∈ b.pool, d.2 ≠ c.2) → s.placeOf p (.virt (ws.getD 1 0)) = some pl → pl.module = 0x1FFF →
        s.reachable p (ws.getD 1 0) = true →
        let r := s.region pl.rkey
        (r.st ≠ .published → answer 0x04) ∧ (r.st = .published → r.lace.isSome = true → answer 0x04) ∧
        (r.st = .published → r.lace = none → pageLen pl.size < pl.key - pl.rkey + 64 * chLen ws → answer 0x07) ∧
        ∀ pids cids e, r.st = .published → r.lace = none → pl.key - pl.rkey + 64 * chLen ws ≤ pageLen pl.size →
          s.bindIds p ((List.range (chNst ws)).map (parVa ws)) = .ok (some pids, s) →
          (s.chainHandlers ws pool = false → answer 0x08) ∧
          (s.chainHandlers ws pool = true →
            s.bindIds p ((List.range (chNst ws)).map fun k =>
              some ((hENTRY ((s.core ((pool.map (·.2)).headD 0)).handler (sbHidx (chB ws k)).toNat).hw0).setWidth 64)) = .ok (some cids, s) →
            (l.freeEntry = none → answer 0x07) ∧
            (l.freeEntry = some e → ∃ (s' : State) (w : Word) (b : Binding),
              exec (.pbind f) s = .next ((s'.setReg t f.d w).retire t) ∧ SameMemory s s' ∧
              (s'.link tag).binds = l.binds ++ [b] ∧ e < 256 ∧ l.bind e = none ∧ b.entry = e ∧ b.order = l.nextOrder ∧ b.core = p ∧
              b.gen = (match NMap.find l.gens e with
                | none => 0
                | some g => g + 1) ∧
              b.len = chLen ws ∧ b.reply = ws.getD 3 0 ∧ b.pool = pool ∧ b.src.region = pl.va ∧ b.src.version = r.version ∧
              w.extractLsb' 0 8 = 0 ∧ w.extractLsb' 8 8 = BitVec.ofNat 8 e ∧ w.extractLsb' 16 8 = b.gen ∧
              w.extractLsb' 24 4 = BitVec.ofNat 4 b.l ∧ w.extractLsb' 28 36 = BitVec.ofNat 36 b.p))) ∧
  (∀ (s : State) (t : StreamId) (f : FmtE),
    let tag := (s.core t.core).tag.toNat
    let l := s.link tag
    let sl := s.slot t
    let n := f.imm.toNat % 32
    let k := f.imm.toNat % 8
    let answer (i : Instr) (s0 : State) (w : Word) : Prop := exec i s = .next ((s0.setReg t f.d w).retire t)
    let named (b : Binding) : Prop := s.handleOf t (s.reg t f.a) = some b
    let nobody : Prop := s.handleOf t (s.reg t f.a) = none
    (∀ h b, s.handleOf t h = some b → b ∈ l.binds ∧ b.entry = h.toNat / 2 ^ 8 % 256 ∧ b.gen = h.extractLsb' 16 8) ∧
    (s.IssuesE t (entPipe 0xE1 eDa) → ∀ off, (n = 0 ∧ off = 0) ∨ (n ≠ 0 ∧ s.space t.core (s.reg t f.a) = some (.lm t.core off) ∧ off % 8 = 0 ∧
        off + 8 * n ≤ localSize ∧ ∀ v, s.pureOf t = some v → (s.core t.core).inOb v off (8 * n) = true) →
      (sl.stageOf = none → answer (.pstg f) s 0x04) ∧
      ∀ v, sl.stageOf = some v → (v.last = true → answer (.pstg f) s 0x04) ∧
        (v.last = false → sl.emitted.isSome = true → answer (.pstg f) s 0x08) ∧
        ∀ x, v.last = false → sl.emitted = none → l.inst v.inst = some x →
          (x.failed = true → answer (.pstg f) s 0x0E) ∧
          (x.failed = false → x.gone = false →
            (l.fullTarget x sl.item.toNat = true → exec (.pstg f) s = .next s) ∧
            (l.fullTarget x sl.item.toNat = false → s.badIn (localKey t.core off) (8 * n) = none →
              let r := l.emit x s.time (s.core t.core).lcore false sl.item.toNat (s.localWords t.core off n)
              answer (.pstg f) ((s.setLink tag r.1).setSlot t { sl with emitted := some r.2 }) 0))) ∧
    (s.IssuesE t (entPipe 0xE2 eDa) → (nobody → answer (.pdet f) s 0x04) ∧
      ∀ b, named b → answer (.pdet f) (s.endBinding tag b (some (0x09, b.len))) 0) ∧
    (s.IssuesE t (entPipe 0xE3 eDa) →
      (nobody → answer (.pqry f) s 0 ∧ answer (.pqryTime f) s 0 ∧ answer (.pqryEnergy f) s 0 ∧ answer (.pqryStage f) s 0) ∧
      ∀ b, named b → answer (.pqryTime f) s b.time ∧
        (∃ w : Word, answer (.pqry f) s w ∧ w.extractLsb' 8 8 = BitVec.ofNat 8 b.entry ∧ w.extractLsb' 16 8 = b.gen ∧
          w.extractLsb' 24 4 = BitVec.ofNat 4 b.l ∧ w.extractLsb' 28 4 = BitVec.ofNat 4 b.stages.length ∧
          w.extractLsb' 32 8 = BitVec.ofNat 8 (b.parent.getD 0xFF)) ∧
        answer (.pqryEnergy f) s b.energy ∧
        answer (.pqryStage f) s (s.stageWord b k)) ∧
    (s.IssuesE t (entPipe 0xE4 eDa) → (nobody → answer (.ppos f) s 0 ∧ answer (.pposDone f) s 0) ∧
      ∀ b, named b → answer (.ppos f) s (BitVec.ofNat 64 (b.emitted.getD k 0)) ∧
        answer (.pposDone f) s (BitVec.ofNat 64 b.done.length)) ∧
    (s.IssuesE t (entPipe 0xE5 eDab) → (nobody → answer (.govt f) s (if govOk (s.reg t f.b) then 0x04 else 0x08)) ∧
      ∀ b, named b → (govOk (s.reg t f.b) = false ∨ b.stages.length ≤ k → answer (.govt f) s 0x08) ∧
        ∀ j x d, govOk (s.reg t f.b) = true → b.tag.toNat = tag → b.stages[k]? = some d → b.insts[k]? = some j → l.inst j = some x →
          (x.owner ≠ b.entry → answer (.govt f) s 0x04) ∧
          (x.owner = b.entry →
            answer (.govt f) (s.setLink tag (l.setBind { b with stages := setAt b.stages k { d with gov := s.reg t f.b } })) 0)) ∧
    (s.IssuesE t (entPipe 0xE5 eDa) → (nobody → answer (.govtRd f) s 0) ∧
      ∀ b d, named b → b.stages[k]? = some d → answer (.govtRd f) s d.gov))

/-- R317, R327, R328, R330, R332, R338: the steps of the link engine: the source reader fills the holding queue while it has room, an item
goes to its core's ring and leaves the queue, a binding whose items are done ends with status 0x00, a catch-up chain that has emitted
its items joins its stage, and the governor moves a core once at each multiple of 4,096 ticks. What the source reader is refused, and by
the model's reading a source line with an uncorrectable error too (log 60), counts as a trap of its instance (R336). -/
def Obligations.LinkEngineSteps : Prop :=
  ∀ (s : State) (tag e : Nat),
    let l := s.link tag
    (∀ x r, l.find e 0 false = some x → x.reader = some r → r.module = 0x1FFF →
      (r.stop ≤ r.next ∨ 64 ≤ x.held.length → exec (.sourceReaderItem tag e false) s = .next s) ∧
      (r.next < r.stop → x.held.length < 64 →
        let g := s.region r.rkey
        let k := r.key + 64 * r.next
        (g.st ≠ .published ∨ g.lace.isSome = true ∨ g.version ≠ r.version ∨ (s.badIn k 64).isSome = true →
          exec (.sourceReaderItem tag e false) s = .next (s.readerFails tag x)) ∧
        (g.st = .published → g.lace = none → g.version = r.version → s.badIn k 64 = none →
          exec (.sourceReaderItem tag e false) s = .next (s.setLink tag
            (((l.setInst { x with reader := some { r with next := r.next + 1 } }).hold { x with reader := some { r with next := r.next + 1 } }
              s.time 0 true false false r.next (wordsOf 8 (s.mem.readNat k 64)))))))) ∧
    (∀ x k h p s1, l.find e k false = some x → s.deliverable x [] x.held = some (h, p) →
      s.arrive p x.sd.chan (h.arriving (s.core p).lcore) = some s1 → ∃ s' : State, exec (.itemDelivery tag e k false) s = .next s' ∧
        (s'.link tag).insts = ((s1.link tag).setInst { x with
          held := x.held.erase h
          items := x.items ++ [(p, (s.core p).ch.nextId)] }).insts ∧ s'.cores = s1.cores ∧ s'.mem = s1.mem) ∧
    (∀ x k hs c, l.find e k false = some x → x.held = hs → 0 < x.cores.length → s.deliverable x [] hs = some c →
      c.1 ∈ hs ∧ (x.cores[heldIndex c.1 % x.cores.length]?).map (·.2) = some c.2) ∧
    (∀ b, l.bind e = some b →
      exec (.bindingComplete tag e) s = .next (if b.len ≤ b.done.length then s.endBinding tag b (some (0, b.len)) else s)) ∧
    (∀ b x y j m, l.bind e = some b → b.cu.getLast? = some j → l.inst j = some x → b.insts[b.l]? = some m → l.inst m = some y →
      (x.count < b.p → exec (.catchupRetire tag e) s = .next s) ∧
      (b.p ≤ x.count → ∃ s' : State, exec (.catchupRetire tag e) s = .next (s'.settle tag) ∧
        (∀ b', (s'.link tag).binds.find? (fun u => u.order == b.order) = some b' → b'.cu = []) ∧ SameMemory s s')) ∧
    (s.time.toNat % 4096 ≠ 0 ∨ (s.part tag).evalAt = some s.time → exec (.governorEvaluation tag) s = .next s) ∧
    (∀ x b w c, s.time.toNat % 4096 = 0 → (s.part tag).evalAt ≠ some s.time →
      pick s.asksBefore ((s.governed tag).filter fun g => govHigh g.2.2 != 0 && decide (govHigh g.2.2 ≤ s.occupancy g.1)) = some (x, b, w) →
      lastCore (l.idle b) = some c → exec (.governorEvaluation tag) s =
        .next ((s.modPart tag fun p => { p with evalAt := some s.time }).giveCore tag x c)) ∧
    (∀ (p : Nat) (x : Inst) (c : Nat × Nat), (s.core p).tag.toNat = tag → l.insts = [x] → x.leaving = [c] → c.2 = p →
      x.gone = false → x.drain = false → (s.core p).runs x.sd.id.hidx = false → ((s.core p).chRing x.sd.chan.toNat).count = 0 →
      ∃ s' : State, exec (.governorDonorMask p) s = .next s' ∧ SameMemory s s' ∧
        (hVALID ((s.core p).handler x.sd.id.hidx.toNat).hw0 = true → hMASK ((s'.core p).handler x.sd.id.hidx.toNat).hw0 = true) ∧
        ∀ y ∈ (s'.link tag).insts, c ∉ y.leaving)

/-! ### Power, time, counters, trace and debug (R392 to R411) -/

/-- R396 to R404, R411: TIME, CYCL and THRS read their registers, ENRG an account that has only gained; PMCR configures a counter and
clears it, unless its word is reserved or the bank lent; PMCR.rd reads 63 bits of the count with LENT. R374, R403, R404, R407, R408:
an event adds to the counters that see it and to no other; a frozen bank counts nothing; TRAC.mark buffers its record while a session
takes marks; TRAC.cfg opens or closes the session and TRAC.rd reads it; a full buffer is sent; a core takes one sample at a multiple of the
session's period; claims set LENT. -/
def Obligations.CountersAndTraces : Prop :=
  (∀ (s : State) (t : StreamId) (f g : FmtA),
    let c := s.core t.core
    let i := g.imm.toNat % 8
    let x := vget ⟨0, 0⟩ c.pm i
    let d : Used := ⟨true, false, false, false, false⟩
    let answer (j : Instr) (s0 : State) (w : Word) : Prop := exec j s = .next ((s0.setReg t g.d w).retire t)
    (s.IssuesA t (entInt 0xE9 d) anyFields f g → answer (.time f) s s.time ∧ answer (.timeLo f) s (BitVec.ofNat 64 (s.time.toNat % 2 ^ 32))) ∧
    (s.IssuesA t (entInt 0xEA d) anyFields f g → answer (.cycl f) s c.cycles ∧ answer (.cyclS f) s c.scycles) ∧
    (s.IssuesA t (entInt 0xEB d) anyFields f g →
      (∃ s0 : State, answer (.enrg f) s0 (s0.ctx c.tag.toNat c.ctx.toNat).energy ∧ SameMemory s s0 ∧ s0.cores = s.cores) ∧
      ∃ (s0 : State) (w : Word), answer (.enrgL f) s0 w ∧ SameMemory s s0 ∧ s0.cores = s.cores ∧
        ∀ l, (s0.part c.tag.toNat).live.find? (fun l => l.num == (s.slot t).launch) = some l → w = l.energy) ∧
    (s.IssuesA t (entInt 0xEC d) anyFields f g → ∃ w : Word, answer (.thrs f) s w ∧ w.extractLsb' 16 16 = s.rampTime ∧
      w.extractLsb' 32 32 = 0 ∧
      (s.throttled c.tag.toNat (clusterOf t.core) = none → w.extractLsb' 0 16 = 0) ∧
      ∀ h k, s.throttled c.tag.toNat (clusterOf t.core) = some (h, k) →
        w.extractLsb' 0 3 = BitVec.ofNat 3 k ∧ w.extractLsb' 3 3 = BitVec.ofNat 3 (s.hstepOf h) ∧
        w.extractLsb' 6 3 = BitVec.ofNat 3 (s.rampNow (s.half h).ramp).2 ∧ w.extractLsb' 9 2 = (s.rampNow (s.half h).ramp).1 ∧
        (w.getLsbD 11 = true ↔ s.baseStep h < k)) ∧
    (s.IssuesA t (entInt 0xED ⟨true, true, false, false, false⟩) anyFields f g →
      ((s.strm t).pl = 0 → exec (.pmcr f) s = .next (s.precise t 0x0D none)) ∧
      ((s.strm t).pl ≠ 0 → (eventBad (s.reg t g.a) = true → answer (.pmcr f) s 0x08) ∧
        (eventBad (s.reg t g.a) = false → c.pmLent = true → answer (.pmcr f) s 0x04) ∧
        (eventBad (s.reg t g.a) = false → c.pmLent = false →
          answer (.pmcr f) (s.setCore t.core { c with pm := vset c.pm i ⟨s.reg t g.a, 0⟩ }) 0))) ∧
    (s.IssuesA t (entInt 0xED d) anyFields f g →
      (pmEn x.event = false ∨ pmCode x.event ≠ 0x04 ∨ c.pmLent = true →
        answer (.pmcrRd f) s (bit 1 c.pmLent ++ x.count.extractLsb' 0 63)) ∧
      ∃ (s0 : State) (w : Word), answer (.pmcrRd f) s0 w ∧ w.getLsbD 63 = c.pmLent ∧ SameMemory s s0)) ∧
  (∀ (s : State) (t : StreamId) (f g : FmtA),
    let p := t.core
    let c := s.core p
    let ctx := s.ctx c.tag.toNat c.ctx.toNat
    let answer (j : Instr) (s0 : State) (w : Word) : Prop := exec j s = .next ((s0.setReg t g.d w).retire t)
    (∀ (code : Byte) (slot : Option Nat) (n i : Nat), i < 8 →
      let x := vget ⟨0, 0⟩ c.pm i
      let y := vget ⟨0, 0⟩ (c.pmCount code slot n).pm i
      y.event = x.event ∧ y.count = x.count + if c.pmLent = false ∧ x.event.getLsbD 31 = true ∧ x.event.extractLsb' 0 8 = code ∧
        (x.event.extractLsb' 8 4 = 0 ∨ 0x20 ≤ code.toNat ∨ ∃ k, slot = some k ∧ (x.event.extractLsb' 8 4).getLsbD k = true)
        then BitVec.ofNat 64 n else 0) ∧
    (s.IssuesA t (entInt 0xEE ⟨false, true, false, false, false⟩) anyFields f g →
      (s.traces p 4 = false → exec (.tracMark f) s = .next (s.retire t)) ∧
      (s.traces p 4 = true → ∃ r, r.length = 4 ∧ (r.headD 0).extractLsb' 60 4 = 4 ∧ r.getD 1 0 = s.time ∧ r.getD 3 0 = s.reg t g.a ∧
        exec (.tracMark f) s = .next ((s.setCore p { c with trace := c.trace ++ [r] }).retire t))) ∧
    (s.IssuesA t (entInt 0xEE ⟨true, true, true, false, false⟩) anyFields f g →
      ((s.strm t).pl = 0 → exec (.tracCfg f) s = .next (s.precise t 0x0D none)) ∧
      ((s.strm t).pl ≠ 0 → (tracBad (s.reg t g.a) (s.reg t g.b) = true → answer (.tracCfg f) s 0x08) ∧
        (tracBad (s.reg t g.a) (s.reg t g.b) = false → let ring := s.ringPrivate c.tag c.ctx (s.reg t g.a &&& 0x00FFFFFFFFFFFFFF)
          (ring.1 = false → answer (.tracCfg f) ring.2 0x04) ∧
          (ring.1 = true → traceEn (s.reg t g.a) = true → ∃ s0 : State, answer (.tracCfg f) s0 0 ∧ SameMemory s s0 ∧
            (s0.ctx c.tag.toNat c.ctx.toNat).trace = some (s.reg t g.a, s.reg t g.b) ∧
            (s0.ctx c.tag.toNat c.ctx.toNat).lostTrace = 0) ∧
          (ring.1 = true → traceEn (s.reg t g.a) = false → ∃ s0 : State, answer (.tracCfg f) s0 0 ∧
            (s0.ctx c.tag.toNat c.ctx.toNat).trace = none ∧ (s0.ctx c.tag.toNat c.ctx.toNat).lostTrace = 0)))) ∧
    (s.IssuesA t (entInt 0xEE ⟨true, false, false, false, false⟩) anyFields f g →
      answer (.tracRd f) s (match ctx.trace with
        | some w => w.1
        | none => 0)) ∧
    exec (.traceFlush p) s = .next (if c.trace.length < 8 then s else s.flushTrace p) ∧
    (s.traces p 5 = false ∨ c.sampledAt = some s.time → exec (.traceSample p) s = .next s) ∧
    (∀ w k, s.traces p 5 = true → ctx.trace = some w → c.sampledAt ≠ some s.time →
      (s.time.toNat % 2 ^ traceP w.2 ≠ 0 → exec (.traceSample p) s = .next s) ∧
      (s.time.toNat % 2 ^ traceP w.2 = 0 → k < 5 → (c.slot k).st ≠ 0 → (∀ j < 5, j ≠ k → (c.slot j).st = 0) →
        exec (.traceSample p) s = .next ((s.setCore p { c with sampledAt := some s.time }).record p k 5 ((c.slot k).fseq ++ 0#32)))) ∧
    exec (.counterClaim p .counters) s = .next (s.setCore p { c with pmLent := true }) ∧
    exec (.counterClaim p .trace) s = .next (s.setCore p { c with traceLent := true }) ∧
    exec (.counterRelease p .counters) s = .next (s.setCore p { c with pmLent := false }) ∧
    exec (.counterRelease p .trace) s = .next (s.setCore p { c with traceLent := false }))

/-- R392 to R395, R409, R410: what the host's commands do to clocks, steps and the module's state; only a trip of an active or
idle-clocked module stops the clocks by itself; a frozen module leaves that state through off alone. The four debug-port instructions
select their register; what IEEE 1149.1 fixes there is the model's (log 23), as are that an idle-clocked command moves the module at once
and captures each context when its accesses have ended (log 93) and that off keeps TIMEBASE (log 69). R338, R393, R400, R401, R408: an
advance of the reference timer by `dt` ticks: TIMEBASE moves by them, but past no value at which a governor has still to evaluate, nor
while something is due (log 4); a core whose context runs and whose die has a clock gains its cycles, and 1,024 nominal cycles' worth of
SCYCLES with the increment of its operating point; a frozen module does not move. -/
def Obligations.ModuleStatesAndTime : Prop :=
  (∀ (s : State) (d : Nat),
    let x := s.die d
    (∀ p : BitVec 3, d < 4 → (p = x.point → exec (.operatingPointSet d p) s = .next s) ∧
      (p ≠ x.point → ∃ s' : State, exec (.operatingPointSet d p) s = .next s' ∧ (s'.die d).point = p ∧
        (s'.die d).relock = some (s.time + 2000) ∧ (s'.die d).hstep = x.hstep ∧ { s' with dies := s.dies } = s)) ∧
    (∀ e, d < 4 → x.relock = some e → (s.time.toNat < e.toNat → exec (.relockComplete d) s = .next s) ∧
      (e.toNat ≤ s.time.toNat → ∃ s' : State, exec (.relockComplete d) s = .next s' ∧ s'.die d = { x with relock := none } ∧
        { s' with dies := s.dies } = s)) ∧
    (∀ k, d < 4 → ∃ s' : State, exec (.hostStepSet d k) s = .next s' ∧ s'.die d = { x with hstep := k } ∧ { s' with dies := s.dies } = s) ∧
    (∀ sensor reading, exec (.thermalTrip d sensor reading) s = .next (if s.trip.toNat < reading.toNat ∧ s.frozen = false ∧
      (s.mode = .active ∨ s.mode = .idleClocked)
      then { s with mode := .clockStopped, mailbox := s.mailbox ++ [(d, sensor)] } else s)) ∧
    (∀ h, exec (.debugStop d h) s =
      .next (s.setCore d { s.core d with dbg := if (s.core d).dbg = some none then some none else some h })) ∧
    exec .freeze s = .next { s with frozen := true } ∧
    (∃ s' : State, exec (.moduleStateCommand .off) s = .next s' ∧ s'.mode = .off ∧ s'.mem = [] ∧ s'.cores = [] ∧ s'.keys = [] ∧
      s'.regions = [] ∧ s'.io.boot.phase = 0 ∧ s'.frozen = false ∧ s'.time = s.time) ∧
    (s.frozen = true → ∀ m, m ≠ .off → exec (.moduleStateCommand m) s = .next s) ∧
    (s.frozen = false → exec (.moduleStateCommand .active) s = .next { s with mode := .active } ∧
      exec (.moduleStateCommand .clockStopped) s = .next { s with mode := .clockStopped } ∧
      let s1 : State := { s with mode := .idleClocked }
      (∃ s' : State, exec (.moduleStateCommand .idleClocked) s = .next s' ∧ s'.mode = .idleClocked) ∧
      ∀ e, s.runningTags = [e] → s1.halts e.1 = true ∧
        (s1.settled (BitVec.ofNat 6 e.1) = false → exec (.moduleStateCommand .idleClocked) s = .next s1) ∧
        (s1.settled (BitVec.ofNat 6 e.1) = true → ∃ s' : State, exec (.moduleStateCommand .idleClocked) s = .next s' ∧
          (s'.part e.1).running = none ∧ ((s'.part e.1).ctx e.2).st = 1)) ∧
    exec .bypass s = .next (s.jtag .bypass 0) ∧
    (∃ (w : Word) (s0 : State), exec .samplePreload s = .next (s0.jtag .samplePreload w) ∧ { s0 with free := s.free } = s) ∧
    (∃ (w : Word) (s0 : State), exec .extest s = .next (s0.jtag .extest w) ∧ { s0 with free := s.free } = s) ∧
    ∃ w : Word, exec .idcode s = .next (s.jtag .idcode w) ∧
      w.extractLsb' 28 4 = s.stepping ∧ w.extractLsb' 12 16 = 0x0009 ∧ w.extractLsb' 1 11 = Config.manufacturer ∧ w.getLsbD 0 = true) ∧
  (∀ (s : State) (dt : Nat) (p : Nat) (rest : List Act), s.agenda = .advance dt :: rest →
    (s.frozen = true ∨ s.due = true → step s = .next { s with agenda := rest }) ∧
    (s.frozen = false → s.due = false → ∃ s' : State, step s = .next s' ∧ s'.time = s.time + BitVec.ofNat 64 (s.span dt) ∧
      SameMemory s s' ∧ s.span dt ≤ dt ∧ (∀ e ∈ s.parts, s.governs e.1 = true → s.span dt ≤ 4096 - s.time.toNat % 4096) ∧
      (s.mode = .active ∨ s.mode = .idleClocked →
        let n := s.coreCycles p (s.core p) (s.span dt)
        (s'.core p).cycles = (s.core p).cycles + BitVec.ofNat 64 n ∧
        (s'.core p).scycles = (s.core p).scycles + BitVec.ofNat 64 (n * scInc (s.die (dieOf p)).point)) ∧
      (s.mode = .clockStopped ∨ s.mode = .off → (s'.core p).cycles = (s.core p).cycles ∧
        ∀ i, i < 16 → lsState ((s.core p).laceSlot i).word ≠ 0 → NMap.find s.cores p ≠ none →
          s'.time - ((s'.core p).laceSlot i).since = s.time - ((s.core p).laceSlot i).since)))

/-! ### Traps, system calls and the system instructions (R347 to R385) -/

/-- R42, R137, R365, R366, R369: a trap stops both streams; where the slot runs a firing in user mode with local trap entry and frames
enabled it enters the handler with the frame written, and otherwise it suspends the slot and reports it. While the slot's other stream has
no boundary the trap waits among the late faults; once both have trapped, the one that stands behind in program order is reported. TRAP and
BRK trap with their codes. That a suspended slot remembers the state in which it was suspended is the model's reading (log 38). -/
def Obligations.TrapsEnterTheHandler : Prop :=
  ∀ (s : State) (t : StreamId) (cause0 : Byte) (addr0 : Word) (seq0 : BitVec 24), t.slot < 5 → s.Inv →
    let c := s.core t.core
    let sl := s.slot t
    let s' := s.trapEntry t cause0 addr0 seq0 none
    let sl' := s'.slot t
    let free : Prop := s.otherBusy t = false
    (¬free → s' = s.modStrm t fun st =>
      { st.stop with late := ⟨cause0, addr0, seq0, .parked, s.time, none⟩ :: st.late.filter fun l => l.kind != .parked }) ∧
    ((s.slot t).behind true = (!sl.resolved.isEmpty || decide (slotNo sl.a.pc < slotNo sl.x.pc)) ∧
      (s.slot t).behind false = (sl.resolved.isEmpty && decide (slotNo sl.x.pc < slotNo sl.a.pc))) ∧
    (∀ (acc : Bool) (cause : Byte) (addr : Word) (seq : BitVec 24),
      (acc = t.acc ∧ cause = cause0 ∧ addr = addr0 ∧ seq = seq0 ∧
        ((s.strm (otherStream t)).parkedTrap = none ∨ (s.slot t).behind t.acc = true)) ∨
      (∃ l, (s.strm (otherStream t)).parkedTrap = some l ∧ (s.slot t).behind t.acc = false ∧ acc = !t.acc ∧ cause = l.cause ∧
        addr = l.addr ∧ seq = l.seq) →
      let enters : Prop := (sl.strm acc).pl ≠ 1 ∧ sl.st = 1 ∧ c.trapVec.getLsbD 63 = true ∧ c.fen = true
      (free → sl'.trapCause = cause ∧ sl'.trapPc = (sl.strm acc).pc ∧ sl'.trapAddr = addr ∧ sl'.trapSeq = seq ∧ sl'.s = sl.s ∧
        sl'.v = sl.v ∧ sl'.q = sl.q) ∧
      (free → enters → sl'.st = 3 ∧ sl'.x.pc = c.trapVec.extractLsb' 0 56 ∧ sl'.a = sl'.x ∧ sl'.x.pl = 1 ∧ sl'.x.fmt = none ∧
        sl'.x.rep = none ∧ sl'.x.entering = true ∧ sl'.preds = [] ∧
        (c.frameOff t.slot + 0x2000 ≤ 2 ^ 20 →
          s'.localWord t.core (c.frameOff t.slot + 8 * 341) = cause.setWidth 64 ∧
          s'.localWord t.core (c.frameOff t.slot + 8 * 328) = sl.x.pc.setWidth 64 ∧
          s'.localWord t.core (c.frameOff t.slot + 8 * 334) = sl.a.pc.setWidth 64 ∧
          s'.localWord t.core (c.frameOff t.slot + 8 * 345) = sl.board ∧
          (∀ r : BitVec 6, s'.localWord t.core (c.frameOff t.slot + 8 * r.toNat) = sl.reg r) ∧
          ∀ a, a < localKey t.core (c.frameOff t.slot) ∨ localKey t.core (c.frameOff t.slot) + 0x2000 ≤ a → s'.mem.read a = s.mem.read a)) ∧
      (free → ¬enters → sl'.st = 2 ∧ sl'.susp = sl.st ∧ SameMemory s s' ∧ sl'.preds = sl.preds ∧ sl'.x.pc = sl.x.pc ∧ sl'.a.pc = sl.a.pc ∧
        ∃ r ∈ NMap.get [] s'.collectors (posY t.core), (r.words.getD 1 0).extractLsb' 60 4 = 0 ∧
          (r.words.getD 1 0).extractLsb' 0 8 = cause ∧ r.words.getD 2 0 = (sl.strm acc).pc.setWidth 64 ∧ r.words.getD 3 0 = addr ∧
          r.words.getD 4 0 = sl.firing)) ∧
    ∀ f : FmtB, s.IssuesB t → exec (.trap f) s = .next (s.trapEntry t 0x0E (f.off.setWidth 64) 0 none) ∧
      exec (.brk f) s = .next (s.trapEntry t 0x0F (f.off.setWidth 64) 0 none)

/-- R366, R367, R378: SYSC calls a valid supervisor handler of a core with frames; ERET reloads the slot from its frame, whose STATUS words
must hold PL 0 and which must read without error (R181), and is denied outside a handler; both wait while the access stream has no boundary
(R42); a resumed slot goes on and an abandoned one becomes free. That a resume restores the state in which the slot was suspended is the
model's reading (log 38), as is that an abandoned slot's own trackers complete at once (log 62). -/
def Obligations.CallsReturnAndSlotsResume : Prop :=
  ∀ (s : State) (t : StreamId) (f g : FmtA), t.slot < 5 →
    let c := s.core t.core
    let sl := s.slot t
    let e := c.handler (g.imm.toNat % 64)
    let w : Nat → Word := fun i => s.localWord t.core (c.frameOff t.slot + 8 * i)
    (s.IssuesA t { entSys 0xF3 noFields with str := some false } anyFields f g →
      ((s.strm t).pl = 1 → exec (.sysc f) s = .next (s.precise t 0x01 none)) ∧
      ((s.strm t).pl ≠ 1 → hVALID e.hw0 = false ∨ hSUP e.hw0 = false ∨ c.fen = false → exec (.sysc f) s = .next (s.precise t 0x0D none)) ∧
      ((s.strm t).pl ≠ 1 → hVALID e.hw0 = true → hSUP e.hw0 = true → c.fen = true → s.otherBusy t = true →
        exec (.sysc f) s = .next s) ∧
      ((s.strm t).pl ≠ 1 → hVALID e.hw0 = true → hSUP e.hw0 = true → c.fen = true → s.otherBusy t = false → ∃ s' : State,
        exec (.sysc f) s = .next s' ∧
        let sl' := s'.slot t
        sl'.st = 4 ∧ sl'.x.pc = hENTRY e.hw0 ∧ sl'.a = sl'.x ∧ sl'.x.pl = 1 ∧ sl'.trapCause = 0 ∧ sl'.trapPc = nextPc sl.x.pc ∧
        sl'.trapAddr = 0 ∧ sl'.s = sl.s ∧ sl'.v = sl.v ∧ sl'.q = sl.q ∧
        (s.Inv → c.frameOff t.slot + 0x2000 ≤ 2 ^ 20 →
          s'.localWord t.core (c.frameOff t.slot + 8 * 328) = (nextPc sl.x.pc).setWidth 64))) ∧
    (s.IssuesA t { entSys 0xF2 noFields with str := some false } anyFields f g →
      (sl.st ≠ 3 → sl.st ≠ 4 → exec (.eret f) s = .next (s.precise t 0x0D none)) ∧
      (∀ b, sl.st = 3 ∨ sl.st = 4 → s.badIn (localKey t.core (c.frameOff t.slot)) 0x2000 = some b →
        exec (.eret f) s = .next (s.precise t 0x11 (some (localAddr t.core (b - localKey t.core 0))))) ∧
      (s.badIn (localKey t.core (c.frameOff t.slot)) 0x2000 = none → sl.st = 3 ∨ sl.st = 4 → (w 329).extractLsb' 14 2 ≠ 0 ∨ (w 335).extractLsb' 14 2 ≠ 0 →
        exec (.eret f) s = .next (s.precise t 0x01 none)) ∧
      (s.badIn (localKey t.core (c.frameOff t.slot)) 0x2000 = none → sl.st = 3 ∨ sl.st = 4 → (w 329).extractLsb' 14 2 = 0 →
        (w 335).extractLsb' 14 2 = 0 → s.otherBusy t = true →
        exec (.eret f) s = .next s) ∧
      (s.badIn (localKey t.core (c.frameOff t.slot)) 0x2000 = none → sl.st = 3 ∨ sl.st = 4 → (w 329).extractLsb' 14 2 = 0 →
        (w 335).extractLsb' 14 2 = 0 → s.otherBusy t = false → ∃ s' : State,
        exec (.eret f) s = .next s' ∧ SameMemory s s' ∧
        let sl' := s'.slot t
        sl'.st = 1 ∧ sl'.x.pc = (w 328).extractLsb' 0 56 ∧ sl'.a.pc = (w 334).extractLsb' 0 56 ∧ sl'.x.pl = 0 ∧ sl'.a.pl = 0 ∧
        (∀ r : BitVec 6, sl'.reg r = if r = 0 then 0 else w r.toNat) ∧
        (∀ r : BitVec 5, sl'.vreg r = BitVec.ofNat 512 (((List.range 8).map fun j => (w (64 + 8 * r.toNat + j)).toNat * 2 ^ (64 * j)).sum)) ∧
        sl'.board = w 345 ∧ sl'.firing = w 340 &&& 0xFFFFFFFFFFFF0E3F ∧ sl'.preds.length = min 8 ((w 329).toNat / 2 ^ 10 % 16))) ∧
    (∀ x, c.command t.slot false = some x → sl.st = 2 → ∃ s' : State, exec (.slotCommandResume t.core t.slot) s = .next s' ∧ SameMemory s s' ∧
      s'.slot t = { sl with st := if sl.susp = 0 then 1 else sl.susp, susp := 0, view := [] }) ∧
    (∀ x, c.command t.slot true = some x → sl.st = 2 → (s.link c.tag.toNat).insts = [] → ∃ s' : State,
      exec (.slotCommandAbandon t.core t.slot) s = .next s' ∧ (s'.slot t).st = 0 ∧
      (s'.slot t).trackers = sl.trackers.filter fun x => x.fseq != sl.fseq) ∧
    (c.command t.slot false = none → exec (.slotCommandResume t.core t.slot) s = .next s)

/-- R96, R367, R365: a handler that changes nothing returns to the firing: what a trap entry wrote to the frame, the reload reads back, for
every scalar and vector register, the queues, both streams, the scoreboard, the pending late faults, the saved deadlines and the taken set;
FIRING's reserved bits read as zero (R4). That both streams' deadlines and every late fault are kept beside the frame, which has one word
for each, is the model's choice (logs 12 and 47). -/
def Obligations.HandlerReturnRestoresTheFiring : Prop :=
  ∀ (s : State) (t : StreamId) (cause : Byte) (addr : Word) (seq : BitVec 24), t.slot < 5 → s.Inv →
    let c := s.core t.core
    let sl := s.slot t
    c.frameOff t.slot + 0x2000 ≤ 2 ^ 20 → sl.x.pl ≠ 1 → sl.a.pl ≠ 1 → sl.st = 1 → c.trapVec.getLsbD 63 = true → c.fen = true →
    sl.preds.length ≤ 8 → (∀ k < 8, (sl.queue k).length ≤ 8) → s.otherBusy t = false →
    let sl' := (((s.trapEntry t cause addr seq none).reloadFrame t)).slot t
    let kept (ls : List Late) : List Late := (ls.filter fun l => l.kind != .parked).map fun l => { l with
      kind := if l.kind = .vector then .due else l.kind }
    sl'.st = 1 ∧ (∀ r : BitVec 6, sl'.reg r = sl.reg r) ∧ sl'.v = sl.v ∧ sl'.preds = sl.preds ∧ sl'.q = sl.q ∧
    sl'.board = sl.board ∧ sl'.firing = sl.firing &&& 0xFFFFFFFFFFFF0E3F ∧ sl'.path = sl.path ∧ sl'.child = sl.child ∧ sl'.item = sl.item ∧
    sl'.x.pc = sl.x.pc ∧ sl'.a.pc = sl.a.pc ∧ sl'.x.pl = sl.x.pl ∧ sl'.a.pl = sl.a.pl ∧ sl'.x.repcnt = sl.x.repcnt ∧
    sl'.a.repcnt = sl.a.repcnt ∧ sl'.x.fmt = sl.x.fmt ∧ sl'.a.fmt = sl.a.fmt ∧ sl'.x.rep = sl.x.rep ∧ sl'.a.rep = sl.a.rep ∧
    sl'.resolved = sl.resolved ∧ sl'.x.late = kept sl.x.late ∧ sl'.a.late = kept sl.a.late ∧ sl'.x.deadline = sl.x.waitDeadline ∧
    sl'.a.deadline = sl.a.waitDeadline ∧ ∀ x : Taken, x.input < 4 → (x ∈ sl'.taken ↔ x ∈ sl.taken)

/-- R377, R95, R4, R141, R349: CTLR reads the named register into s[D] (registers of the supervisor only at privilege 1); CTLW changes the
writable bits of the named register and nothing else that CTLR reads; a read-only register denies it; CHANCFG is checked as CHCFG
checks it, and LCTBASE is the writing core's alone. A PRIV whose frame area would pass local memory is not taken (log 20, the model's
choice), so that form is a premise; ENERGY is read with a free addend (log 7). -/
def Obligations.ControlRegistersReadAndWrite : Prop :=
  ∀ (s : State) (t : StreamId) (f g : FmtA), t.slot < 5 →
    let c := s.core t.core
    let sl := s.slot t
    let x := s.ctx c.tag.toNat c.ctx.toNat
    let n := g.imm.toNat % 4096
    let v := s.reg t g.a
    let guarded : Prop := (2 ≤ n ∧ n ≤ 7) ∨ (0x20 ≤ n ∧ n ≤ 0x23)
    (s.IssuesA t (entSys 0xF0 usedD) anyFields f g →
      (guarded → (s.strm t).pl = 0 → exec (.ctlr f) s = .next (s.precise t 0x0D none)) ∧
      ((s.strm t).pl ≠ 0 ∨ ¬guarded → ∃ (s0 : State) (w : Word), exec (.ctlr f) s = .next ((s0.setReg t g.d w).retire t) ∧
        SameMemory s s0 ∧ s0.cores = s.cores ∧ (n ≠ 0x13 → s0 = s) ∧ (n = 0 → w = sl.status t.slot t.acc) ∧ (n = 1 → w = sl.firing) ∧
        (n = 2 → w = sl.trapCause.setWidth 64) ∧ (n = 3 → w = sl.trapPc.setWidth 64) ∧ (n = 4 → w = sl.trapAddr) ∧
        (n = 5 → w = sl.trapSeq.setWidth 64) ∧ (n = 6 → w = c.trapVec) ∧ (n = 7 → w = c.priv) ∧ (n = 0x10 → w = s.time) ∧
        (n = 0x11 → w = c.cycles) ∧ (n = 0x12 → w = c.scycles) ∧ (n = 0x13 → w = (s0.ctx c.tag.toNat c.ctx.toNat).energy) ∧
        (n = 0x18 → w = x.bbcBase) ∧ (n = 0x20 → w = c.partTag) ∧ (n = 0x21 → w = c.lctBase) ∧
        (n = 0x22 → w = BitVec.ofNat 64 (8 * c.tag.toNat + c.ctx.toNat)) ∧ (n = 0x23 → w = x.dlog) ∧
        (0x100 ≤ n → n < 0x110 → w = s.laceWord t.core (n - 0x100)) ∧
        (0x110 ≤ n → n < 0x120 → w = cbWord (c.buffer (n - 0x110))) ∧ (0x140 ≤ n → n < 0x180 → w = c.chanCfg (n - 0x140)))) ∧
    (s.IssuesA t (entSys 0xF1 usedA) anyFields f g →
      ((s.strm t).pl = 0 → exec (.ctlw f) s = .next (s.precise t 0x0D none) ∧ exec (.ctlwChancfg f) s = .next (s.precise t 0x0D none) ∧
        exec (.ctlwLctbase f) s = .next (s.precise t 0x0D none)) ∧
      ((s.strm t).pl ≠ 0 →
        (n < 2 ∨ (0x10 ≤ n ∧ n ≤ 0x14) ∨ n = 0x20 ∨ n = 0x22 ∨ (0x100 ≤ n ∧ n < 0x120) →
          exec (.ctlw f) s = .next (s.precise t 0x0D none)) ∧
        ((2 ≤ n ∧ n ≤ 7) ∨ n = 0x18 ∨ n = 0x23 → (n = 7 → (v.toNat % 2 ^ 14) * 64 + 5 * 0x2000 ≤ localSize) → ∃ s0 : State,
          exec (.ctlw f) s = .next (s0.retire t) ∧ SameMemory s s0 ∧ (∀ p, p ≠ t.core → s0.core p = s.core p) ∧
          ∀ m, (s0.readCtl t m).1 = if m = n then ctlMix n (s.readCtl t n).1 v else (s.readCtl t m).1) ∧
        (0x140 ≤ n → n < 0x180 →
          (c.chcfgStatus (n - 0x140) v ≠ 0 →
            exec (.ctlwChancfg f) s = .next (s.precise t 0x04 (some ((c.chcfgStatus (n - 0x140) v).setWidth 64)))) ∧
          (c.chcfgStatus (n - 0x140) v = 0 → ∃ s0 : State, exec (.ctlwChancfg f) s = .next (s0.retire t) ∧ SameMemory s s0 ∧
            (s0.core t.core).cfg (n - 0x140) = v &&& 0x8FFF3FFF ∧ (∀ k, k ≠ n - 0x140 → (s0.core t.core).cfg k = c.cfg k) ∧
            (cfgEn v = false → cfgEn (c.cfg (n - 0x140)) = true → (s0.core t.core).chRing (n - 0x140) = ⟨0, []⟩))) ∧
        ∃ s0 : State, exec (.ctlwLctbase f) s = .next (s0.retire t) ∧ SameMemory s s0 ∧ (∀ p, p ≠ t.core → s0.core p = s.core p) ∧
          (s0.core t.core).nCores = (v.extractLsb' 52 12).toNat ∧
          (s0.core t.core).lctBase.extractLsb' 12 28 = v.extractLsb' 12 28 ∧ { s0.core t.core with lctBase := c.lctBase } = c))

/-- R381, R383, R282: LCTW writes a table entry that names a core of the partition; MHALF maps a free half of the pool, cleared but for
its ramp, and MHALF.rel removes one without work; the management complex grants halves and takes back those that no logical half maps
to. -/
def Obligations.TablesAndHalvesAreSet : Prop :=
  ∀ (s : State) (t : StreamId) (f g : FmtA), s.Inv →
    let c := s.core t.core
    let tag := c.tag.toNat
    let p := s.part tag
    let a := (s.reg t g.a).toNat
    let b := (s.reg t g.b).toNat
    let answer (i : Instr) (s0 : State) (w : Word) : Prop := exec i s = .next ((s0.setReg t g.d w).retire t)
    (s.IssuesA t (entSys 0xF7 usedDab) anyFields f g →
      ((s.strm t).pl = 0 → exec (.lctw f) s = .next (s.precise t 0x0D none)) ∧
      ((s.strm t).pl ≠ 0 → (c.nCores ≤ a → answer (.lctw f) s 0x07) ∧
        (a < c.nCores → s.corePlace (s.reg t g.b) = none → answer (.lctw f) s 0x04) ∧
        ∀ q, a < c.nCores → s.corePlace (s.reg t g.b) = some q →
          (¬((s.core q).valid = true ∧ (s.core q).tag = c.tag) → answer (.lctw f) s 0x04) ∧
          ((s.core q).valid = true → (s.core q).tag = c.tag → ∃ s0 : State, answer (.lctw f) s0 0 ∧
            s0.lct t.core a = some q ∧ (∀ n, n ≠ a → s0.lct t.core n = s.lct t.core n) ∧ s0.cores = s.cores))) ∧
    (s.IssuesA t (entSys 0xFA usedDab) anyFields f g →
      ((s.strm t).pl = 0 → exec (.mhalf f) s = .next (s.precise t 0x0D none)) ∧
      ((s.strm t).pl ≠ 0 → (576 ≤ a ∨ 576 ≤ b → answer (.mhalf f) s 0x07) ∧
        (a < 576 → b < 576 → b ∉ p.pool ∨ (s.half b).owner ≠ none ∨ NMap.find p.halves a ≠ none → answer (.mhalf f) s 0x04) ∧
        (a < 576 → b < 576 → b ∈ p.pool → (s.half b).owner = none → NMap.find p.halves a = none → ∃ s0 : State, answer (.mhalf f) s0 0 ∧
          SameMemory s s0 ∧ NMap.find (s0.part tag).halves a = some b ∧ (s0.half b).owner = some c.tag ∧ (s0.half b).queue = [] ∧
          (s0.half b).image = none ∧ (s0.half b).ramp = (s.half b).ramp ∧ ∀ k, k ≠ b → s0.half k = s.half k))) ∧
    (s.IssuesA t (entSys 0xFA usedDa) anyFields f g →
      ((s.strm t).pl = 0 → exec (.mhalfRel f) s = .next (s.precise t 0x0D none)) ∧
      ((s.strm t).pl ≠ 0 → (576 ≤ a → answer (.mhalfRel f) s 0x07) ∧
        (a < 576 → NMap.find p.halves a = none → answer (.mhalfRel f) s 0x04) ∧
        ∀ h, a < 576 → NMap.find p.halves a = some h →
          ((s.half h).run ≠ none ∨ (s.half h).queue ≠ [] → answer (.mhalfRel f) s 0x04) ∧
          ((s.half h).run = none → (s.half h).queue = [] → ∃ s0 : State, answer (.mhalfRel f) s0 0 ∧ SameMemory s s0 ∧
            NMap.find (s0.part tag).halves a = none ∧ (s0.half h).owner = none ∧ (s0.half h).ramp = (s.half h).ramp ∧
            (s0.part tag).pool = p.pool))) ∧
    ∀ (q h : Nat) (grant : Bool), ∃ s' : State, exec (.halfPoolGrant q h grant) s = .next s' ∧ s'.halves = s.halves ∧
      (grant = true → h < 576 → h ∈ (s'.part q).pool) ∧
      (grant = false → (∀ e ∈ (s.part q).halves, e.2 ≠ h) → h ∉ (s'.part q).pool) ∧
      (grant = false → (∃ e ∈ (s.part q).halves, e.2 = h) → s'.part q = s.part q) ∧
      ∀ k, k ≠ h → (k ∈ (s'.part q).pool ↔ k ∈ (s.part q).pool)

/-- R352, R382: GANG and GANG.next request a switch at T unless one is pending, T is too near or no context can be chosen; the result word
holds the status and the context; PASS of the chosen context advances by its stride and no other PASS changes; NEXT() takes the least
PASS, ties to the lower index. From a command area the same request is answered to the management complex (log 27, DEDUCED). -/
def Obligations.GangSwitchesAreRequested : Prop :=
  ∀ (s : State) (t : StreamId) (f g : FmtA),
    let tag := (s.core t.core).tag.toNat
    let p := s.part tag
    let a := s.reg t g.a
    let T := s.reg t g.b
    let pending (q : Part) : Prop := ∃ c at_, q.gang = some (c, at_) ∧ (s.time.toNat < at_.toNat ∨ q.running ≠ some c)
    let near (at_ : Word) : Prop := at_.toNat < s.time.toNat + 20000
    let cand (q : Part) (k : Nat) : Prop := k < 8 ∧ ((q.ctx k).st = 1 ∨ (q.ctx k).st = 2) ∧ (q.ctx k).tickets ≠ 0
    let least (q : Part) (c : Nat) : Prop := cand q c ∧ ∀ k, cand q k → (q.ctx c).pass.toNat < (q.ctx k).pass.toNat ∨
      ((q.ctx c).pass = (q.ctx k).pass ∧ c ≤ k)
    let taken (q q' : Part) (c : Nat) (at_ : Word) : Prop := q'.gang = some (c, at_) ∧ { q' with gang := q.gang, ctxs := q.ctxs } = q ∧
      (∀ k, k ≠ c → q'.ctx k = q.ctx k) ∧
      q'.ctx c = { q.ctx c with pass := (q.ctx c).pass +
        if (q.ctx c).tickets = 0 then 0 else BitVec.ofNat 64 (2 ^ 20 / (q.ctx c).tickets.toNat) }
    let answer (i : Instr) (s0 : State) (w : Word) : Prop := exec i s = .next ((s0.setReg t g.d w).retire t)
    let c := a.toNat % 8
    (s.IssuesA t (entSys 0xF8 usedDab) anyFields f g →
      (8 ≤ a.toNat → exec (.gang f) s = .next (s.precise t 0x01 none)) ∧
      (a.toNat < 8 → (s.strm t).pl = 0 → exec (.gang f) s = .next (s.precise t 0x0D none)) ∧
      (a.toNat < 8 → (s.strm t).pl ≠ 0 → (pending p → answer (.gang f) s 0x04) ∧ (¬pending p → near T → answer (.gang f) s 0x07) ∧
        (¬pending p → ¬near T → (p.ctx c).st ≠ 1 → (p.ctx c).st ≠ 2 → answer (.gang f) s 0x04) ∧
        (¬pending p → ¬near T → (p.ctx c).st = 1 ∨ (p.ctx c).st = 2 → ∃ q : Part, taken p q c T ∧
          answer (.gang f) (s.setPart tag q) (BitVec.ofNat 64 (256 * c))))) ∧
    (s.IssuesA t (entSys 0xF8 usedDb) anyFields f g →
      ((s.strm t).pl = 0 → exec (.gangNext f) s = .next (s.precise t 0x0D none)) ∧
      ((s.strm t).pl ≠ 0 → (pending p → answer (.gangNext f) s 0x04) ∧ (¬pending p → near T → answer (.gangNext f) s 0x07) ∧
        (¬pending p → ¬near T → (∀ k, ¬cand p k) → answer (.gangNext f) s 0x04) ∧
        ∀ k, ¬pending p → ¬near T → least p k → ∃ q : Part, taken p q k T ∧
          answer (.gangNext f) (s.setPart tag q) (BitVec.ofNat 64 (256 * k)))) ∧
    ∀ (core : Nat) (x y : Word) (k : Nat), s.cur = .command core x y →
      let tg := (s.core core).tag.toNat
      ¬pending (s.part tg) → ¬near y → least (s.part tg) k → ∃ q : Part, taken (s.part tg) q k y ∧
        exec (.gangNext f) s = .next { s.setPart tg q with notices := s.notices ++ [BitVec.ofNat 64 (256 * k)] }

/-- R379, R380, R384, R218: CTXS and CTXL copy the save area of a stopped context out and in; a new DLOG round clears the context's marks
and OVF and nothing else of it; PTAG and KEYI are denied to every stream and, from a command area, write the tag of an idle core and
load a key. A dirty log that is enabled is written besides, so the bytes of CTXS are stated with it disabled; a save area that is not
mapped has status 0x03 (log 24, the model's choice), CTXL leaves an image of the context to be loaded (log 25, the model's choice), and PTAG
ends a core's lost state (log 31, the model's reading). -/
def Obligations.AreasLogsTagsAndKeys : Prop :=
  ∀ (s : State) (t : StreamId) (f g : FmtA), s.Inv →
    let c := s.core t.core
    let tag := c.tag.toNat
    let p := s.part tag
    let b := s.reg t g.b
    let k := b.toNat % 8
    let stopped : Prop := (p.ctx k).st ≠ 0 ∧ (p.ctx k).st ≠ 4 ∧ p.running ≠ some k
    let answer (i : Instr) (s0 : State) (w : Word) : Prop := exec i s = .next ((s0.setReg t g.d w).retire t)
    let apart (x y : Option Nat) : Prop := ∀ i j, x = some i → y = some j → i + 0x10000 ≤ j ∨ j + 0x10000 ≤ i
    let copied (s0 : State) (dst src : List (Option Nat)) : Prop :=
      (∀ i < 16, ∀ j < 16, apart (dst.getD i none) (src.getD j none) ∧ (i ≠ j → apart (dst.getD i none) (dst.getD j none))) →
        ∀ i < 16, ∀ d k, dst.getD i none = some d → src.getD i none = some k → ∀ o < 0x10000, s0.mem.read (d + o) = s.mem.read (k + o)
    (s.IssuesA t (entSys 0xF4 usedDab) anyFields f g →
      (8 ≤ b.toNat → exec (.ctxs f) s = .next (s.precise t 0x01 none)) ∧
      (b.toNat < 8 → (s.strm t).pl = 0 → exec (.ctxs f) s = .next (s.precise t 0x0D none)) ∧
      (b.toNat < 8 → (s.strm t).pl ≠ 0 → (¬stopped → answer (.ctxs f) s 0x04) ∧
        (stopped → s.ownArea t.core (s.reg t g.a) = none → answer (.ctxs f) s 0x04) ∧
        ∀ mine area, stopped → s.ownArea t.core (s.reg t g.a) = some mine →
          s.areaKeys c.tag (BitVec.ofNat 3 k) ((p.ctx k).area c.lcore.toNat) = some area →
          ∃ s0 : State, answer (.ctxs f) s0 0 ∧ s0.cores = s.cores ∧
            ((s.ctx tag c.ctx.toNat).dlog.getLsbD 63 = false → copied s0 (mine.map fun e => some e.1) area))) ∧
    (s.IssuesA t (entSys 0xF5 usedDab) anyFields f g →
      (8 ≤ b.toNat → exec (.ctxl f) s = .next (s.precise t 0x01 none)) ∧
      (b.toNat < 8 → (s.strm t).pl = 0 → exec (.ctxl f) s = .next (s.precise t 0x0D none)) ∧
      (b.toNat < 8 → (s.strm t).pl ≠ 0 → (¬stopped → answer (.ctxl f) s 0x04) ∧
        (stopped → s.ownArea t.core (s.reg t g.a) = none → answer (.ctxl f) s 0x04) ∧
        ∀ mine area, stopped → s.ownArea t.core (s.reg t g.a) = some mine →
          s.areaKeys c.tag (BitVec.ofNat 3 k) ((p.ctx k).area c.lcore.toNat) = some area →
          ∃ s0 : State, answer (.ctxl f) s0 0 ∧ s0.cores = s.cores ∧ NMap.find s0.saved (8 * tag + k) ≠ none ∧
            copied s0 area (mine.map fun e => some e.1))) ∧
    (s.IssuesA t (entSys 0xFB usedDa) anyFields f g → let d := (s.reg t g.a).toNat % 8
      ((s.strm t).pl = 0 → exec (.dlog f) s = .next (s.precise t 0x0D none) ∧ exec (.dlogRd f) s = .next (s.precise t 0x0D none)) ∧
      ((s.strm t).pl ≠ 0 → answer (.dlogRd f) s (p.ctx d).dlog ∧ ((p.ctx d).dlog.getLsbD 63 = false → answer (.dlog f) s 0x04) ∧
        ((p.ctx d).dlog.getLsbD 63 = true → ∃ s0 : State, answer (.dlog f) s0 0 ∧ SameMemory s s0 ∧ s0.cores = s.cores ∧
          (s0.ctx tag d).dlog.getLsbD 62 = false ∧ { s0.ctx tag d with dlog := (p.ctx d).dlog } = p.ctx d ∧
          (∀ q r, (q, r) ∈ s0.regions → r.tag = c.tag → r.ctx.toNat = d → r.dirty = false) ∧
          ∀ q, { s0.region q with dirty := (s.region q).dirty } = s.region q))) ∧
    (s.IssuesA t (entSys 0xF6 usedDab) anyFields f g → exec (.ptag f) s = .next (s.precise t 0x0D none)) ∧
    (s.IssuesA t (entSys 0xF9 usedDa) anyFields f g → exec (.keyi f) s = .next (s.precise t 0x0D none)) ∧
    ∀ (core : Nat) (x y : Word), s.cur = .command core x y →
      (∀ q, s.corePlace x = some q →
        ((s.core q).occupied = true ∨ (s.core q).anyEnabled = true → exec (.ptag f) s = .next { s with notices := s.notices ++ [0x04] }) ∧
        ((s.core q).occupied = false → (s.core q).anyEnabled = false → ∃ s0 : State, exec (.ptag f) s = .next s0 ∧
          s0.notices = s.notices ++ [0] ∧ (s0.core q).partTag = y &&& 0xFFFF0FFF000007FF ∧ (s0.core q).lost = false ∧
          (∀ r, r ≠ q → s0.core r = s.core r) ∧ SameMemory s s0)) ∧
      (512 ≤ x.toNat → exec (.keyi f) s = .next { s with notices := s.notices ++ [0x07] }) ∧
      (x.toNat < 512 → ∃ s0 : State, exec (.keyi f) s = .next s0 ∧ s0.notices = s.notices ++ [0] ∧ s0.cores = s.cores ∧
        (∃ n, NMap.find s0.keys x.toNat = some n ∧ s.free ≤ n) ∧ ∀ j, j ≠ x.toNat → NMap.find s0.keys j = NMap.find s.keys j)

/-- R353, R354, R386: at T, once what must finish has finished, the outgoing context is captured and its STATE is 1, the named context is
loaded, its STATE is 2, and it waits for the resume broadcast (a partition runs one of its eight contexts, as a premise); a context that has
never run starts with free slots, disabled channels and local memory zero; a switch to the running context only ends; the broadcast comes
when no die of the partition relocks. -/
def Obligations.ContextsSwitchTogether : Prop :=
  ∀ (s : State) (tag c : Nat) (at_ : Word), tag < 64 → c < 8 →
    let p := s.part tag
    let tg : BitVec 6 := BitVec.ofNat 6 tag
    let cores := s.coresOf tg
    (p.gang = none → exec (.gangSwitch tag) s = .next s) ∧
    (p.gang = some (c, at_) →
      (s.time.toNat < at_.toNat ∨ p.starting = true → exec (.gangSwitch tag) s = .next s) ∧
      (at_.toNat ≤ s.time.toNat → p.starting = false →
        (p.running = some c → exec (.gangSwitch tag) s = .next (s.setPart tag { p with gang := none })) ∧
        (p.running ≠ some c → s.settled tg = false → exec (.gangSwitch tag) s = .next s) ∧
        (p.running ≠ some c → s.settled tg = true → (∀ d, p.running = some d → d < 8) → ∃ s' : State,
          exec (.gangSwitch tag) s = .next s' ∧
          (s'.part tag).gang = none ∧ (s'.part tag).running = some c ∧ (s'.part tag).starting = true ∧ (s'.ctx tag c).st = 2 ∧
          (∀ d < 8, p.running = some d → (s'.ctx tag d).st = 1 ∧ NMap.find s'.saved (8 * tag + d) ≠ none) ∧
          (∀ d < 8, d ≠ c → p.running ≠ some d → (s'.ctx tag d).st = (s.ctx tag d).st) ∧
          (∀ d < 8, (s'.ctx tag d).pass = (s.ctx tag d).pass) ∧
          (∀ q ∈ cores, (s'.core q).ctx = BitVec.ofNat 3 c ∧ (s'.core q).tag = (s.core q).tag) ∧
          (NMap.find s.saved (8 * tag + c) = none → ∀ q ∈ cores, (∀ k < 5, ((s'.core q).slot k).st = 0) ∧
            (∀ ch, cfgEn ((s'.core q).cfg ch) = false) ∧ ∀ off < 2 ^ 20, s'.mem.read (localKey q off) = 0)))) ∧
    (p.starting = true → (∀ q ∈ cores, (s.die (dieOf q)).relock = none) →
      exec (.resumeBroadcast tag) s = .next (s.setPart tag { p with starting := false })) ∧
    (p.starting = false ∨ (∃ q ∈ cores, (s.die (dieOf q)).relock ≠ none) → exec (.resumeBroadcast tag) s = .next s)

/-- R265, R351, R352, R4, R200, R219, R363: a lace slot's word is written while the slot is Empty; a descriptor's TICKETS may change and
its STATE moves between 1 and 3 with the PASS of NEXT()'s least candidate at the least; creation fills a free descriptor in STATE 1 with a
fresh key, its Unclaimed frames read as zeros (R220), and the pages of its save areas, which were Unclaimed, are Private to it; host
registers take their fields, a module identifier only below 6,144 and a route only to a port while no context runs (R417; log 89,
DEDUCED), a handler entry only as a whole and well formed (log 72, the model's choice); and the mapping service acts where it changes no
page of a context that is not stopped but an Unclaimed one (log 88, the model's choice): it writes table entries, drops the translations
of the context that it names and of every other whose pages change, and a frame that a context had not before reads as zeros. That TICKETS
are taken where the move of STATE is not allowed is the model's reading (log 45); that creation begins at PASS 0 and raises it is the
model's choice (log 71). -/
def Obligations.DescriptorsAndRegistersAreWritten : Prop :=
  ∀ (s : State) (core slot tag ctx word : Nat) (v : Word), s.Inv →
    let c := s.core core
    let cand (q : Part) (k : Nat) : Prop := k < 8 ∧ ((q.ctx k).st = 1 ∨ (q.ctx k).st = 2) ∧ (q.ctx k).tickets ≠ 0
    let least (q : Part) (x : Nat) : Prop := cand q x ∧ ∀ k, cand q k → (q.ctx x).pass.toNat ≤ (q.ctx k).pass.toNat
    let entered (q : Part) (own new : Word) : Prop :=
      ((∀ k, ¬cand q k) → new = own) ∧ ∀ k, least q k → new.toNat = max own.toNat (q.ctx k).pass.toNat
    (slot < 16 →
      (lsState (c.laceSlot slot).word = 0 → lsSize v ≤ 1024 → lsBase v + lsSize v ≤ 12288 → ∃ s' : State,
        exec (.laceslotWrite core slot v) s = .next s' ∧ ((s'.core core).laceSlot slot).word = v &&& 0x1FFFFFF ∧
        { s'.core core with lace := c.lace } = c ∧ (∀ j, j ≠ slot → (s'.core core).laceSlot j = c.laceSlot j) ∧
        (∀ q, q ≠ core → s'.core q = s.core q) ∧ SameMemory s s') ∧
      (lsState (c.laceSlot slot).word ≠ 0 ∨ 1024 < lsSize v ∨ 12288 < lsBase v + lsSize v →
        exec (.laceslotWrite core slot v) s = .next s)) ∧
    (let p := s.part c.tag.toNat
     let x := p.ctx ctx
     let moves : Prop := ((x.st = 1 ∧ v.toNat % 8 = 3) ∨ (x.st = 3 ∧ v.toNat % 8 = 1)) ∧ p.running ≠ some ctx ∧ ∀ a, p.gang ≠ some (ctx, a)
     (c.valid = false ∨ c.isSup = false ∨ 8 ≤ ctx ∨ word ≠ 0 ∨ x.st = 0 → exec (.contextDescriptorWrite core ctx word v) s = .next s) ∧
     (c.valid = true → c.isSup = true → ctx < 8 → x.st ≠ 0 → ∃ s' : State, exec (.contextDescriptorWrite core ctx 0 v) s = .next s' ∧
       let y := s'.ctx c.tag.toNat ctx
       y.tickets = v.extractLsb' 48 16 ∧ (moves → y.st = v.extractLsb' 0 3) ∧ (¬moves → y.st = x.st ∧ y.pass = x.pass) ∧
       (moves → x.st = 3 → entered p x.pass y.pass) ∧ (moves → x.st = 1 → y.pass = x.pass) ∧
       { y with tickets := x.tickets, st := x.st, pass := x.pass } = x ∧
       (∀ k, k ≠ ctx → s'.ctx c.tag.toNat k = p.ctx k) ∧ s'.cores = s.cores)) ∧
    (∀ d : NewContext, let p := s.part tag
      (s.io.boot.phase ≠ 5 ∨ 8 ≤ ctx ∨ ((p.ctx ctx).st ≠ 0 ∧ (p.ctx ctx).st ≠ 4) → exec (.contextCreation tag ctx d) s = .next s) ∧
      (s.io.boot.phase = 5 → ctx < 8 → (p.ctx ctx).st = 0 ∨ (p.ctx ctx).st = 4 → ∃ s' : State,
        exec (.contextCreation tag ctx d) s = .next s' ∧ (s'.ctx tag ctx).st = 1 ∧ (s'.ctx tag ctx).tickets = d.tickets ∧
        (s'.ctx tag ctx).saveBase = d.saveBase ∧ (s'.ctx tag ctx).psave = d.psave ∧ entered p 0 (s'.ctx tag ctx).pass ∧
        NMap.find s'.keys (8 * tag + ctx) = some s.free ∧ s.free < s'.free ∧ NMap.find s'.saved (8 * tag + ctx) = none ∧
        (tag < 64 → ∀ l ∈ (s.setPart tag (p.setCtx ctx (s'.ctx tag ctx))).pagesOf (tagOf tag) (BitVec.ofNat 3 ctx),
          s.isOwn l.module = true → (s.region l.key).st = .unclaimed → ∀ o < pageLen l.size, s'.mem.read (l.key + o) = 0) ∧
        (tag < 64 → ∀ sup, s.supOf (tagOf tag) = some sup → ∀ n < (s.core sup).nCores, ∀ i < 16, ∀ l,
          s'.walk (tagOf tag) (BitVec.ofNat 3 ctx) ((s'.ctx tag ctx).area n + BitVec.ofNat 64 (0x10000 * i)) false = some l →
          s.isOwn l.module = true → (s.region l.key).st = .unclaimed →
          let r := s'.region l.key
          r.st = .priv ∧ r.tag = tagOf tag ∧ r.ctx = BitVec.ofNat 3 ctx) ∧
        ∀ k, k ≠ ctx → s'.ctx tag k = p.ctx k)) ∧
    (exec (.registerWrite .rampTime v) s = .next { s with rampTime := v.extractLsb' 0 16 } ∧
      exec (.registerWrite .tripThreshold v) s = .next { s with trip := v } ∧
      exec (.registerWrite .accessLimit v) s = .next { s with limit := v } ∧
      (v.toNat < 6144 → exec (.registerWrite .moduleId v) s = .next { s with module := v.extractLsb' 0 13 }) ∧
      (6144 ≤ v.toNat → exec (.registerWrite .moduleId v) s = .next s)) ∧
    (∀ m : Nat, let idle : Prop := ∀ e ∈ s.parts, e.2.running = none
      (idle → v.toNat < 18 → ∃ s' : State, exec (.registerWrite (.route m) v) s = .next s' ∧ NMap.find s'.io.routes m = some v.toNat ∧
        ∀ k, k ≠ m → NMap.find s'.io.routes k = NMap.find s.io.routes k) ∧
      (¬idle ∨ 18 ≤ v.toNat → exec (.registerWrite (.route m) v) s = .next s)) ∧
    (∀ (i : BitVec 6) (hw1 hw2 : Word),
      (handlerOk v hw1 hw2 = false → exec (.registerWrite (.handler core i hw1 hw2) v) s = .next s) ∧
      (handlerOk v hw1 hw2 = true → ∃ s' : State, exec (.registerWrite (.handler core i hw1 hw2) v) s = .next s' ∧
        (s'.core core).handler i.toNat = ⟨v, hw1, hw2, 0⟩ ∧ SameMemory s s' ∧
        (∀ j, j ≠ i.toNat → (s'.core core).handler j = c.handler j) ∧ ∀ q, q ≠ core → s'.core q = s.core q)) ∧
    ∀ (va : Word) (a : Nat) (pre : List (Nat × Word)),
      let s1 := (pre ++ [(a, v)]).foldl (fun s e => s.store (lpddrKey e.1) 8 e.2.toNat) s
      let pages (x : State) (q k : Nat) : List Leaf := x.pagesOf (tagOf q) (BitVec.ofNat 3 k)
      let moved (q k : Nat) (l : Leaf) : Prop := (l ∈ pages s q k ∧ l ∉ pages s1 q k) ∨ (l ∈ pages s1 q k ∧ l ∉ pages s q k)
      let open_ (l : Leaf) : Prop := (s.region l.key).st = .unclaimed
      let acts : Prop := ∀ q, ∀ k < 8, (s.ctx q k).st ≠ 0 → (s.ctx q k).st ≠ 3 → (s.ctx q k).st ≠ 4 → ∀ l, moved q k l →
        s.isOwn l.module = true → open_ l
      let anew (l : Leaf) : Prop := ∃ q, ∃ k < 8, (s.ctx q k).st ≠ 0 ∧ l ∈ pages s1 q k ∧ (∀ o ∈ pages s q k, o.key ≠ l.key) ∧
        s.isOwn l.module = true ∧ open_ l
      let dropped (s' : State) (q k : Nat) : Prop :=
        ∀ n, ∀ e ∈ (s'.station n).cache, ¬(e.tag = tagOf q ∧ e.ctx = BitVec.ofNat 3 k)
      (¬acts → exec (.mappingService tag ctx va (pre ++ [(a, v)])) s = .next s) ∧
      (acts → ∃ s' : State, exec (.mappingService tag ctx va (pre ++ [(a, v)])) s = .next s' ∧ s'.cores = s.cores ∧
        s1.mem.readNat (lpddrKey a) 8 = v.toNat ∧
        (∀ l, anew l → ∀ o < pageLen l.size, s'.mem.read (l.key + o) = 0) ∧
        (∀ x, (∀ l, anew l → x < l.key ∨ l.key + pageLen l.size ≤ x) → s'.mem.read x = s1.mem.read x) ∧
        dropped s' tag ctx ∧ ∀ q, ∀ k < 8, (s.ctx q k).st ≠ 0 → (∃ l, moved q k l) → dropped s' q k)

/-- R220, R373, R385, R386, R372: a kill by a supervisor's HALT (source 0) or by the management complex (source 1) leaves STATE 4 with its
report, no key, region, launch or pending switch of the context, its frames zero and the partition running another context or none;
HALT of an absent context is refused; the issuer of a HALT of its own context goes with it. A core that is lost keeps no firing and is
reported (its code is DEDUCED, log 31). R375, R385: HALT.q resets the launch work of a context and nothing else of it: its launches
leave the queue and the live list, their firings stop, their handler entries are zero, and its STATE stays; an issuer that belongs to
one of them stops with it (DEDUCED, log 31). -/
def Obligations.KillsAndHalts : Prop :=
  (∀ (s : State) (t : StreamId) (f g : FmtA),
    let gone (tag c : Nat) (cause source : Byte) (s' : State) : Prop :=
      let p := s.part tag
      let p' := s'.part tag
      let mine (r : Region) : Prop := r.st ≠ .unclaimed ∧ r.tag = BitVec.ofNat 6 tag ∧ r.ctx = BitVec.ofNat 3 c
      (p'.ctx c).st = 4 ∧ (p'.ctx c).kill.getD 0 0 = s.time.extractLsb' 0 32 ++ 0#16 ++ source ++ cause ∧
      NMap.find s'.keys (8 * tag + c) = none ∧ (∀ e ∈ s'.regions, ¬mine e.2) ∧
      (∀ e ∈ s.regions, mine e.2 → ∀ o < pageLen e.2.size, e.1 + o < 2 ^ 49 → s'.mem.read (e.1 + o) = 0) ∧
      (∀ l ∈ p'.live, l.launch.ctx.toNat ≠ c) ∧ (∀ l ∈ p'.queue, l.ctx.toNat ≠ c) ∧ (∀ d a, p'.gang = some (d, a) → d ≠ c) ∧
      p'.running ≠ some c ∧ (p.running ≠ some c → p'.running = p.running)
    let tag := (s.core t.core).tag.toNat
    let c := (s.reg t g.a).toNat % 8
    let st := ((s.part tag).ctx c).st
    (s.IssuesA t (entSys 0xFC usedDab) anyFields f g →
      ((s.strm t).pl = 0 → exec (.halt f) s = .next (s.precise t 0x0D none)) ∧
      ((s.strm t).pl ≠ 0 → st = 0 ∨ st = 4 → exec (.halt f) s = .next ((s.setReg t g.d 0x04).retire t)) ∧
      ((s.strm t).pl ≠ 0 → st ≠ 0 → st ≠ 4 → ∃ s' : State, gone tag c ((s.reg t g.b).extractLsb' 0 8) 0 s' ∧
        ((s.part tag).running = some c → exec (.halt f) s = .next s') ∧
        ((s.part tag).running ≠ some c → exec (.halt f) s = .next ((s'.setReg t g.d 0).retire t)))) ∧
    (∀ (q k : Nat) (cause : Byte) (host : Bool), q < 64 →
      (8 ≤ k ∨ ((s.part q).ctx k).st = 0 ∨ ((s.part q).ctx k).st = 4 → exec (.contextKill q k cause host) s = .next s) ∧
      (k < 8 → ((s.part q).ctx k).st ≠ 0 → ((s.part q).ctx k).st ≠ 4 → ∃ s' : State,
        exec (.contextKill q k cause host) s = .next s' ∧ gone q k cause 1 s')) ∧
    ∀ p : Nat, ((s.core p).lost = true ∨ (s.core p).valid = false → exec (.coreLost p) s = .next s) ∧
      ((s.core p).lost = false → (s.core p).valid = true → ∃ s' : State, exec (.coreLost p) s = .next s' ∧ SameMemory s s' ∧
        (s'.core p).lost = true ∧ (∀ k < 5, ((s'.core p).slot k).st = 0) ∧
        ∃ r ∈ NMap.get [] s'.collectors (posY p), r.src = p ∧ (r.words.getD 1 0).extractLsb' 60 4 = 5 ∧
          (r.words.getD 1 0).extractLsb' 0 8 = 5)) ∧
  (∀ (s : State) (t : StreamId) (f g : FmtA), s.IssuesA t (entSys 0xFC usedDab) anyFields f g →
    let tg := (s.core t.core).tag
    let tag := tg.toNat
    let p := s.part tag
    let c := (s.reg t g.a).toNat % 8
    let stops : Prop := p.running = some c ∧ ∃ l ∈ p.live, l.launch.ctx.toNat = c ∧ l.num = (s.slot t).launch
    ((s.strm t).pl = 0 → exec (.haltQ f) s = .next (s.precise t 0x0D none)) ∧
    ((s.strm t).pl ≠ 0 → (p.ctx c).st = 0 ∨ (p.ctx c).st = 4 → exec (.haltQ f) s = .next ((s.setReg t g.d 0x04).retire t)) ∧
    ((s.strm t).pl ≠ 0 → (p.ctx c).st ≠ 0 → (p.ctx c).st ≠ 4 → ∃ s' : State,
      (stops → exec (.haltQ f) s = .next s') ∧ (¬stops → exec (.haltQ f) s = .next ((s'.setReg t g.d 0).retire t)) ∧
      (s'.ctx tag c).st = (p.ctx c).st ∧ (s'.part tag).running = p.running ∧ (∀ l ∈ (s'.part tag).queue, l.ctx.toNat ≠ c) ∧
      (p.running = some c ∨ NMap.find s.saved (8 * tag + c) ≠ none → ∀ l ∈ (s'.part tag).live, l.launch.ctx.toNat ≠ c) ∧
      (p.running = some c → ∀ q ∈ s.coresOf tg, ∀ l ∈ p.live, l.launch.ctx.toNat = c → l.num ≠ 0 →
        (∀ i < 64, ((s'.core q).handler i).launch ≠ l.num) ∧
        ∀ k < 5, ((s.core q).slot k).launch = l.num → ((s'.core q).slot k).st = 0)))

/-- R358 to R363, R265: when every record of the launch in placement is reserved, by one act or by several, one go writes every handler
with a fresh launch number, every channel and every launch message; a failed reservation, or by the model's reading a lace slot that has
left Empty since it was reserved, whose write R265 would ignore (log 32), leaves the cores as they were; a launch that is outranked or
meets T goes back to the queue; a launch without work retires, its entries zero, its channels disabled and its number free. -/
def Obligations.LaunchesArePlacedAndRetired : Prop :=
  ∀ (s : State) (tag : Nat), tag < 64 →
    let p := s.part tag
    let tg : BitVec 6 := BitVec.ofNat 6 tag
    let sup := (s.supOf tg).getD nCorePositions
    (s.dispatches tag = false ∨ p.outranked = true → ∀ n, exec (.launchPlacement tag n) s = .next s) ∧
    (s.dispatches tag = true → p.outranked = false → ∀ (n : Nat) (x y : Placing), p.placing = some x → s.reserve sup n x = .ok y →
      let reserved : Prop := (x.recs.Pairwise fun q r => q.pos = r.pos →
          (∀ i ∈ q.hs, i ∉ r.hs) ∧ (∀ i ∈ q.cs, i ∉ r.cs) ∧ ∀ i ∈ q.ls, i ∉ r.ls) ∧
        ∀ r ∈ x.recs, r.hs.Nodup ∧ r.cs.Nodup ∧ r.ls.Nodup ∧ ∀ i ∈ r.ls, i < 16
      (y.rest ≠ [] → exec (.launchPlacement tag n) s = .next (s.setPart tag { p with placing := some y })) ∧
      (reserved → y.rest = [] → y.recs.any s.laceTaken = false → p.live.length < 65535 → ∃ s' : State,
        exec (.launchPlacement tag n) s = .next s' ∧ SameMemory s s' ∧
        let num := (s'.part tag).lastNum
        (s'.part tag).placing = none ∧ num ≠ 0 ∧ (∀ l ∈ p.live, l.num ≠ num) ∧
        (∃ l, (s'.part tag).live = p.live ++ [l] ∧ l.num = num ∧ l.launch = x.launch) ∧
        (∀ r ∈ y.recs, (∀ h ∈ r.handlers, (s'.core r.pos).handler h.1.toNat = ⟨h.2.1, h.2.2.1, h.2.2.2, num⟩) ∧
          (∀ e ∈ r.chans, (s'.core r.pos).cfg e.1.toNat = e.2 &&& 0x8FFF3FFF) ∧
          ∀ e ∈ r.laces, ((s'.core r.pos).laceSlot e.1).word = e.2) ∧
        ∃ ms, s'.mesh = s.mesh ++ ms ∧ ms.length = (y.recs.map fun r => r.msgs.length).sum) ∧
      (y.rest = [] → y.recs.any s.laceTaken = true → ∃ s' : State, exec (.launchPlacement tag n) s = .next s' ∧ s'.cores = s.cores ∧
        SameMemory s s' ∧ (s'.part tag).placing = none ∧ (s'.part tag).live = p.live)) ∧
    (s.dispatches tag = true → p.outranked = false → ∀ (n : Nat) (x : Placing) (st : Byte), p.placing = some x →
      s.reserve sup n x = .error st → ∃ s' : State, exec (.launchPlacement tag n) s = .next s' ∧ s'.cores = s.cores ∧ SameMemory s s' ∧
        (s'.part tag).placing = none ∧ (s'.part tag).live = p.live ∧ (st = 0x04 ∨ st = 0x08)) ∧
    (∀ x, p.placing = some x → p.outranked = true ∨ s.halts tag = true → ∃ s' : State,
      exec (.launchWithdraw tag) s = .next s' ∧ (s'.part tag).placing = none ∧
      ∃ a b, p.queue = a ++ b ∧ (s'.part tag).queue = a ++ x.launch :: b ∧ (∀ l ∈ a, l.no < x.launch.no) ∧
        ∀ l, b.head? = some l → x.launch.no ≤ l.no) ∧
    (p.outranked = false → s.halts tag = false → exec (.launchWithdraw tag) s = .next s) ∧
    ∀ num : BitVec 16, ((∀ l ∈ p.live, l.num ≠ num) → exec (.launchRetire tag num) s = .next s) ∧
      ∀ l, p.live.find? (fun l => l.num == num) = some l →
        (p.running ≠ some l.launch.ctx.toNat ∨ p.starting = true ∨ s.busy tg l = true → exec (.launchRetire tag num) s = .next s) ∧
        (p.running = some l.launch.ctx.toNat → p.starting = false → s.busy tg l = false → ∃ s' : State,
          exec (.launchRetire tag num) s = .next s' ∧ (∀ m ∈ (s'.part tag).live, m.num ≠ num) ∧
          (∀ q ∈ s.coresOf tg, ∀ i < 64, (s'.core q).handler i = if ((s.core q).handler i).launch = num then HEntry.zero
            else (s.core q).handler i) ∧
          ∀ e ∈ l.chans, cfgEn ((s'.core (s.position tg e.1)).cfg e.2.toNat) = false)

/-- R413 to R415, R421, R422: up to 256 doorbells are held in order; the oldest is copied while queue and completion ring have room: its
descriptor is queued, or refused with a completion of status 0x04 or 0x08; a TAKE that would pass C is ignored; a function level reset
clears the slots and bells and leaves no queued launch of a context that is present. The queue's 256 entries count a launch whose cores are
being placed, which may go back to it (R361). That a doorbell beyond 256 is ignored and that the reset clears pending bells is the model's
choice (log 70). -/
def Obligations.HostLaunchesByDoorbell : Prop :=
  ∀ (s : State) (tag : Nat), tag < 64 →
    let p := s.part tag
    let v := p.vf
    let sup := (s.supOf (BitVec.ofNat 6 tag)).getD nCorePositions
    (∀ i : Byte, ∃ s' : State, exec (.doorbell tag i) s = .next s' ∧
      (s'.part tag).vf.bells = if v.bells.length < 256 then v.bells ++ [i] else v.bells) ∧
    (v.bells = [] → exec (.doorbellCopy tag) s = .next s) ∧
    (∀ (i : Byte) (bs : List Byte), v.bells = i :: bs →
      let w (k : Nat) : Word := NMap.get 0 v.subs (8 * i.toNat + k)
      let room : Prop := p.queue.length + (if p.placing = none then 0 else 1) < 256 ∧ v.pending + (v.c - v.take).toNat < 256
      let st := (p.ctx (((w 0).toNat / 16) % 8)).st
      (¬room → exec (.doorbellCopy tag) s = .next s) ∧
      (room → ∃ s' : State, exec (.doorbellCopy tag) s = .next s' ∧ let p' := s'.part tag
        p'.vf.bells = bs ∧ p'.vf.count = v.count + 1 ∧ p'.live = p.live ∧ s'.cores = s.cores ∧ SameMemory s s' ∧
        (st = 0 ∨ st = 4 → p'.queue = p.queue ∧ p'.vf.c = v.c + 1 ∧
          NMap.get 0 p'.vf.slots (v.c.toNat % 256) = 0#48 ++ i ++ 0x04#8) ∧
        (st ≠ 0 → st ≠ 4 → s.replyOk sup (w 2) = false → p'.queue = p.queue ∧ p'.vf.c = v.c + 1 ∧
          NMap.get 0 p'.vf.slots (v.c.toNat % 256) = 0#48 ++ i ++ 0x08#8) ∧
        (st ≠ 0 → st ≠ 4 → s.replyOk sup (w 2) = true → p'.vf.c = v.c ∧
          p'.queue = p.queue ++ [⟨p.arrivals, (w 0).extractLsb' 0 2, (w 0).extractLsb' 4 3, w 1, w 2, .host i⟩] ∧
          p'.vf.pending = if tgtV (w 2) then v.pending else v.pending + 1))) ∧
    (∀ x : BitVec 16, ∃ s' : State, exec (.takeWrite tag x) s = .next s' ∧
      (s'.part tag).vf.take = if (x - v.take).toNat ≤ (v.c - v.take).toNat then x else v.take) ∧
    ∃ s' : State, exec (.functionLevelReset tag) s = .next s' ∧ (s'.part tag).vf.subs = [] ∧ (s'.part tag).vf.slots = [] ∧
      (s'.part tag).vf.bells = [] ∧ (∀ c < 8, (s'.ctx tag c).st = (s.ctx tag c).st) ∧
      ∀ l ∈ (s'.part tag).queue, (s.ctx tag l.ctx.toNat).st = 0 ∨ (s.ctx tag l.ctx.toNat).st = 4

/-- R417, R418: a launch packet of no known tenant, for no partition of the module, forged, replayed, for a context that the entry's mask
leaves out, or with no room, is counted and queues nothing; a good one is queued with the lower of its PRIO and MAXPRIO. A packet is
genuine when its last 16 bytes are the code of its first 80 under the entry's key, by a function that is free (log 9). A port that is down
loses what leaves by it, and its sender is told. R419: a stream is bound to a gateway core of its port and a channel that messages may be
addressed to (R116), any other binding being ignored by the model's reading (log 76), and a block of it that waits is delivered at once; a
block that is next in its stream is delivered as a message of nine words, an earlier one is discarded and counted, a later one waits in
the port's queue; a full queue or a port that is down takes none. That blocks of a stream without a binding wait, that the message carries
REM 1 and that its SENDER is free is the model's choice (log 28). -/
def Obligations.PacketsAndBlocksAreTaken : Prop :=
  (∀ (s : State) (x : BitVec 768),
    let w (k : Nat) : Word := x.extractLsb' (64 * k) 64
    let c := ((w 2).toNat / 16) % 8
    (s.io.boot.phase ≠ 5 → exec (.launchPacket x) s = .next s) ∧
    (s.io.boot.phase = 5 → (∀ e ∈ s.io.table, e.2.tenant ≠ (w 0).extractLsb' 0 32) →
      ∃ s' : State, exec (.launchPacket x) s = .next s' ∧ s'.io.refused = s.io.refused + 1 ∧ s'.parts = s.parts) ∧
    (∀ k e, s.io.boot.phase = 5 → s.io.table.find? (fun e => e.2.tenant == (w 0).extractLsb' 0 32) = some (k, e) → ∃ s' : State,
      exec (.launchPacket x) s = .next s' ∧ s'.cores = s.cores ∧ SameMemory s s' ∧ s'.io.refused = s.io.refused ∧
      let e' := NMap.get LaunchEntry.zero s'.io.table k
      (s.partOfGpid e.gpid = none → s'.parts = s.parts ∧ e' = { e with refused := e.refused + 1 }) ∧
      ∀ tag, s.partOfGpid e.gpid = some tag →
        let p := s.part tag.toNat
        let fresh : Prop := Config.gmac e.key (x.extractLsb' 0 640) = x.extractLsb' 640 128 ∧ e.lastSeq.toNat < (w 1).toNat
        let good : Prop := e.mask.getLsbD c = true ∧ (p.ctx c).st ≠ 0 ∧ (p.ctx c).st ≠ 4 ∧
          s.replyOk ((s.supOf tag).getD nCorePositions) (w 4) = true ∧ p.queue.length + (if p.placing = none then 0 else 1) < 256
        (¬fresh → s'.parts = s.parts ∧ e' = { e with refused := e.refused + 1 }) ∧
        (fresh → ¬good → s'.parts = s.parts ∧ e' = { e with lastSeq := w 1, refused := e.refused + 1 }) ∧
        (fresh → good → e' = { e with lastSeq := w 1 } ∧ (s'.part tag.toNat).queue = p.queue ++ [⟨p.arrivals,
          BitVec.ofNat 2 (min e.maxPrio.toNat ((w 2).toNat % 4)), (w 2).extractLsb' 4 3, w 3, w 4, .packet⟩])) ∧
    ∀ port : Nat, ∃ s' : State, exec (.weltPortDown port) s = .next s' ∧ port ∈ s'.io.down ∧ s'.cores = s.cores ∧ s'.parts = s.parts ∧
      (∀ q, q ≠ port → (q ∈ s'.io.down ↔ q ∈ s.io.down)) ∧
      ∀ (p : Nat) (m : Word) (body : List Word), NMap.find s.io.routes (tgtModule m).toNat = some port → s.isOwn (tgtModule m) = false →
        (s'.sendTo p none m 0 false body).weltOut = s'.weltOut ∧ (s'.sendTo p none m 0 false body).mesh = s'.mesh) ∧
  (∀ (s : State) (port : Nat) (stream : BitVec 16) (core chan : Nat) (index : BitVec 32) (scale : Byte) (block : Vec),
    let next : Block := ⟨stream, index, scale, block⟩
    (core ∉ gateways port ∨ chan = 0 ∨ 63 ≤ chan → exec (.blockStreamBinding port stream core chan index) s = .next s) ∧
    (core ∈ gateways port → 0 < chan → chan < 63 → ∃ s' : State, exec (.blockStreamBinding port stream core chan index) s = .next s' ∧
      ((∀ x ∈ s.portQueue port, x.stream ≠ stream) → s'.mesh = s.mesh ∧ s'.portQueue port = s.portQueue port ∧
        s'.io.streams.find? (fun b => b.of port stream) = some ⟨port, stream, core, BitVec.ofNat 6 chan, index.toNat⟩) ∧
      (s.portQueue port = [next] → s'.portQueue port = [] ∧
        s'.io.streams.find? (fun b => b.of port stream) = some ⟨port, stream, core, BitVec.ofNat 6 chan, index.toNat + 1⟩ ∧
        ∃ q : Packet, s'.mesh = s.mesh ++ [q] ∧ q.dst = core ∧ q.chan.toNat = chan) ∧
      ∀ q r, ¬(q = port ∧ r = stream) → s'.io.streams.find? (fun b => b.of q r) = s.io.streams.find? fun b => b.of q r) ∧
    (port ∈ s.io.down ∨ 64 ≤ (s.portQueue port).length → exec (.blockArrival port stream index scale block) s = .next s) ∧
    (port ∉ s.io.down → s.portQueue port = [] → ∃ s' : State, exec (.blockArrival port stream index scale block) s = .next s' ∧
      s'.cores = s.cores ∧ SameMemory s s' ∧
      (s.io.streams.find? (fun b => b.of port stream) = none → s'.portQueue port = [next] ∧ s'.mesh = s.mesh) ∧
      ∀ b, s.io.streams.find? (fun b => b.of port stream) = some b →
        (index.toNat < b.next → s'.portQueue port = [] ∧ s'.mesh = s.mesh ∧
          NMap.get 0 s'.io.dups port = NMap.get 0 s.io.dups port + 1) ∧
        (b.next < index.toNat → s'.portQueue port = [next] ∧ s'.mesh = s.mesh) ∧
        (index.toNat = b.next → s'.portQueue port = [] ∧
          s'.io.streams.find? (fun b => b.of port stream) = some { b with next := b.next + 1 } ∧
          ∃ q : Packet, s'.mesh = s.mesh ++ [q] ∧ q.dst = b.core ∧ q.chan = b.chan ∧ q.words.length = 10 ∧
            hdrLen (q.words.headD 0) = 9 ∧ hdrChan (q.words.headD 0) = b.chan ∧ hdrKind (q.words.headD 0) = 0 ∧
            hdrRem (q.words.headD 0) = true ∧ q.words.getD 1 0 = stream ++ index ++ 0#8 ++ scale ∧
            ∀ j < 8, q.words.getD (2 + j) 0 = block.extractLsb' (64 * j) 64)))

/-- R420: the boot goes from ROM through DHCP, the fetch, the check and memory training to PHASE 5; each failure sets its code and waits,
one second at first and twice as long each time up to 64 s, before the next attempt starts at DHCP. PHASE stays as it is while the
boot waits (log 33, DEDUCED). -/
def Obligations.BootRunsAndRetries : Prop :=
  ∀ s : State,
    let b := s.io.boot
    let goes (i : Instr) (b' : Boot) : Prop := exec i s = .next { s with io := { s.io with boot := b' } }
    let again : Boot := { b with attempt := if b.attempt = 255 then 255 else b.attempt + 1, phase := 1, retry := none }
    let failed (code : Byte) (phase : BitVec 4) : Boot :=
      { b with code := code, phase := phase, retry := some (s.time + BitVec.ofNat 64 b.wait), wait := min (2 * b.wait) (64 * 10 ^ 9) }
    let at_ (phase : BitVec 4) : Prop := b.phase = phase ∧ b.retry = none
    (at_ 0 → goes .powerOn again) ∧ (¬at_ 0 → goes .powerOn b) ∧
    (at_ 1 → goes (.dhcpLease true) { b with phase := 2 } ∧ goes (.dhcpLease false) (failed 1 1)) ∧ (¬at_ 1 → ∀ ok, goes (.dhcpLease ok) b) ∧
    (at_ 2 → goes (.imageFetchComplete .failed) (failed 2 2) ∧ goes (.imageFetchComplete .keyMismatch) (failed 3 3) ∧
      goes (.imageFetchComplete .badSignature) (failed 4 3) ∧ goes (.imageFetchComplete .malformed) (failed 5 3) ∧
      goes (.imageFetchComplete .verified) { b with phase := 4 }) ∧ (¬at_ 2 → ∀ r, goes (.imageFetchComplete r) b) ∧
    (at_ 4 → goes (.memoryTrainingComplete true) { b with phase := 5 } ∧ goes (.memoryTrainingComplete false) (failed 6 4)) ∧
    (¬at_ 4 → ∀ ok, goes (.memoryTrainingComplete ok) b) ∧
    (∀ d, b.retry = some d → d.toNat ≤ s.time.toNat → goes .bootRetryExpire again) ∧
    (b.retry = none ∨ (∃ d, b.retry = some d ∧ s.time.toNat < d.toNat) → goes .bootRetryExpire b) ∧
    s.pfBar 8 = 0#32 ++ b.code ++ b.attempt ++ 0#12 ++ b.phase

/-! ### Reset, fetch, decoding, steps and the invariant -/

/-- R3, R4, R19, R114, R117, R185, R192, R347, R349, R351, R364, R398: the reset values that the manual gives; and, by the model's choice
(log 2), TIMEBASE 0, empty launch queues and pools, halves without an owner, and every region Unclaimed. -/
def Obligations.ResetLeavesTheGivenValues : Prop :=
  State.reset.Inv ∧ (∀ p, (State.reset.core p).partTag = 0 ∧ (State.reset.core p).lctBase = 0 ∧ (State.reset.core p).trapVec = 0 ∧
    (State.reset.core p).priv = 0 ∧ (State.reset.core p).stage = 0xFFFF ∧ (∀ k, ((State.reset.core p).slot k).st = 0) ∧
    (∀ ch, (State.reset.core p).cfg ch = 0) ∧ (∀ i, (State.reset.core p).handler i = HEntry.zero) ∧
    (∀ b, cbWord ((State.reset.core p).buffer b) = 0) ∧ ∀ k, vget 0 (State.reset.core p).win k = 0) ∧
  (∀ tag c, (State.reset.ctx tag c).st = 0) ∧ (∀ tag, (State.reset.part tag).pool = [] ∧ (State.reset.part tag).queue = []) ∧
  (∀ h, (State.reset.half h).owner = none ∧ (State.reset.half h).ramp = .quiescent) ∧ (∀ k, (State.reset.region k).st = .unclaimed) ∧
  State.reset.rampTime = 64 ∧ State.reset.time = 0

/-- R32, R44, R45: a fetch brings the line of a running stream's next slot from device memory into its cluster's cache; it changes no
memory and no core but for its counters of translations (R404), and it does nothing while the line is there, the stream waits, its
program counter names no slot, or a die on the way relocks (R394). -/
def Obligations.FetchesFillTheCache : Prop :=
  ∀ (s : State) (t : StreamId),
    let va := pcLine (s.strm t).pc
    let c := s.core t.core
    (s.slotMoves t = false ∨ (s.strm t).pend ≠ none ∨ pcBad (s.strm t).pc = true ∨ s.icLine t.core va ≠ none ∨
        s.reachable t.core va = false →
      exec (.instructionFetch t) s = .next s) ∧
    (s.slotMoves t = true → (s.strm t).pend = none → pcBad (s.strm t).pc = false → s.icLine t.core va = none →
      s.reachable t.core va = true → (s.strm t).badLine = none →
      ∀ l, s.walk c.tag c.ctx va true = some l → s.isOwn l.module = true →
        ((s.region l.key).fetchable = true → ∃ s' : State, exec (.instructionFetch t) s = .next s' ∧
          (∀ q, { s'.core q with pm := (s.core q).pm } = s.core q) ∧ SameMemory s s' ∧
          s'.icLine t.core va = some (BitVec.ofNat 512 (s.mem.readNat (l.key + va.toNat % pageLen l.size) 64)) ∧
          ∀ q x, s.icLine q x = none → s'.icLine q x ≠ none → x = va ∧ clusterOf q = clusterOf t.core) ∧
        ((s.region l.key).fetchable = false → exec (.instructionFetch t) s =
          .next ((s.modStrm t fun st => { st with badLine := none }).precise t 0x06 (some va))))

/-- R36 to R42, R56, R88, R166, R173, R174: when a stream whose slot runs moves with nothing pending, no trap or fault to enter first, its
program counter naming a slot, its line in the cache and whole, its own slot there, no register that it uses waiting for a status or lost
with a cancelled vector instruction, no vector store of its slot in the store buffer before an access of memory or a vector instruction, no
vector fault on its way before a scalar access, and no earlier instruction of the other stream in its way, a step runs exactly the
instruction that the slot's word decodes to; a word that decodes to none traps with cause 0x01. -/
def Obligations.StepRunsTheDecodedInstruction : Prop :=
  ∀ (s : State) (t : StreamId) (rest : List Act) (l : Line), s.agenda = .stream t :: rest → streamExists t = true →
    let s0 : State := { s with agenda := rest }
    let st := s0.strm t
    let k := pcSlot st.pc
    s0.coreMoves t.core false = true → s0.slotMoves t = true → (s0.slot t).firstLate = none → st.dueLate = none →
    st.pend = none → s0.icLine t.core (pcLine st.pc) = some l →
    pcBad st.pc = false → lineWordOk l = true → slotStream l k = t.acc → slotOk l k = true →
    (decode (slotWord l k) = none → step s = .next (s0.precise t 0x01 none).afterAct) ∧
    ∀ i, decode (slotWord l k) = some i → (st.entering = true → slotTgt l k = true) →
      let u := (form i).usesRep st.rep
      (u.sr ||| u.sw) &&& ((s0.slot t).board ||| (s0.slot t).lost) = 0 →
      (u.touches = true ∨ u.vec = true → ∀ e ∈ (s0.core t.core).sbuf, e.vec.isSome = true → e.slot ≠ t.slot) →
      (u.touches = true → u.vec = false → (s0.slot t).vecFaulted = false) → s0.interlocked t u = false →
      step s = settleOutcome (exec i { s0.modStrm t (fun st => { st with entering := false }) with cur := .stream t })

/-- R22 to R31: words written out from the manual's encoding tables decode to the instructions that they stand for, and reserved bits, an
unassigned OP or an unused field make a word illegal. -/
def Obligations.WordsDecodeAsTheTablesSay : Prop :=
  decode 0x200030420000000000000000 = some (.add ⟨0, 3, 1, 2, 0, 0, 0⟩) ∧
  decode 0 = some (.nop ⟨0, 0, 0, 0, 0, 0, 0⟩) ∧
  decode 0xF80CA0040000000000000000 = none ∧
  decode 0xF804A00C0000000000000000 = some (.gangNext ⟨1, 10, 0, 12, 0, 0, 0⟩) ∧
  decode 0xF800A2CC0000000000000000 = some (.gang ⟨0, 10, 11, 12, 0, 0, 0⟩) ∧
  decode 0xF00050000000000000000010 = some (.ctlr ⟨0, 5, 0, 0, 0, 0, 0x10⟩) ∧
  decode 0xF20000000000000000000000 = some (.eret ⟨0, 0, 0, 0, 0, 0, 0⟩) ∧
  decode 0xE80000000000000000001234 = some (.bbc ⟨0, 0, 0, 0, 0, 0, 0x1234⟩) ∧
  decode 0xED0082400000000000000003 = some (.pmcr ⟨0, 8, 9, 0, 0, 0, 3⟩) ∧
  decode 0xFD0000000000000000000000 = none ∧ decode 0x000000000000000000000001 = none ∧ decode 0x200030428000000000000000 = none

/-- R21 to R30: decoding the encoding of a well-formed instruction gives the instruction back, and every word that decodes is the encoding
of what it decodes to, so an instruction has one word. -/
def Obligations.DecodingAndEncodingAgree : Prop :=
  (∀ i : Instr, i.wellFormed = true → ∃ w, encode i = some w ∧ decode w = some i) ∧
  ∀ (w : IWord) (i : Instr), decode w = some i → i.wellFormed = true ∧ encode i = some w

/-- The memory keeps its canonical form: whatever moves, a step that answers a next state leaves equal memories equal data. -/
def Obligations.EveryStepKeepsTheMemoryCanonical : Prop :=
  ∀ s s' : State, s.Inv → step s = .next s' → s'.Inv
/-! ### Scalar floating point (R108 to R112) and the number formats -/

/-- R109: the exact result of each arithmetic instruction, rounded once to T under rm, or under RND of a pending FMT (R50, R108). -/
def Obligations.FloatArithmeticRoundsOnce : Prop :=
  let T (g : FmtA) : Nat := g.fn.toNat
  let rm (s : State) (t : StreamId) (g : FmtA) : Nat :=
    match (s.strm t).fmt with
    | some p => p.rnd.toNat
    | none => g.md.toNat % 8
  let x (s : State) (t : StreamId) (g : FmtA) : Val := valOf (T g) (s.operandA t g).toNat
  let y (s : State) (t : StreamId) (g : FmtA) : Val := valOf (T g) (s.reg t g.b).toNat
  let z (s : State) (t : StreamId) (g : FmtA) : Val := valOf (T g) (s.reg t g.c).toNat
  let rounded (v : State → StreamId → FmtA → Val) (s : State) (t : StreamId) (g : FmtA) : Word := BitVec.ofNat 64 (cvt (T g) (rm s t g) (v s t g))
  Computes .fadd (entFp 0x48 usedDab) anyFields (rounded fun s t g => addV (rm s t g) (x s t g) (y s t g)) ∧
  Computes .fsub (entFp 0x49 usedDab) anyFields (rounded fun s t g => addV (rm s t g) (x s t g) (y s t g).negate) ∧
  Computes .fmul (entFp 0x4A usedDab) anyFields (rounded fun s t g => mulV (x s t g) (y s t g)) ∧
  Computes .fma (entFp 0x4B usedDabc) anyFields (rounded fun s t g => addV (rm s t g) (mulV (x s t g) (y s t g)) (z s t g)) ∧
  Computes .fdiv (entFp 0x4C usedDab) anyFields (rounded fun s t g => divV (x s t g) (y s t g)) ∧
  Computes .fsqrt (entFp 0x4D usedDa) anyFields (rounded fun s t g => sqrtV (x s t g)) ∧
  Computes .fexp2 (entFp 0x53 usedDa) anyFields (fun s t g => BitVec.ofNat 64 (exp2 (T g) (rm s t g) (x s t g))) ∧
  Computes .flog2 (entFp 0x54 usedDa) anyFields (fun s t g => BitVec.ofNat 64 (log2 (T g) (rm s t g) (x s t g))) ∧
  Computes .fcvt (entFp 0x52 ⟨true, true, false, true, false⟩) (fun g => cvtType g.c) (fun s t g =>
    BitVec.ofNat 64 (fcvtBits (T g) (rm s t g) (valOf g.c.toNat (s.operandA t g).toNat)))

/-- R109, R110, R112: FMIN, FMAX, FCMP, FCLS and the four FMOV round nothing. FMOV copies the low w bits with the sign bit kept, inverted,
cleared or taken from s[B]. R110: FCMP sets one of bits 3:0, +0 and −0 comparing equal; FCLS sets exactly one
of bits 9:0, the one of the operand's class. -/
def Obligations.FloatMovesAndComparisons : Prop :=
  (let T (g : FmtA) : Nat := g.fn.toNat
  let x (s : State) (t : StreamId) (g : FmtA) : Val := valOf (T g) (s.operandA t g).toNat
  let y (s : State) (t : StreamId) (g : FmtA) : Val := valOf (T g) (s.reg t g.b).toNat
  let sign (g : FmtA) (a : Word) : Nat := a.toNat / 2 ^ (tyW (T g) - 1) % 2
  let rest (g : FmtA) (a : Word) : Nat := a.toNat % 2 ^ (tyW (T g) - 1)
  let mov (sg : FmtA → Word → Word → Nat) (s : State) (t : StreamId) (g : FmtA) : Word :=
    BitVec.ofNat 64 (sg g (s.operandA t g) (s.reg t g.b) * 2 ^ (tyW (T g) - 1) + rest g (s.operandA t g))
  Computes .fmin (entInt 0x4E usedDab) anyFields (fun s t g => BitVec.ofNat 64 (cvt (T g) 0 (minV (x s t g) (y s t g)))) ∧
  Computes .fmax (entInt 0x4F usedDab) anyFields (fun s t g => BitVec.ofNat 64 (cvt (T g) 0 (maxV (x s t g) (y s t g)))) ∧
  Computes .fcmp (entInt 0x50 usedDab) anyFields (fun s t g =>
    if (x s t g).isNan || (y s t g).isNan then 8
    else match (x s t g).cmp (y s t g) with
      | .lt => 1
      | .eq => 2
      | .gt => 4) ∧
  Computes .fcls (entInt 0x51 usedDa) anyFields (fun s t g => BitVec.ofNat 64 (fclsMask (T g) (s.operandA t g).toNat)) ∧
  Computes .fmov (entInt 0x55 usedDa) anyFields (mov fun g a _ => sign g a) ∧
  Computes .fmovNeg (entInt 0x55 usedDa) anyFields (mov fun g a _ => 1 - sign g a) ∧
  Computes .fmovAbs (entInt 0x55 usedDa) anyFields (mov fun _ _ _ => 0) ∧
  Computes .fmovSgn (entInt 0x55 usedDab) anyFields (mov fun g _ b => sign g b)) ∧
  (∀ c bits, 9 ≤ c → c ≤ 12 →
    let v := valOf c bits
    let neg := bits / 2 ^ (tyW c - 1) % 2 = 1
    let m := fclsMask c bits
    let ex := bits / 2 ^ (fty c).fb % 2 ^ (fty c).eb
    let top := 2 ^ (fty c).eb - 1
    (∃ k < 10, m = 2 ^ k) ∧ (m = 2 ^ 0 ↔ v = .inf true) ∧ (m = 2 ^ 7 ↔ v = .inf false) ∧
    (m = 2 ^ 3 ↔ v.isZero = true ∧ neg) ∧ (m = 2 ^ 4 ↔ v.isZero = true ∧ ¬neg) ∧
    (m = 2 ^ 1 ↔ ex ≠ 0 ∧ ex ≠ top ∧ neg) ∧ (m = 2 ^ 6 ↔ ex ≠ 0 ∧ ex ≠ top ∧ ¬neg) ∧
    (m = 2 ^ 2 ↔ ex = 0 ∧ v.isZero = false ∧ neg) ∧ (m = 2 ^ 5 ↔ ex = 0 ∧ v.isZero = false ∧ ¬neg) ∧
    (m = 2 ^ 8 ↔ v.isNan = true ∧ bits / 2 ^ ((fty c).fb - 1) % 2 = 0) ∧ (m = 2 ^ 9 ↔ v.isNan = true ∧ bits / 2 ^ ((fty c).fb - 1) % 2 = 1)) ∧
  ∀ n m : Bool, (Val.zero n).cmp (Val.zero m) = .eq

/-- R64, R68, R71: a value that the type holds is rounded to itself under every rounding code; a NaN becomes the canonical one. R70, R71:
conversion to an integer type saturates: the result is the encoding of a number in MIN(T)..MAX(T), MIN or MAX for an infinity, 0 for a
NaN, and an integer that the type holds converts to itself. R72: a NaN operand gives NaN in every arithmetic operation; an exact zero
sum of opposite signs is +0, and −0 under RDN. -/
def Obligations.RoundingAndSaturation : Prop :=
  (∀ c rm bits, 9 ≤ c → c ≤ 15 → rm ≤ 4 → bits < 2 ^ tyW c →
    cvt c rm (valOf c bits) = if (valOf c bits).isNan then (fty c).nan else bits) ∧
  ((∀ c rm, c ≤ 8 → rm ≤ 4 →
    (∀ v, ∃ n : Int, intMin c ≤ n ∧ n ≤ intMax c ∧ cvt c rm v = encInt c n) ∧
    cvt c rm .nan = 0 ∧ cvt c rm (.inf true) = encInt c (intMin c) ∧ cvt c rm (.inf false) = encInt c (intMax c) ∧
    ∀ n : Int, cvt c rm (.ofInt n) = encInt c (max (intMin c) (min (intMax c) n))) ∧
  (∀ (rm : Nat) (x : Val), addV rm .nan x = .nan ∧ addV rm x .nan = .nan ∧ mulV .nan x = .nan ∧ mulV x .nan = .nan ∧ divV .nan x = .nan ∧
    divV x .nan = .nan ∧ fmaV rm .nan x x = .nan ∧ fmaV rm x x .nan = .nan ∧
    (∀ y, x.isZero = true → mulV x (.inf y) = .nan ∧ mulV (.inf y) x = .nan) ∧ addV rm (.inf true) (.inf false) = .nan ∧
    ∀ (n : Bool) (m : Nat) (e : Int), m ≠ 0 → addV rm (.fin n m e false) (.fin (!n) m e false) = .zero (rm == 2)))

/-! ### Addresses and names of cores (R101 to R107) -/

/-- R104, R105: MADR and RADR build an address from their fields once the offset lies below 2^29 and the core, or the deltas, exist;
otherwise they trap with cause 0x04 and write nothing. R106, R107: LCOR, the six WHO and the two PHASH. The second clause of LCOR.log,
for a core that the table names twice or not at all, is the model's (log 15); PHASH.place is stated where the partition has a core. -/
def Obligations.AddressesAndCoresAreNamed : Prop :=
  ((∀ (f g : FmtA) (s : State) (t : StreamId),
    let off (b : Word) : Word := b + g.imm.signExtend 64
    let addr (tag : Byte) (m : BitVec 13) (y x : BitVec 6) (b : Word) : Word := tag ++ m ++ y ++ x ++ g.fn.extractLsb' 0 2 ++ (off b).extractLsb' 0 29
    (∀ p, s.IssuesA t (entInt 0x40 usedDab) anyFields f g → (off (s.reg t g.b)).toNat < 2 ^ 29 →
      s.lct t.core (s.reg t g.a).toNat = some p →
      exec (.madr f) s =
        .next ((s.setReg t g.d (addr 1 0x1FFF (BitVec.ofNat 6 (p / 48)) (BitVec.ofNat 6 (p % 48)) (s.reg t g.b))).retire t)) ∧
    (s.IssuesA t (entInt 0x40 usedDab) anyFields f g → (off (s.reg t g.b)).toNat < 2 ^ 29 → (s.reg t g.a).toNat < 2 ^ 25 →
      exec (.madrPhys f) s =
        .next ((s.setReg t g.d (addr 1
          (if (s.reg t g.a).extractLsb' 12 13 = s.module then 0x1FFF else (s.reg t g.a).extractLsb' 12 13)
          ((s.reg t g.a).extractLsb' 6 6) ((s.reg t g.a).extractLsb' 0 6) (s.reg t g.b))).retire t)) ∧
    (s.IssuesA t (entInt 0x41 usedDabc) anyFields f g → (off (s.reg t g.c)).toNat < 2 ^ 29 →
      -32 ≤ (s.reg t g.a).toInt → (s.reg t g.a).toInt ≤ 31 → -32 ≤ (s.reg t g.b).toInt → (s.reg t g.b).toInt ≤ 31 →
      exec (.radr f) s =
        .next ((s.setReg t g.d (addr 2 0x1FFF ((s.reg t g.b).extractLsb' 0 6) ((s.reg t g.a).extractLsb' 0 6) (s.reg t g.c))).retire t))) ∧
  (∀ (f g : FmtA) (s : State) (t : StreamId),
    let high (b : Word) : Prop := 2 ^ 29 ≤ (b + g.imm.signExtend 64).toNat
    let far (x : Word) : Prop := x.toInt < -32 ∨ 31 < x.toInt
    (s.IssuesA t (entInt 0x40 usedDab) anyFields f g → high (s.reg t g.b) ∨ s.lct t.core (s.reg t g.a).toNat = none →
      exec (.madr f) s = .next (s.precise t 0x04 none)) ∧
    (s.IssuesA t (entInt 0x40 usedDab) anyFields f g → high (s.reg t g.b) ∨ 2 ^ 25 ≤ (s.reg t g.a).toNat →
      exec (.madrPhys f) s = .next (s.precise t 0x04 none)) ∧
    (s.IssuesA t (entInt 0x41 usedDabc) anyFields f g → high (s.reg t g.c) ∨ far (s.reg t g.a) ∨ far (s.reg t g.b) →
      exec (.radr f) s = .next (s.precise t 0x04 none)))) ∧
  (let word (p : Nat) (m : BitVec 13) : Word := BitVec.ofNat 64 (m.toNat * 2 ^ 12 + p / 48 * 2 ^ 6 + p % 48)
  let hash (p k : Nat) : Nat :=
    let x := (p + (k + 1) * 0x6A3C5D17) % 2 ^ 32
    let x := x ^^^ (x / 2 ^ 16)
    let x := x * 0x5B1D3A27 % 2 ^ 32
    let x := x ^^^ (x / 2 ^ 13)
    let x := x * 0x3C69E1A5 % 2 ^ 32
    x ^^^ (x / 2 ^ 16)
  let hashOf (s : State) (t : StreamId) (g : FmtA) : Nat := hash ((s.reg t g.a).toNat % 2 ^ 32) ((s.reg t g.b).toNat % 2 ^ 8)
  Reads .lcor (entInt 0x42 usedDa) (fun s t g =>
    match s.lct t.core (s.reg t g.a).toNat with
    | some p => coreWord p s.module
    | none => BitVec.allOnes 64) ∧
  Reads .lcorLog (entInt 0x42 usedDa) (fun s t g =>
    let w := (s.reg t g.a).toNat
    if 2 ^ 25 ≤ w ∨ s.isOwn (BitVec.ofNat 13 (w / 2 ^ 12)) = false ∨ 48 ≤ w % 64 ∨ 48 ≤ w / 64 % 64 then BitVec.allOnes 64
    else match s.logicalOf t.core (48 * (w / 64 % 64) + w % 64) with
      | some n => BitVec.ofNat 64 n
      | none => BitVec.allOnes 64) ∧
  Reads .whoLcore (entInt 0x43 usedD) (fun s t _ => (s.core t.core).lcore.setWidth 64) ∧
  (∀ (f g : FmtA) (s : State) (t : StreamId), t.core < 2304 → s.IssuesA t (entInt 0x43 usedD) anyFields f g →
    exec (.whoCoreword f) s = .next ((s.setReg t g.d (word t.core s.module)).retire t) ∧
    exec (.whoPlace f) s = .next ((s.setReg t g.d (BitVec.ofNat 64
      ((2 * (t.core / 48 / 24) + t.core % 48 / 24) * 2 ^ 12 + (4 * (t.core / 48 % 4) + t.core % 48 % 4) * 2 ^ 8 +
        (12 * (t.core / 48 / 4) + t.core % 48 / 4)))).retire t)) ∧
  Reads .whoNcores (entInt 0x43 usedD) (fun s t _ => BitVec.ofNat 64 (s.core t.core).nCores) ∧
  Reads .whoStage (entInt 0x43 usedD) (fun s t _ => (s.core t.core).stage.setWidth 64) ∧
  Reads .whoSlot (entInt 0x43 usedD) (fun _ t _ => BitVec.ofNat 64 ((if t.acc then 8 else 0) + t.slot % 8)) ∧
  Reads .phash (entInt 0x44 usedDab) (fun s t g => BitVec.ofNat 64 (hashOf s t g)) ∧
  ∀ (f g : FmtA) (s : State) (t : StreamId), (s.core t.core).nCores ≠ 0 → s.IssuesA t (entInt 0x44 usedDab) anyFields f g →
    exec (.phashPlace f) s = .next ((s.setReg t g.d (BitVec.ofNat 64 (hashOf s t g % (s.core t.core).nCores))).retire t))

/-! ### NOP, prefixes and control flow (R28, R36 to R52, R135 to R137) -/

/-- NOP does nothing but move its stream on; FMT and REP become pending in their own stream with REP's COUNT in STATUS (R28, R46, R47);
R47: STATUS bits 9:0 of a stream from its pending prefixes, the repetitions left among them. R48: a second prefix of a kind, a prefix
before control flow, FMT before an integer instruction: trap 0x01 at that instruction. R51: with COUNT = 0 the instruction performs
nothing and the prefixes are consumed; a field that would leave 0..63, or a stride of a field that the instruction does not use, traps
0x01 before any repetition, each time that execution comes to it. R51, R89: a queue named against its direction traps 0x01 under any
COUNT. R51, R52: under REP each repetition leaves the program counter and counts down; the last one consumes the prefixes and moves on. -/
def Obligations.PrefixesPendRepeatOrTrap : Prop :=
  (((∀ (s : State) (t : StreamId), t.slot < 5 →
    (∀ f g, s.IssuesA t (entInt 0x00 ⟨false, false, false, false, false⟩) anyFields f g → exec (.nop f) s = .next (s.retire t)) ∧
    (∀ f : FmtF, s.cur = .stream t → (s.strm t).fmt = none → ∃ s', exec (.fmt f) s = .next s' ∧ OnlySlot t s s' ∧ SameMemory s s' ∧
      s'.strm t = { s.strm t with fmt := some f, pc := nextPc (s.strm t).pc, reread := none } ∧
      (s'.slot t).s = (s.slot t).s ∧ (s'.slot t).strm (!t.acc) = (s.slot t).strm (!t.acc)) ∧
    ∀ f : FmtR, s.cur = .stream t → (s.strm t).rep = none → ∃ s', exec (.rep f) s = .next s' ∧ OnlySlot t s s' ∧ SameMemory s s' ∧
      s'.strm t = { s.strm t with rep := some f, repcnt := f.count, pc := nextPc (s.strm t).pc, reread := none } ∧
      (s'.slot t).s = (s.slot t).s ∧ (s'.slot t).strm (!t.acc) = (s.slot t).strm (!t.acc)) ∧
  (∀ (s : State) (t : StreamId), ((s.strm t).rep = none → (s.strm t).repcnt = 0) →
    let w := (s.status t).extractLsb' 0 10
    w = (match (s.strm t).fmt, (s.strm t).rep with
      | none, none => 0
      | some _, none => 1
      | _, some _ => (s.strm t).repcnt ++ 3#2))) ∧
  ((∀ (s : State) (t : StreamId), s.cur = .stream t →
    (∀ f, (s.strm t).fmt.isSome = true → exec (.fmt f) s = .next (s.precise t 0x01 none)) ∧
    (∀ f, (s.strm t).rep.isSome = true → exec (.rep f) s = .next (s.precise t 0x01 none)) ∧
    (∀ f : FmtB, ((s.strm t).fmt.isSome || (s.strm t).rep.isSome) = true → ∀ mk ∈ controlForms, exec (mk f) s = .next (s.precise t 0x01 none)) ∧
    ∀ mk e, (mk, e) ∈ intForms → ∀ f : FmtA, (s.strm t).fmt.isSome = true → exec (mk f) s = .next (s.precise t 0x01 none)) ∧
  (∀ mk e, (mk, e) ∈ intForms → ∀ (f : FmtA) (r : FmtR) (s : State) (t : StreamId), s.cur = .stream t →
    e.illegal t (s.strm t) = false → (s.strm t).fmt = none → (s.strm t).rep = some r →
    (queueIllegalA e.op t.acc f = true → exec (mk f) s = .next (s.precise t 0x01 none)) ∧
    (queueIllegalA e.op t.acc f = false → r.count = 0 → exec (mk f) s =
      .next (s.modStrm t fun st => { st with fmt := none, rep := none, repcnt := 0, pc := nextPc st.pc, reread := none })) ∧
    (r.count ≠ 0 → e.u.d = true → f.qd = false →
      (let last : Int := f.d.toNat + (r.count.toNat - 1 : Int) * r.sd.toInt; last < 0 ∨ 63 < last) →
      exec (mk f) s = .next (s.precise t 0x01 none)) ∧
    (r.count ≠ 0 → e.u.c = false → r.sc ≠ 0 → exec (mk f) s = .next (s.precise t 0x01 none))))) ∧
  (∀ mk e, (mk, e) ∈ intForms → ∀ (f g : FmtA) (r : FmtR) (s : State) (t : StreamId), t.slot < 5 → s.IssuesA t e anyFields f g →
    (s.strm t).rep = some r → ∃ s', exec (mk f) s = .next s' ∧
      s'.strm t = if 1 < (s.strm t).repcnt.toNat
        then { s.strm t with repcnt := (s.strm t).repcnt - 1, pend := none, deadline := none, snap := [], asked := [], reread := none }
        else { s.strm t with
          fmt := none, rep := none, repcnt := 0, pc := nextPc (s.strm t).pc, pend := none, deadline := none, snap := [], asked := []
          reread := none })

/-- R37, R38, R40, R135: a taken branch or jump goes to the slot OFF32 slots away once that slot may be entered. JAL writes s63 and LOOP
its count with it. R38, R135: where the condition fails execution runs on, and LOOP writes a count of 0; the seven condition codes.
R135: JR, JR.l and RET go to the address in their register; JR.l reads it before it writes s63. -/
def Obligations.BranchesGoToTheirTarget : Prop :=
  ((∀ (f : FmtB) (s s1 : State) (t : StreamId) (n : Nat), s.IssuesB t →
    (slotNo (s.strm t).pc : Int) + f.off.toInt = n → n < 5 * 2 ^ 50 → s.Lands t (pcOfNo n) s1 →
    (condHolds f.fn (s.reg t f.a) (s.reg t f.b) = true → exec (.br f) s = .next (s1.goTo t (pcOfNo n))) ∧
    (s.reg t f.a = 0 → exec (.brz f) s = .next (s1.goTo t (pcOfNo n))) ∧
    (s.reg t f.a ≠ 0 → exec (.brzNz f) s = .next (s1.goTo t (pcOfNo n))) ∧
    exec (.jmp f) s = .next (s1.goTo t (pcOfNo n)) ∧
    exec (.jal f) s = .next ((s1.setReg t 63 ((nextPc (s.strm t).pc).setWidth 64)).goTo t (pcOfNo n)) ∧
    (s.reg t f.a ≠ 1 → exec (.loop f) s = .next ((s1.setReg t f.a (s.reg t f.a - 1)).goTo t (pcOfNo n)))) ∧
  ((∀ (f : FmtB) (s : State) (t : StreamId), s.IssuesB t →
    let next := nextPc (s.strm t).pc
    (condHolds f.fn (s.reg t f.a) (s.reg t f.b) = false → exec (.br f) s = .next (s.goTo t next)) ∧
    (s.reg t f.a ≠ 0 → exec (.brz f) s = .next (s.goTo t next)) ∧
    (s.reg t f.a = 0 → exec (.brzNz f) s = .next (s.goTo t next)) ∧
    (s.reg t f.a = 1 → exec (.loop f) s = .next ((s.setReg t f.a 0).goTo t next))) ∧
  (∀ a b : Word, condHolds 0 a b = true ∧ (condHolds 1 a b = true ↔ a = b) ∧ (condHolds 2 a b = true ↔ a ≠ b) ∧
    (condHolds 3 a b = true ↔ a.toInt < b.toInt) ∧ (condHolds 4 a b = true ↔ b.toInt ≤ a.toInt) ∧
    (condHolds 5 a b = true ↔ a.toNat < b.toNat) ∧ (condHolds 6 a b = true ↔ b.toNat ≤ a.toNat)))) ∧
  (∀ (f : FmtB) (s s1 : State) (t : StreamId), s.IssuesB t →
    let go (w : Word) : Prop := w.extractLsb' 56 8 = 0 ∧ s.Lands t (w.extractLsb' 0 56) s1
    (go (s.reg t f.a) → exec (.jr f) s = .next (s1.goTo t ((s.reg t f.a).extractLsb' 0 56)) ∧
      exec (.jrL f) s = .next ((s1.setReg t 63 ((nextPc (s.strm t).pc).setWidth 64)).goTo t ((s.reg t f.a).extractLsb' 0 56))) ∧
    (go (s.reg t 63) → exec (.ret f) s = .next (s1.goTo t ((s.reg t 63).extractLsb' 0 56))))

/-- What a transfer does to the slot (R41, R49): the execute stream stands at the target with no prefix, the access stream has one more
outcome to follow, and nothing else of the slot changes. R37, R40: a target outside the program space, a malformed one, or a slot
without its TGT bit: trap 0x02 at the instruction, which has no effect. -/
def Obligations.TransfersMoveOrTrap : Prop :=
  (∀ (s : State) (t : StreamId) (pc : Pc), t.slot < 5 →
    OnlySlot t s (s.goTo t pc) ∧ SameMemory s (s.goTo t pc) ∧
    (s.goTo t pc).slot t = { s.slot t with
      x := { (s.slot t).x with
        pc := pc, fmt := none, rep := none, repcnt := 0, pend := none, deadline := none, snap := [], asked := []
        reread := (s.slot t).x.reread.filter (· == pcLine pc) }
      resolved := (s.slot t).resolved ++ [pc] }) ∧
  (∀ (f : FmtB) (s : State) (t : StreamId), s.IssuesB t →
    (∀ n : Int, (slotNo (s.strm t).pc : Int) + f.off.toInt = n → n < 0 ∨ 5 * 2 ^ 50 ≤ n →
      exec (.jmp f) s = .next (s.precise t 0x02 (some (BitVec.ofInt 64 n))) ∧
      exec (.jal f) s = .next (s.precise t 0x02 (some (BitVec.ofInt 64 n)))) ∧
    (let w := s.reg t f.a
     (w.extractLsb' 56 8 ≠ 0 ∨ w.extractLsb' 3 3 ≠ 0 ∨ 4 < w.toNat % 8 →
        exec (.jr f) s = .next (s.precise t 0x02 (some w)) ∧ exec (.jrL f) s = .next (s.precise t 0x02 (some w))) ∧
     ∀ l s1, w.extractLsb' 56 8 = 0 → w.extractLsb' 3 3 = 0 → w.toNat % 8 ≤ 4 → s.lineShut t (pcLine (w.extractLsb' 0 56)) = false →
       s.getLine t (pcLine (w.extractLsb' 0 56)) = .line l s1 → lineWordOk l = true → slotTgt l (w.toNat % 8) = false →
       exec (.jr f) s = .next (s.precise t 0x02 (some w)) ∧ exec (.jrL f) s = .next (s.precise t 0x02 (some w))))

/-- R136: ALIGN is released with 1 once every peer is ready, with 0 at once for a window of 0, and stalls otherwise; when a window has
elapsed, every slot stalled at that ALIGN is released in the same step, with 1 where its own peers are ready and else with 0. R128, R134:
END frees the slot once both streams have come to it and every register has its status; each account of the taken messages receives the run
time. R147: its successor messages go to the cores of this module and by the welt ports to others. R318, R327, R332: the END of a stage
firing that has emitted nothing hands a NULL item to every receiver, and waits while a holding queue of one is full. -/
def Obligations.AlignIsReleasedAndEndFrees : Prop :=
  (∀ (f : FmtB) (s : State) (t : StreamId),
    (s.IssuesB t → (s.peers t).all (s.peerReady (s.strm t).pc) = true →
      exec (.align f) s = .next ((s.releaseAll (s.strm t).pc (s.peers t) fun _ => 1).alignDone t f.d 1)) ∧
    (s.IssuesB t → (s.peers t).all (s.peerReady (s.strm t).pc) = false → (s.strm t).pend = none → f.off.toNat % 2 ^ 16 = 0 →
      exec (.align f) s = .next (s.alignDone t f.d 0)) ∧
    (s.IssuesB t → (s.peers t).all (s.peerReady (s.strm t).pc) = false → (s.strm t).pend = none → f.off.toNat % 2 ^ 16 ≠ 0 →
      exec (.align f) s = .next (s.await t .align (.align f) (some (s.time + BitVec.ofNat 64 (f.off.toNat % 2 ^ 16))))) ∧
    ∀ dl r ln, t.acc = false → (s.strm t).pend = some ⟨.align, .align f, some dl, r, ln⟩ → dl.toNat ≤ s.time.toNat →
      exec (.alignWindowElapsed t.core t.slot) s = .next (s.releaseAll (s.strm t).pc (t :: s.peers t) fun u =>
        if (s.peers u).all (s.peerReady (s.strm t).pc) then 1 else 0)) ∧
  (∀ (f : FmtB) (s : State) (t : StreamId), t.slot < 5 → s.IssuesB t → (s.slot t).st = 1 → (s.slot t).stageOf = none →
    s.mayEnd t = true → ((s.slot t).succ = [] ∨ s.storesDone t = true) →
    ∃ s', exec (.end_ f) s = .next s' ∧
      s'.slot t = { Slot.reset with trackers := (s.slot t).trackers, fenceNo := (s.slot t).fenceNo } ∧
      (∀ e, ((s'.core t.core).account e).run =
        ((s.core t.core).account e).run + BitVec.ofNat 64 ((s.slot t).charges.count e) * (s.time - (s.slot t).started)) ∧
      let c := s.core t.core
      let res (h : Word) : List Word := if h.getLsbD 48 then [s.reg t 2, s.reg t 3, s.reg t 4, s.reg t 5] else []
      ((∀ h ∈ (s.slot t).succ, s.isOwn (shModule h) = true ∧ (s.lct t.core (shLcore h).toNat).isSome = true) →
        s'.succs = s.succs ++ (s.slot t).succ.map fun h =>
          ⟨t.core, (s.lct t.core (shLcore h).toNat).getD 0, c.tag, c.ctx, c.lcore, c.gpid, h, res h, s.sender t⟩) ∧
      ∀ h, (s.slot t).succ = [h] → s.isOwn (shModule h) = false → s.portDown (shModule h) = false →
        s'.weltOut = s.weltOut ++ [.successor (shModule h) c.gpid h (res h) (some ⟨t.core, s.sender t, h⟩)]) ∧
  (∀ (f : FmtB) (s : State) (t : StreamId) (v : Serve) (x : Inst), t.slot < 5 → s.IssuesB t → (s.slot t).st = 1 →
    let tag := (s.core t.core).tag.toNat
    let l := s.link tag
    let i := (s.slot t).item.toNat
    let r := l.emit x s.time (s.core t.core).lcore true i []
    (s.slot t).stageOf = some v → v.last = false → (s.slot t).emitted = none → l.inst v.inst = some x → x.failed = false → x.gone = false →
    s.mayEnd t = true → ((s.slot t).succ = [] ∨ s.storesDone t = true) →
    (l.fullTarget x i = true → exec (.end_ f) s = .next s) ∧
    (l.fullTarget x i = false →
      exec (.end_ f) s = .next (((s.setLink tag r.1).modSlot t fun sl => { sl with emitted := some r.2 }).endFiring t) ∧
      ((l.insts.map (·.id)).Nodup → ∀ y ∈ l.targets x i, y.id ≠ x.id → ∃ y', r.1.inst y.id = some y' ∧ y'.held = y.held ++
        [⟨false, [header s.time (s.core t.core).lcore 1 y.sd.chan 4 false false, itemWord y.owner y.stage x.catchUp true i]⟩])))

/-! ### Vector lanes (R154 to R163) -/

/-- R159, R160: lane arithmetic. An integer lane is signed for the codes up to 4; its exact result is taken modulo 2^w, or clamped to the
type's range with SAT; a floating lane is rounded once. R158, R162, R163: VBC, VMVS, VINS, VSEL, VPERM and VCMPR, lane by lane. VCMPR
keeps the active lanes in order and zeros above. R155, R157: VCMP pushes the condition of each lane AND TOP, VPNOT inverts the top
within the entry below, VPOP removes it; a full or an empty stack traps 0x09. -/
def Obligations.LaneResultsAndPredicates : Prop :=
  ((let int (g : FmtV) (a : Nat) : Int := if g.tyNo ≤ 4 then (BitVec.ofNat g.w a).toInt else a
  let low (g : FmtV) : Int := if g.tyNo ≤ 4 then -2 ^ (g.w - 1) else 0
  let high (g : FmtV) : Int := if g.tyNo ≤ 4 then 2 ^ (g.w - 1) - 1 else 2 ^ g.w - 1
  let fit (g : FmtV) (x : Int) : Nat := ((if g.sat then max (low g) (min (high g) x) else x) % 2 ^ g.w).toNat
  let rm (s : State) (t : StreamId) (g : FmtV) : Nat :=
    match (s.strm t).fmt with
    | some p => p.rnd.toNat
    | none => g.rnd.toNat
  let num (gi : Int → Int → Int) (gf : Nat → Val → Val → Val) (s : State) (t : StreamId) (g : FmtV) (a b _ : Nat) : Nat :=
    if 9 ≤ g.tyNo then cvt g.tyNo (rm s t g) (gf (rm s t g) (valOf g.tyNo a) (valOf g.tyNo b)) else fit g (gi (int g a) (int g b))
  let flt (v : Nat → Val → Val → Val → Val) (s : State) (t : StreamId) (g : FmtV) (a b c : Nat) : Nat :=
    cvt g.tyNo (rm s t g) (v (rm s t g) (valOf g.tyNo a) (valOf g.tyNo b) (valOf g.tyNo c))
  let count (g : FmtV) (b : Nat) : Nat := if g.var then g.imm.toNat % 64 else b % g.w
  LaneWise .vadd (entVec 0x89 vDabs true) (num (fun a b => a + b) addV) ∧
  LaneWise .vsub (entVec 0x8A vDabs true) (num (fun a b => a - b) fun rm x y => addV rm x y.negate) ∧
  LaneWise .vmul (entVec 0x8B vDabs true) (num (fun a b => a * b) fun _ => mulV) ∧
  LaneWise .vmulHi (entVec 0x8B vDabs false) (fun _ _ g a b _ => (int g a * int g b / 2 ^ g.w % 2 ^ g.w).toNat) ∧
  LaneWise .vfma (entVec 0x8C vDabcs true) (flt fun rm x y z => addV rm (mulV x y) z) ∧
  LaneWise .vmin (entVec 0x8D vDabs false) (num min fun _ => minV) ∧
  LaneWise .vmax (entVec 0x8E vDabs false) (num max fun _ => maxV) ∧
  LaneWise .vabs (entVec 0x8F vDa false) (num (fun a _ => a.natAbs) fun _ x _ => x.abs) ∧
  LaneWise .vneg (entVec 0x90 vDa false) (num (fun a _ => 0 - a) fun _ x _ => x.negate) ∧
  LaneWise .vand (entVec 0x91 vDabs false) (fun _ _ _ a b _ => a &&& b) ∧ LaneWise .vor (entVec 0x92 vDabs false) (fun _ _ _ a b _ => a ||| b) ∧
  LaneWise .vxor (entVec 0x93 vDabs false) (fun _ _ _ a b _ => a ^^^ b) ∧
  LaneWise .vshl (entVec 0x94 vDabs false) (fun _ _ g a b _ => fit g (int g a * 2 ^ count g b)) ∧
  LaneWise .vshr (entVec 0x95 vDabs false) (fun _ _ g a b _ => a / 2 ^ count g b) ∧
  LaneWise .vsra (entVec 0x96 vDabs false) (fun _ _ g a b _ => ((BitVec.ofNat g.w a).toInt / 2 ^ count g b % 2 ^ g.w).toNat) ∧
  LaneWise .vexp2 (entVec 0xA0 vDa true) (fun s t g a _ _ => exp2 g.tyNo (rm s t g) (valOf g.tyNo a)) ∧
  LaneWise .vlog2 (entVec 0xA1 vDa true) (fun s t g a _ _ => log2 g.tyNo (rm s t g) (valOf g.tyNo a)) ∧
  LaneWise .vrcp (entVec 0xA2 vDa true) (flt fun _ x _ _ => rcpV x) ∧ LaneWise .vrsq (entVec 0xA3 vDa true) (flt fun _ x _ _ => rsqV x) ∧
  LaneWise .vdiv (entVec 0xA4 vDabs true) (flt fun _ x y _ => divV x y)) ∧
  (let any (_ : State) (_ : StreamId) (_ : FmtV) : Prop := True
  let act (s : State) (t : StreamId) (g : FmtV) (j : Nat) : Bool := (s.slot t).top.getLsbD (g.w * j / 8)
  let lanes (qd : Bool) (F : State → StreamId → FmtV → Nat → Nat) (s : State) (t : StreamId) (g : FmtV) (s' : State) : Prop :=
    ∃ r, LanesAre g.w r (F s t g) ∧ s' = if qd && g.qd then s.push t g.d.toNat r else s.setVreg t g.d r
  let held (F : State → StreamId → FmtV → Nat → Nat) (s : State) (t : StreamId) (g : FmtV) (j : Nat) : Nat :=
    if g.p && !act s t g j then laneOf g.w (s.vecOld t g) j else F s t g j
  let scalar (g : FmtV) (x : Nat) : Word := if g.tyNo ≤ 4 then (BitVec.ofNat g.w x).signExtend 64 else BitVec.ofNat 64 x
  CompletesV .vbc (entVec 0x86 vDs false) any (lanes true (held fun s t g _ => (s.reg t g.s).toNat)) ∧
  CompletesV .vbcImm (entVec 0x86 vD false) any (lanes true (held fun _ _ g _ => (g.imm.signExtend 64).toNat)) ∧
  CompletesV .vbcLane (entVec 0x86 vDa false) any (lanes true (held fun s t g _ => laneOf g.w (s.vreg t g.a) g.imm.toNat)) ∧
  CompletesV .vmvs (entVec 0x87 vAs false) any (fun s t g s' => s' = s.setReg t g.s (scalar g (laneOf g.w (s.vreg t g.a) g.imm.toNat))) ∧
  CompletesV .vmvsPred (entVec 0x87 vS false) any (fun s t g s' => s' = s.setReg t g.s (s.slot t).top) ∧
  CompletesV .vins (entVec 0x88 vDs false) any (lanes false fun s t g j =>
    if j = g.imm.toNat then (s.reg t g.s).toNat else laneOf g.w (s.vreg t g.d) j) ∧
  CompletesV .vsel (entVec 0x9A vDab false) any (lanes false fun s t g j =>
    if act s t g j then laneOf g.w (s.vreg t g.a) j else laneOf g.w (s.vreg t g.b) j) ∧
  CompletesV .vperm (entVec 0x9E vDabc false) any (lanes false (fun s t g j =>
    let i := laneOf g.w (s.vreg t g.b) j
    if g.p && !act s t g j then laneOf g.w (s.vecOld t g) j
    else if i < 512 / g.w then laneOf g.w (s.vreg t g.a) i
    else if i < 2 * (512 / g.w) then laneOf g.w (s.vreg t g.c) (i - 512 / g.w) else 0)) ∧
  CompletesV .vcmpr (entVec 0x9F vDas false) any (fun s t g s' => ∃ r n, s' = (s.setVreg t g.d r).setReg t g.s (BitVec.ofNat 64 n) ∧
    n = (List.range (512 / g.w)).countP (act s t g) ∧
    (∀ j < 512 / g.w, act s t g j = true → laneOf g.w r ((List.range j).countP (act s t g)) = laneOf g.w (s.vreg t g.a) j) ∧
    ∀ j < 512 / g.w, n ≤ j → laneOf g.w r j = 0))) ∧
  (let depth (s : State) (t : StreamId) : Nat := (s.slot t).preds.length
  let int (g : FmtV) (a : Nat) : Int := if g.tyNo ≤ 4 then (BitVec.ofNat g.w a).toInt else a
  let order (g : FmtV) (a b : Nat) : Option Ordering :=
    if g.tyNo < 9 then some (compare (int g a) (int g b))
    else if (valOf g.tyNo a).isNan || (valOf g.tyNo b).isNan then none else some ((valOf g.tyNo a).cmp (valOf g.tyNo b))
  let holds (cc : Nat) : Option Ordering → Bool
    | none => cc == 1 || cc == 7
    | some .lt => cc == 1 || cc == 2 || cc == 3 || cc == 6
    | some .eq => cc == 0 || cc == 3 || cc == 5 || cc == 6
    | some .gt => cc == 1 || cc == 4 || cc == 5 || cc == 6
  CompletesV .vcmp (entVec 0x97 vAbs false) (fun s t _ => depth s t < 8) (fun s t g s' =>
    ∃ p : Word, s' = (s.vecPop t g).setPreds t (p :: (s.slot t).preds) ∧
      ∀ i < 64, p.getLsbD i = (holds (g.imm.toNat % 8) (order g (laneOf g.w (s.vecA t g) (8 * i / g.w)) (s.laneB t g (8 * i / g.w))) &&
        (s.slot t).top.getLsbD i)) ∧
  CompletesV .vpnot (entVec 0x98 vNone false) (fun s t _ => 0 < depth s t) (fun s t _ s' =>
    ∃ p : Word, s' = s.setPreds t (p :: (s.slot t).preds.tail) ∧
      ∀ i < 64, p.getLsbD i = (!(s.slot t).top.getLsbD i && ((s.slot t).preds.tail.headD (BitVec.allOnes 64)).getLsbD i)) ∧
  CompletesV .vpop (entVec 0x99 vNone false) (fun s t _ => 0 < depth s t) (fun s t _ s' => s' = s.setPreds t (s.slot t).preds.tail) ∧
  ∀ (f g : FmtV) (s : State) (t : StreamId),
    (8 ≤ depth s t → s.IssuesV t (entVec 0x97 vAbs false) f g → exec (.vcmp f) s = .next (s.precise t 0x09 none)) ∧
    (depth s t = 0 → s.IssuesV t (entVec 0x98 vNone false) f g → exec (.vpnot f) s = .next (s.precise t 0x09 none)) ∧
    (depth s t = 0 → s.IssuesV t (entVec 0x99 vNone false) f g → exec (.vpop f) s = .next (s.precise t 0x09 none)))

/-- R84, R161: VRSUM of an integer type is the exact sum of the active lanes modulo 2^64, VRMAX and VRMIN the largest and smallest active
lane, MIN(T) and MAX(T) when there is none; a floating reduction is the tree over the lanes with the identity in the excluded ones. -/
def Obligations.Reductions : Prop :=
  let any (_ : State) (_ : StreamId) (_ : FmtV) : Prop := True
  let act (s : State) (t : StreamId) (g : FmtV) (j : Nat) : Bool := !g.p || (s.slot t).top.getLsbD (g.w * j / 8)
  let int (g : FmtV) (a : Nat) : Int := if g.tyNo ≤ 4 then (BitVec.ofNat g.w a).toInt else a
  let vals (s : State) (t : StreamId) (g : FmtV) : List Int :=
    ((List.range (512 / g.w)).filter (act s t g)).map fun j => int g (laneOf g.w (s.vecA t g) j)
  let ends (s : State) (t : StreamId) (g : FmtV) (s' : State) (P : Word → Prop) : Prop := ∃ x, s' = (s.vecPop t g).setReg t g.s x ∧ P x
  let floats (s : State) (t : StreamId) (g : FmtV) (e : Nat) (op : Nat → Nat → Nat) : Word :=
    BitVec.ofNat 64 ((tree op (9 - lgWidth g.ty)
      ((List.range (512 / g.w)).map fun j => if act s t g j then laneOf g.w (s.vecA t g) j else e)).headD 0)
  let extreme (s : State) (t : StreamId) (g : FmtV) (le : Int → Int → Prop) (none_ : Int) (x : Word) : Prop :=
    ∃ m : Int, x = BitVec.ofInt 64 m ∧ (vals s t g = [] → m = none_) ∧ (vals s t g ≠ [] → m ∈ vals s t g) ∧ ∀ v ∈ vals s t g, le v m
  CompletesV .vrsum (entVec 0x9B vAs true) any (fun s t g s' => ends s t g s' fun x =>
    if g.tyNo < 9 then x = BitVec.ofInt 64 (vals s t g).sum
    else x = floats s t g (2 ^ (tyW g.tyNo - 1)) fun a b =>
      cvt g.tyNo (s.vrm t g) (addV (s.vrm t g) (valOf g.tyNo a) (valOf g.tyNo b))) ∧
  CompletesV .vrmax (entVec 0x9C vAs false) any (fun s t g s' => ends s t g s' fun x =>
    if g.tyNo < 9 then extreme s t g (fun a b => a ≤ b) (intMin g.tyNo) x
    else x = floats s t g (cvt g.tyNo 0 (.inf true)) fun a b => cvt g.tyNo 0 (maxV (valOf g.tyNo a) (valOf g.tyNo b))) ∧
  CompletesV .vrmin (entVec 0x9D vAs false) any (fun s t g s' => ends s t g s' fun x =>
    if g.tyNo < 9 then extreme s t g (fun a b => b ≤ a) (intMax g.tyNo) x
    else x = floats s t g (cvt g.tyNo 0 (.inf false)) fun a b => cvt g.tyNo 0 (minV (valOf g.tyNo a) (valOf g.tyNo b)))

/-- R167 to R172: VCVT converts lane by lane between widths through its chain; VDQNT multiplies by the block's scale and rounds once; VQNT
and BADDQ write one block of elements and its scale, and no element is a NaN or an infinity; VCBD decodes codes with the table of the
own local memory. -/
def Obligations.ConversionsAndBlocks : Prop :=
  let any (_ : State) (_ : StreamId) (_ : FmtV) : Prop := True
  let on (s : State) (t : StreamId) (g : FmtV) (w j : Nat) : Bool := !g.p || (s.slot t).top.getLsbD (w * j / 8)
  let src (g : FmtV) : Nat := g.imm.toNat % 16
  let part (g : FmtV) : Nat := g.imm.toNat / 16 % 16
  let kind (g : FmtV) : Nat := g.imm.toNat / 16 % 4
  let blk (g : FmtV) : Nat := g.imm.toNat / 64 % 4
  let half (g : FmtV) : Nat := g.imm.toNat / 256 % 2
  let old (s : State) (t : StreamId) (g : FmtV) (j : Nat) : Nat := laneOf g.w (s.vecOld t g) j
  let block (w b : Nat) (was r : Vec) (qs : List Nat) : Prop :=
    LanesAre w r fun j => if 32 * b ≤ j ∧ j < 32 * b + 32 then qs.getD (j - 32 * b) 0 else laneOf w was j
  let wide (s : State) (t : StreamId) (g : FmtV) : List Val := (List.range 32).map fun j =>
    valOf (src g) (if src g = 11 ∧ 16 ≤ j then laneOf 32 (s.vreg t g.b) (j - 16) else laneOf (tyW (src g)) (s.vreg t g.a) j)
  let sums (s : State) (t : StreamId) (g : FmtV) : List Val := (List.range 32).map fun j =>
    addV (s.vrm t g)
      (scaleV (valOf g.tyNo (laneOf g.w (s.vreg t g.a) (32 * blk g + j))) (scaleVal (kind g) ((s.reg t g.s).extractLsb' 0 8)))
      (scaleV (valOf g.tyNo (laneOf g.w (s.vreg t g.b) (32 * blk g + j))) (scaleVal (kind g) ((s.reg t g.s).extractLsb' 8 8)))
  let quantised (ys : State → StreamId → FmtV → List Val) (s : State) (t : StreamId) (g : FmtV) (s' : State) : Prop :=
    ∃ r, s' = (s.setVreg t g.d r).setReg t g.s ((qblock g.tyNo (kind g) (s.vrm t g) (ys s t g)).2.setWidth 64) ∧
      block g.w (blk g) (s.vreg t g.d) r (qblock g.tyNo (kind g) (s.vrm t g) (ys s t g)).1
  CompletesV .vcvt (entVec 0xA5 vDa true) any (fun s t g s' => ∃ r, s' = s.vecResult t g r ∧
    let n := 512 / max (tyW (src g)) g.w
    LanesAre g.w r fun d =>
      if on s t g g.w d = false then old s t g d
      else if g.w ≤ tyW (src g) then
        (if part g * n ≤ d ∧ d < part g * n + n then chain (src g) g.tyNo (s.vrm t g) (laneOf (tyW (src g)) (s.vecA t g) (d - part g * n))
        else old s t g d)
      else chain (src g) g.tyNo (s.vrm t g) (laneOf (tyW (src g)) (s.vecA t g) (part g * n + d))) ∧
  CompletesV .vdqnt (entVec 0xA7 vDas true) any (fun s t g s' => ∃ r, s' = s.vecResult t g r ∧ LanesAre g.w r fun j =>
    if on s t g g.w j = false then old s t g j
    else cvt g.tyNo (s.vrm t g) (scaleV (valOf (src g) (laneOf (tyW (src g)) (s.vecA t g) (32 * blk g + 16 * half g + j)))
      (scaleVal (kind g) ((s.reg t g.s).extractLsb' 0 8)))) ∧
  CompletesV .vqnt (entVec 0xA6 vDabs true) (fun _ _ g => 9 ≤ src g ∧ src g ≤ 11) (quantised wide) ∧
  CompletesV .baddq (entVec 0xA8 vDabs true) any (quantised sums) ∧
  (∀ c k rm ys, (c = 1 ∨ c = 0 ∨ 13 ≤ c ∧ c ≤ 15) → k = 1 ∨ k = 2 → rm ≤ 4 → ∀ q ∈ (qblock c k rm ys).1,
    (valOf c q).isNan = false ∧ (valOf c q).isInf = false) ∧
  CompletesV .vcbd (entVec 0xA9 vDas false)
    (fun s t g => ∃ off, s.ownLocal t (s.reg t g.s) = .ok off ∧ (s.reg t g.s).toNat % 8 = 0 ∧ off + 2048 ≤ localSize ∧ s.drained t = true ∧
      s.badIn (localKey t.core off) 2048 = none)
    (fun s t g s' => ∃ off r, s.ownLocal t (s.reg t g.s) = .ok off ∧ s' = s.setVreg t g.d r ∧ LanesAre 8 r fun j =>
      if on s t g 8 j = false then laneOf 8 (s.vecOld t g) j
      else
        let code : BitVec 16 := BitVec.ofNat 16 (laneOf 16 (s.vreg t g.a) (8 * (g.imm.toNat % 4) + j / 8))
        ((cb2 code (s.localWord t.core (off + 8 * (code.toNat / 256)))).getD (j % 8) 0 % 256).toNat)
/-! ### Vector memory and the frame of the vector instructions (R164 to R166, R173, R174) -/

/-- R164 to R166: a load whose lanes lie in the own local memory fills the lanes that move, others keep their value; the bytes of a store
are those of the highest lane that covers them, and every other byte reads as before. R165, R174: loads and stores, gathers and scatters
alike, refused at issue trap at the lowest lane that fails (that lanes are checked in rising order is log 57); refused late they write
nothing, mark the ring entry faulted and leave a late fault with the lowest failing lane's address, which the stream takes as trap 0x0C
at its next boundary, once the slot's other stream has reached one (R42, R368). R204: a vector store that a home does not acknowledge in time
leaves the store buffer, faulted with the lowest lane that it lost (what else of it had not performed leaves with it, log 90). -/
def Obligations.VectorMemoryMovesLanesOrFaults : Prop :=
  (let n (g : FmtV) : Nat := memW g / 8
  let local_ (s : State) (t : StreamId) (g : FmtV) (addr : Nat → Word) (off : Nat → Nat) : Prop :=
    ∀ j < 64 / n g, s.laneMoves t g j = true → s.OwnBytes t (s.reg t g.s) (addr j) (n g) (off j)
  let load (mk : FmtV → Instr) (e : Entry) (addr : State → StreamId → FmtV → Nat → Word) : Prop :=
    ∀ (f g : FmtV) (s : State) (t : StreamId) (off : Nat → Nat), s.IssuesV t e f g → s.drained t = true →
      s.relocking (dieOf t.core) = false → local_ s t g (addr s t g) off →
      (∀ j < 64 / n g, s.laneMoves t g j = true → s.badIn (localKey t.core (off j)) (n g) = none) →
      ∃ r, LanesAre (memW g) r (fun j => if s.laneMoves t g j then s.mem.readNat (localKey t.core (off j)) (n g)
          else laneOf (memW g) (s.vecOld t g) j) ∧
        exec (mk f) s = .next ((if g.qd then s.push t g.d.toNat r else s.setVreg t g.d r).issuedV t e.op g)
  let store (mk : FmtV → Instr) (e : Entry) (addr : State → StreamId → FmtV → Nat → Word) : Prop :=
    ∀ (f g : FmtV) (s : State) (t : StreamId) (off : Nat → Nat), s.Inv → s.IssuesV t e f g → s.drained t = true →
      s.relocking (dieOf t.core) = false → (s.core t.core).sbuf.length ≤ 16 → local_ s t g (addr s t g) off →
      (∀ j < 64 / n g, s.laneMoves t g j = true → s.MayWrite t (off j) (n g)) →
      ∃ s' : State, exec (mk f) s = .next (s'.issuedV t e.op g) ∧ { s' with mem := s.mem, bad := s.bad } = s.vecPop t g ∧
        ∀ a, s'.mem.read a =
          match ((List.range (64 / n g)).reverse.find? fun j =>
              s.laneMoves t g j && decide (localKey t.core (off j) ≤ a) && decide (a < localKey t.core (off j) + n g)) with
          | some j => BitVec.ofNat 8 (laneOf (memW g) (s.vecA t g) j / 256 ^ (a - localKey t.core (off j)))
          | none => s.mem.read a
  load .vld (entVec 0x80 vDs false) unitAddr ∧ load .vlds (entVec 0x82 vDs false) strideAddr ∧
  load .vgld (entVec 0x84 vDbs false) indexAddr ∧ store .vst (entVec 0x81 vAs false) unitAddr ∧
  store .vsts (entVec 0x83 vAs false) strideAddr ∧ store .vsct (entVec 0x85 vAbs false) indexAddr) ∧
  (let late (s : State) (t : StreamId) (i : Instr) (l : VLate) : Prop :=
    ∃ s' : State, exec i s = .next s' ∧ SameMemory s s' ∧ (t.slot < 5 → (s'.slot t).v = (s.slot t).v ∧ (s'.slot t).q = (s.slot t).q ∧
      (s'.slot t).s = (s.slot t).s ∧
      (∃ d, (s'.core t.core).ring.getLast? = some d ∧ d.seq = (s.core t.core).dseq ∧ d.st = .faulted ∧ d.status = l.status) ∧
      (s'.strm t).late = (s.strm t).late ++ [⟨0x0C, l.addr, l.status ++ (s.core t.core).dseq, .vector, s.time, none⟩])
  ∀ (s : State) (t : StreamId),
    (∀ mk op u g, (mk, op, u, g) ∈ [(Instr.vld, 0x80#8, vDs, addrUnit), (Instr.vlds, 0x82, vDs, addrStride), (Instr.vgld, 0x84, vDbs, addrIndex)] →
      ∀ (f x : FmtV), s.IssuesV t (entVec op u false) f x →
        (∀ c a, s.elemChecks t (s.reg t x.s) (memW x / 8) false (s.elems t x g) = trapAt c a →
          exec (mk f) s = .next (s.precise t c (some a))) ∧
        ∀ l s1, s.elemChecks t (s.reg t x.s) (memW x / 8) false (s.elems t x g) = .ok () → s.drained t = true →
          s.elemsBehind t (s.elems t x g) = false → s.elemsShut t.core (s.elems t x g) = false →
          (s.touchElems t.core (s.elems t x g)).elemsRead t.core (memW x / 8) (s.elems t x g) = (.error l, s1) → late s t (mk f) l) ∧
    (∀ mk op u g, (mk, op, u, g) ∈ [(Instr.vst, 0x81#8, vAs, addrUnit), (Instr.vsts, 0x83, vAs, addrStride), (Instr.vsct, 0x85, vAbs, addrIndex)] →
      ∀ (f x : FmtV), s.IssuesV t (entVec op u false) f x →
        (∀ c a, s.elemChecks t (s.reg t x.s) (memW x / 8) true (s.elems t x g) = trapAt c a →
          exec (mk f) s = .next (s.precise t c (some a))) ∧
        ∀ l s1, s.elemChecks t (s.reg t x.s) (memW x / 8) true (s.elems t x g) = .ok () → s.drained t = true →
          s.elemsShut t.core (s.elems t x g) = false →
          ((s.core t.core).sbuf = [] ∨ (s.core t.core).sbuf.length + (s.elemLines t.core (s.elems t x g)).length ≤ 16) →
          (s.touchElems t.core (s.elems t x g)).elemsProbe t.core (memW x / 8) (s.elems t x g) (s.elems t x g) = (some l, s1) →
          late s t (mk f) l) ∧
    (∀ l, s.slotMoves t = true → (s.slot t).firstLate = none → (s.strm t).unfinished = false → s.otherBusy t = false →
      let taken := (s.modStrm t fun st => { st with late := st.late.erase l }).enterTrap t l.cause l.addr l.seq l.granule
      ((s.strm t).late.find? (fun x => x.kind == .vector) = some l → exec (.vectorLateFault t) s = .next taken) ∧
      ((s.strm t).late.find? (fun x => x.kind == .due) = some l → exec (.lateFaultTrap t) s = .next taken)) ∧
    ((s.slot t).firstLate = none → s.otherBusy t = true → exec (.vectorLateFault t) s = .next s ∧ exec (.lateFaultTrap t) s = .next s) ∧
    ∀ (x : SBEntry) (v : BitVec 16 × Word), (s.strm t).pend = none → s.oldestLdr t true = none → x.slot < 5 → x.vec = some v →
      ((s.core t.core).sbuf.find? fun e => e.module != 0x1FFF && e.sent.any fun at_ => decide (s.limit.toNat ≤ (s.time - at_).toNat)) = some x →
      s.firingRuns t.core x.slot x.fseq = true → ∃ s' : State, exec (.remoteAccessTimeout t) s = .next s' ∧ SameMemory s s' ∧
        (s'.core t.core).sbuf = (s.core t.core).sbuf.filter (fun e => !(e.slot == x.slot && e.writtenBy v.1)) ∧
        (∀ d ∈ (s'.core t.core).ring, d.seq = v.1 → d.st = .faulted) ∧
        (s'.strm ⟨t.core, x.slot, x.acc⟩).late = (s.strm ⟨t.core, x.slot, x.acc⟩).late ++ [⟨0x0C, v.2, 0x03#8 ++ v.1, .vector, s.time, none⟩])

/-- What a vector instruction without memory leaves alone: everything outside its slot but the dispatch ring and counters, memory, every
vector register but v[VD], the scalar registers but s[S] of those that write it, and the predicate stack but for VCMP, VPNOT and VPOP. -/
def Obligations.VectorFrame : Prop :=
  ∀ mk e, (mk, e) ∈ laneForms → ∀ (f g : FmtV) (s s' : State) (t : StreamId), t.slot < 5 → s.IssuesV t e f g → exec (mk f) s = .next s' →
    (changesStack e.op = false ∨ (e.op = 0x97 ∧ (s.slot t).preds.length < 8) ∨ (e.op ≠ 0x97 ∧ (s.slot t).preds ≠ [])) →
    OnlyVector t s s' ∧ SameMemory s s' ∧
    { s'.slot t with
      s := (s.slot t).s
      v := (s.slot t).v
      q := (s.slot t).q
      preds := (s.slot t).preds
      x := (s.slot t).x
      a := (s.slot t).a } = s.slot t ∧
    (s'.slot t).strm (!t.acc) = (s.slot t).strm (!t.acc) ∧ (∀ r, r ≠ g.d → s'.vreg t r = s.vreg t r) ∧
    (∀ r, (r ≠ g.s ∨ writesScalar e.op = false) → s'.reg t r = s.reg t r) ∧
    (changesStack e.op = false → (s'.slot t).preds = (s.slot t).preds) ∧
    ∀ k, k ≠ g.d.toNat → k ≠ g.a.toNat → (s'.slot t).queue k = (s.slot t).queue k

/-! ### Scalar memory (R178 to R195, R206 to R209, R224 to R226) -/

/-- R181 to R188: LD, LDQ, ST and STQ in the own local memory. A store changes its own bytes and no other; a release store waits for the
slot's older accesses. R103, R187: the order of the issue checks of a scalar access: tag, then alignment, then the own core's bounds. -/
def Obligations.LocalLoadsAndStoresOrTrap : Prop :=
  (let n (g : FmtA) : Nat := accessBytes g
  let at_ (s : State) (t : StreamId) (g : FmtA) (k off : Nat) : Prop := s.OwnBytes t (s.reg t g.a) (s.memEa t g) k off
  let store (mk : FmtA → Instr) (e : Entry) (rel : Bool) (width : FmtA → Nat) (x : State → StreamId → FmtA → Nat)
      (after : State → StreamId → FmtA → State) : Prop :=
    ∀ (f g : FmtA) (s : State) (t : StreamId) (off : Nat), s.Inv → s.IssuesA t e anyFields f g → at_ s t g (width g) off →
      s.MayWrite t off (width g) → (rel = true → s.drained t = true) →
      ∃ s', Wrote (localKey t.core off) (width g) (x s t g) s s' ∧ exec (mk f) s = .next ((after s' t g).retire t)
  (∀ (f g : FmtA) (s : State) (t : StreamId) (off : Nat), s.IssuesA t (entMem 0x58 usedDab none) anyFields f g → at_ s t g (n g) off →
    s.badIn (localKey t.core off) (n g) = none →
    exec (.ld f) s = .next ((s.setReg t g.d (loaded g (s.mem.readNat (localKey t.core off) (n g)))).retire t)) ∧
  (∀ (f g : FmtA) (s : State) (t : StreamId) (off : Nat), s.IssuesA t (entMem 0x5A usedDab (some true)) anyFields f g → at_ s t g 64 off →
    s.badIn (localKey t.core off) 64 = none →
    exec (.ldq f) s = .next ((s.push t g.d.toNat (BitVec.ofNat 512 (s.mem.readNat (localKey t.core off) 64))).retire t)) ∧
  store .st (entMem 0x59 usedAbc none) false n (fun s t g => (s.reg t g.c).toNat) (fun s _ _ => s) ∧
  store .stRel (entMem 0x59 usedAbc none) true n (fun s t g => (s.reg t g.c).toNat) (fun s _ _ => s) ∧
  store .stq (entMem 0x5B usedAbc (some true)) false (fun _ => 64) (fun s t g => (s.queueHead t g.c.toNat).toNat)
    (fun s t g => s.pop t g.c.toNat) ∧
  store .stqRel (entMem 0x5B usedAbc (some true)) true (fun _ => 64) (fun s t g => (s.queueHead t g.c.toNat).toNat)
    (fun s t g => s.pop t g.c.toNat)) ∧
  (∀ (f g : FmtA) (s : State) (t : StreamId) (off : Nat), s.IssuesA t (entMem 0x58 usedDab none) anyFields f g →
    let ea := s.memEa t g
    (addrTag ea ≠ addrTag (s.reg t g.a) ∨ s.space t.core ea = none → exec (.ld f) s = .next (s.precise t 0x04 (some ea))) ∧
    (addrTag ea = addrTag (s.reg t g.a) → s.space t.core ea = some (.lm t.core off) → ea.toNat % accessBytes g ≠ 0 →
      exec (.ld f) s = .next (s.precise t 0x07 (some ea))) ∧
    (addrTag ea = addrTag (s.reg t g.a) → s.space t.core ea = some (.lm t.core off) → ea.toNat % accessBytes g = 0 →
      localSize < off + accessBytes g → exec (.ld f) s = .next (s.precise t 0x08 (some ea))) ∧
    (addrTag ea = addrTag (s.reg t g.a) → s.space t.core ea = some (.lm t.core off) → ea.toNat % accessBytes g = 0 →
      off + accessBytes g ≤ localSize → (s.badIn (localKey t.core off) (accessBytes g)).isSome = true →
      exec (.ld f) s = .next (s.precise t 0x11 (some ea))))

/-- R206, R208, R209, R224 to R226: a load of device memory reads the region's bytes with the core's own buffered stores in front, or
traps as the region's state refuses it; a store that its core may make enters the buffer, its core's loads read it at once and memory
keeps its bytes until the home has written it. R189 to R191: each atomic of the own local memory writes its new value to its own bytes
and the old one, extended, to s[D]; AMDEC counts a pending task record down; LDR sends the words that it reads. -/
def Obligations.DeviceAccessesAndAtomics : Prop :=
  (let n (g : FmtA) : Nat := accessBytes g
  let refuses (s : State) (t : StreamId) (pl : Place) (store : Bool) : Option Byte :=
    (s.region pl.rkey).refuses ((s.core t.core).holds (s.region pl.rkey)) store false
  (∀ (f g : FmtA) (s : State) (t : StreamId) (pl : Place), s.IssuesA t (entMem 0x58 usedDab none) anyFields f g →
    s.OwnPlace t (.ld g) (s.reg t g.a) (s.memEa t g) (n g) pl →
    s.reachable t.core (s.memEa t g) = true →
    (∀ cause, refuses s t pl false = some cause → exec (.ld f) s = .next (s.precise t cause (some (s.memEa t g)))) ∧
    (refuses s t pl false = none → s.badIn pl.key (n g) = none →
      exec (.ld f) s = .next ((s.setReg t g.d (loaded g (s.devRead t.core pl.key (n g)))).retire t))) ∧
  (∀ (f g : FmtA) (s : State) (t : StreamId) (pl : Place), s.IssuesA t (entMem 0x59 usedAbc none) anyFields f g →
    s.OwnPlace t (.st g) (s.reg t g.a) (s.memEa t g) (n g) pl → pl.key % n g = 0 → s.pureOf t = none →
    pl.rkey ∈ (s.core t.core).grants → (s.core t.core).sbuf.length < 16 → (∀ l ∈ (s.core t.core).ldrs, l.slot ≠ t.slot) →
    ∃ s' : State, exec (.st f) s = .next (s'.retire t) ∧ SameMemory s s' ∧
      s'.devRead t.core pl.key (n g) = (s.reg t g.c).toNat % 256 ^ n g ∧
      ∀ k, k < pl.key ∨ pl.key + n g ≤ k → s'.devRead t.core k 1 = s.devRead t.core k 1) ∧
  (∀ (core : Nat) (s : State),
    exec (.storePerform core none) s = .next (s.setCore core { s.core core with sbuf := sendNext s.time [] (s.core core).sbuf }) ∧
    ∀ (k : Nat) (x : SBEntry), (s.core core).sbuf[k]? = some x → x.sent.isSome = true → x.module = 0x1FFF →
      (∀ y ∈ (s.core core).sbuf.take k, y.module ≠ 0x1FFF ∨ y.home ≠ x.home) →
      exec (.storePerform core (some k)) s =
        .next (((s.performEntry core x).modCore core fun c => { c with sbuf := c.sbuf.eraseIdx k }).entryGone core x)) ∧
  ∀ (s : State) (t : StreamId) (i : Instr) (dl : Option Word) (r : Option RemoteReply) (ea : Word) (pl : Place),
    (s.strm t).pend = some ⟨.probe, i, dl, r, some ea⟩ → (s.space t.core ea).bind (s.placeOf t.core) = some pl →
    (∀ cause, (s.region pl.rkey).refuses ((s.core t.core).mayHold (s.region pl.rkey)) true false = some cause →
      ∃ s1, SameMemory s s1 ∧ exec (.grantProbeAnswer t) s = .next (s1.precise t cause (some ea))) ∧
    ((s.region pl.rkey).refuses ((s.core t.core).mayHold (s.region pl.rkey)) true false = none →
      exec (.grantProbeAnswer t) s =
        .next ((s.setCore t.core ((s.core t.core).grant pl.rkey)).modStrm t fun st => { st with pend := none }))) ∧
  (let n (g : FmtA) : Nat := accessBytes g
  let ea (s : State) (t : StreamId) (g : FmtA) : Word := s.reg t g.a + BitVec.ofInt 64 g.imm.toInt
  let less (g : FmtA) (x y : Nat) : Bool :=
    if g.fn.toNat % 16 ≤ 4 then decide ((BitVec.ofNat (8 * n g) x).toInt < (BitVec.ofNat (8 * n g) y).toInt) else decide (x < y)
  let atomic (mk : FmtA → Instr) (e : Entry) (new : FmtA → Nat → Nat → Nat → Nat) : Prop :=
    ∀ (f g : FmtA) (s : State) (t : StreamId) (off : Nat), s.Inv → s.IssuesA t e anyFields f g →
      s.OwnBytes t (s.reg t g.a) (ea s t g) (n g) off → s.MayWrite t off (n g) → s.badIn (localKey t.core off) (n g) = none →
      let old := s.mem.readNat (localKey t.core off) (n g)
      ∃ s', Wrote (localKey t.core off) (n g) (new g old ((s.reg t g.b).toNat % 256 ^ n g) ((s.reg t g.c).toNat % 256 ^ n g)) s s' ∧
        exec (mk f) s = .next ((s'.setReg t g.d (loaded g old)).retire t)
  atomic .amadd (entMem 0x5D usedDab none) (fun _ old b _ => old + b) ∧
  atomic .ammin (entMem 0x5E usedDab none) (fun g old b _ => if less g b old then b else old) ∧
  atomic .ammax (entMem 0x5F usedDab none) (fun g old b _ => if less g old b then b else old) ∧
  atomic .amswp (entMem 0x60 usedDab none) (fun _ _ b _ => b) ∧
  atomic .amcas (entMem 0x61 usedDabc none) (fun _ old b c => if old = b then c else old) ∧
  (∀ (f g : FmtA) (s : State) (t : StreamId) (off : Nat), s.Inv → s.IssuesA t (entMem 0x62 usedDa none) anyFields f g →
    s.OwnBytes t (s.reg t g.a) (ea s t g) 8 off → s.MayWrite t off 8 → s.badIn (localKey t.core off) 8 = none →
    let w := s.localWord t.core off
    let c := w.toNat % 2 ^ 32
    ∃ s' : State, exec (.amdec f) s = .next ((s'.setReg t g.d (BitVec.ofNat 64 c)).retire t) ∧ (c = 0 → s' = s) ∧
      (2 ≤ c → Wrote (localKey t.core off) 8 (w.toNat - 1) s s') ∧
      (c = 1 → ∃ s1, Wrote (localKey t.core off) 8 (w.toNat - 1) s s1 ∧
        s' = if taskOk (s1.localWord t.core (off + 8)) then s1.push0 t.core t.core (s.core t.core).lcore (s1.recPacket t.core off)
          else s1.channelFault t.core 0x08 (localAddr t.core off))) ∧
  ∀ (f g : FmtA) (s : State) (t : StreamId) (off : Nat),
    s.IssuesA t (entMem 0x5C usedDabc none) (fun f => f.d != 0 && f.d.ule 30) f g → addrTag (s.memEa t g) = addrTag (s.reg t g.a) →
    s.space t.core (s.memEa t g) = some (.lm t.core off) → (s.memEa t g).toNat % 8 = 0 → off + 8 * g.d.toNat ≤ localSize →
    s.checkTarget t (s.reg t g.c) = .ok () → (∀ k < g.d.toNat, s.badIn (localKey t.core (off + 8 * k)) 8 = none) →
    exec (.ldr f) s = .next ((s.sendTo t.core none (s.reg t g.c) 2 false
      ((tgtCookie (s.reg t g.c) ++ 0#16 ++ BitVec.ofNat 8 g.d.toNat ++ 0#8) :: s.localWords t.core off g.d.toNat)).retire t))

/-- R192 to R195: CBCFG checks and configures a buffer or a window, and refuses a word that is malformed (0x08) or
names bytes past local memory (0x07) without effect; a take of units that are there moves its position and answers the
address of the first; `.nb` answers 0 otherwise; a give adds its units; counts outside the buffer trap 0x08, a disabled buffer 0x04. -/
def Obligations.CircularBuffers : Prop :=
  let buf (s : State) (t : StreamId) (g : FmtA) : CBuf := (s.core t.core).buffer (g.imm.toNat % 16)
  let size (b : CBuf) : Nat := if b.lsize = 0 then 0 else 2 ^ (b.lsize.toNat - 1)
  let count (s : State) (t : StreamId) (g : FmtA) : Nat := if g.b ≠ 0 then (s.reg t g.b).toNat else g.imm.toNat / 16 % 2 ^ 12
  let put (s : State) (t : StreamId) (g : FmtA) (b : CBuf) : State :=
    s.setCore t.core ((s.core t.core).setBuffer (g.imm.toNat % 16) b)
  let waits (s : State) (t : StreamId) (g : FmtA) (fill : Bool) : List TakeWait :=
    (s.core t.core).takes.filter fun w => w.buf == g.imm.toNat % 16 && w.fill == fill
  let take (mk : FmtA → Instr) (fill : Bool) : Prop :=
    ∀ (f g : FmtA) (s : State) (t : StreamId), s.IssuesA t (entMem 0x64 usedDb none) bufCount f g →
      let b := buf s t g
      let k := count s t g
      let pos := if fill then b.cpos.toNat else b.ppos.toNat
      (b.lsize = 0 → exec (mk f) s = .next (s.precise t 0x04 none)) ∧
      (b.lsize ≠ 0 → k = 0 ∨ size b < k → exec (mk f) s = .next (s.precise t 0x08 none)) ∧
      (b.lsize ≠ 0 → 0 < k → k ≤ size b → waits s t g fill = [] → (∀ w ∈ (s.core t.core).takes, w.slot ≠ t.slot ∨ w.acc ≠ t.acc) →
        k ≤ (if fill then b.fill else b.free).toNat →
        exec (mk f) s = .next (((put s t g (if fill
            then { b with fill := BitVec.ofNat 12 (b.fill.toNat - k), cpos := BitVec.ofNat 11 ((pos + k) % size b) }
            else { b with free := BitVec.ofNat 12 (b.free.toNat - k), ppos := BitVec.ofNat 11 ((pos + k) % size b) })).setReg t g.d
          (localAddr t.core ((b.base.toNat + pos) * 64))).retire t)) ∧
      (b.lsize ≠ 0 → 0 < k → k ≤ size b → (if fill then b.fill else b.free).toNat < k → g.md.getLsbD 3 = true →
        exec (mk f) s = .next ((s.setReg t g.d 0).retire t))
  let give (mk : FmtA → Instr) (fill : Bool) : Prop :=
    ∀ (f g : FmtA) (s : State) (t : StreamId), s.IssuesA t (entMem 0x65 usedB none) bufCount f g →
      let b := buf s t g
      let k := count s t g
      (b.lsize = 0 → exec (mk f) s = .next (s.precise t 0x04 none)) ∧
      (b.lsize ≠ 0 → k = 0 ∨ size b < b.fill.toNat + b.free.toNat + k → exec (mk f) s = .next (s.precise t 0x08 none)) ∧
      (b.lsize ≠ 0 → 0 < k → b.fill.toNat + b.free.toNat + k ≤ size b → (∀ l ∈ (s.core t.core).ldrs, l.slot ≠ t.slot) → exec (mk f) s =
        .next ((put s t g (if fill then { b with fill := b.fill + BitVec.ofNat 12 k }
          else { b with free := b.free + BitVec.ofNat 12 k })).retire t))
  take .cbtakeFree false ∧ take .cbtakeFill true ∧ give .cbgiveFill true ∧ give .cbgiveFree false ∧
  (∀ (f g : FmtA) (s : State) (t : StreamId), s.IssuesA t (entMem 0x63 usedDa none) anyFields f g →
    let w := s.reg t g.a
    let ls := w.toNat / 2 ^ 14 % 16
    let units := if ls = 0 then 0 else 2 ^ (ls - 1)
    let b := buf s t g
    let answer (st : Nat) : State := (s.setReg t g.d (BitVec.ofNat 64 st)).retire t
    (2 ^ 18 ≤ w.toNat ∨ 12 < ls → exec (.cbcfg f) s = .next (answer 0x08)) ∧
    (w.toNat < 2 ^ 18 → 1 ≤ ls → ls ≤ 12 → 12288 < w.toNat % 2 ^ 14 + units → exec (.cbcfg f) s = .next (answer 0x07)) ∧
    (w.toNat < 2 ^ 18 → ls ≤ 12 → (ls ≠ 0 → w.toNat % 2 ^ 14 + units ≤ 12288) → b.lsize ≠ 0 → b.fill ≠ 0 ∨ b.free.toNat ≠ size b →
      exec (.cbcfg f) s = .next (answer 0x04)) ∧
    (w.toNat < 2 ^ 18 → ls = 0 → b.lsize = 0 ∨ (b.fill = 0 ∧ b.free.toNat = size b) → exec (.cbcfg f) s = .next
      (let s' := ((put s t g ⟨0, 0, 0, 0, 0, w.extractLsb' 0 14⟩).setReg t g.d 0).retire t
       if b.lsize = 0 then s' else s'.failTakes t.core (g.imm.toNat % 16))) ∧
    (w.toNat < 2 ^ 18 → 1 ≤ ls → ls ≤ 12 → w.toNat % 2 ^ 14 + units ≤ 12288 → b.lsize = 0 ∨ (b.fill = 0 ∧ b.free.toNat = size b) →
      exec (.cbcfg f) s = .next
        (((put s t g ⟨0, BitVec.ofNat 12 units, 0, 0, w.extractLsb' 14 4, w.extractLsb' 0 14⟩).setReg t g.d 0).retire t))) ∧
  (∀ (f g : FmtA) (s : State) (t : StreamId), s.IssuesA t (entMem 0x63 usedDa none) anyFields f g →
    let w := s.reg t g.a
    let len := w.toNat / 2 ^ 14 % 2 ^ 14
    let ok := w.toNat < 2 ^ 32 ∧ w.toNat / 2 ^ 28 % 8 = 0 ∧
      (w.toNat / 2 ^ 31 % 2 = 1 → len ≠ 0 ∧ w.toNat % 2 ^ 14 + len ≤ 12288)
    let answer (st : Nat) : State := (s.setReg t g.d (BitVec.ofNat 64 st)).retire t
    let en := w.toNat / 2 ^ 31 % 2 = 1
    (2 ^ 32 ≤ w.toNat ∨ w.toNat / 2 ^ 28 % 8 ≠ 0 ∨ (en ∧ len = 0) → exec (.cbcfgWin f) s = .next (answer 0x08)) ∧
    (w.toNat < 2 ^ 32 → w.toNat / 2 ^ 28 % 8 = 0 → en → len ≠ 0 → 12288 < w.toNat % 2 ^ 14 + len → exec (.cbcfgWin f) s = .next (answer 0x07)) ∧
    (ok → exec (.cbcfgWin f) s = .next (((s.modCore t.core fun c => { c with win := vset c.win (g.imm.toNat % 4) w }).setReg t g.d 0).retire t))) ∧
  (∀ (f g : FmtA) (s : State) (t : StreamId), s.IssuesA t (entMem 0x63 usedD none) anyFields f g →
    exec (.cbcfgRdwin f) s = .next ((s.setReg t g.d (vget 0 (s.core t.core).win (g.imm.toNat % 4))).retire t)) ∧
  ∀ (s : State) (core slot : Nat) (acc fill : Bool) (g : FmtA) (rest : List TakeWait) (r : Option RemoteReply) (d line : Option Word),
    let t : StreamId := ⟨core, slot, acc⟩
    let b := buf s t g
    let k := count s t g
    (s.core core).takes = ⟨slot, acc, g.imm.toNat % 16, fill, k⟩ :: rest → (∀ w ∈ rest, w.slot ≠ slot ∨ w.acc ≠ acc) →
    (s.strm t).pend = some ⟨.cbtake, if fill then .cbtakeFill g else .cbtakeFree g, d, r, line⟩ →
    b.lsize ≠ 0 → 0 < k → k ≤ size b → k ≤ (if fill then b.fill else b.free).toNat →
    ∃ s' : State, exec (.cbtakeWaitServed core (g.imm.toNat % 16) fill) s = .next ((s'.setReg t g.d
        (localAddr core ((b.base.toNat + if fill then b.cpos.toNat else b.ppos.toNat) * 64))).retire t) ∧
      (s'.core core).takes = rest ∧ ((s'.core core).buffer (g.imm.toNat % 16)).fill = (if fill then b.fill - BitVec.ofNat 12 k else b.fill)
/-! ### Capabilities (R205 to R217) -/

/-- R211, R212: HAND answers 0x04 off a Private region of its core, only sends its message to the holder itself, and otherwise removes the
grant and refuses every access until the home, once the holder's writes have drained, makes the region the new holder's and sends the
handover message. HAND.init makes an Unclaimed region Private with VERSION 0. -/
def Obligations.HandoverMovesTheCapability : Prop :=
  ∀ (s s1 : State) (t : StreamId) (f g : FmtA) (pl : Place), s.Finds t (s.reg t g.a) pl s1 → s.pureOf t = none →
    let c := s.core t.core
    let r := s.region pl.rkey
    let w := s.reg t g.b
    let owned : Prop := r.st = .priv ∧ c.holds r = true
    let holder : BitVec 13 := if s.isOwn (tgtModule w) then 0x1FFF else tgtModule w
    (s.IssuesA t (entMem 0x68 usedDabc none) anyFields f g → s.checkTarget t w = .ok () →
      (¬owned → exec (.hand f) s = .next ((s1.setReg t g.d 0x04).retire t)) ∧
      (owned → s.isOwn (tgtModule w) = true → tgtCore w = c.lcore →
        exec (.hand f) s = .next (((s1.handover t g pl).setReg t g.d 0).retire t)) ∧
      (owned → s.isOwn (tgtModule w) = false ∨ tgtCore w ≠ c.lcore →
        exec (.hand f) s =
          .next (((s1.ungrant t.core pl.rkey).setRegion pl.rkey { r with st := .handing }).await t .hand (.hand g) none))) ∧
    ((∃ dl a l, (s.strm t).pend = some ⟨.hand, .hand g, dl, a, l⟩) →
      (s.regionDrained t.core pl.rkey = false → exec (.handFlip t) s = .next s1) ∧
      (s.regionDrained t.core pl.rkey = true → ∃ s' : State, exec (.handFlip t) s = .next (((s'.handover t g pl).setReg t g.d 0).retire t) ∧
        { s'.region pl.rkey with dirty := r.dirty } = { r with st := .priv, hmod := holder, hcore := tgtCore w } ∧
        ∀ k, k ≠ pl.rkey → s'.region k = s.region k)) ∧
    (s.IssuesA t (entMem 0x68 usedDab none) anyFields f g → (s.strm t).pl ≠ 0 → s.checkTarget t w = .ok () →
      (r.st ≠ .unclaimed → exec (.handInit f) s = .next ((s1.setReg t g.d 0x04).retire t)) ∧
      (r.st = .unclaimed → ∃ s' : State, exec (.handInit f) s = .next ((s'.setReg t g.d 0).retire t) ∧ SameMemory s s' ∧
        (s'.region pl.rkey).st = .priv ∧ (s'.region pl.rkey).version = 0 ∧ (s'.region pl.rkey).hmod = holder ∧
        (s'.region pl.rkey).hcore = tgtCore w ∧ (s'.region pl.rkey).tag = c.tag ∧ (∀ k, k ≠ pl.rkey → s'.region k = s.region k) ∧
        s'.mesh = s.mesh ∧ s'.weltOut = s.weltOut)) ∧
    (s.IssuesA t (entMem 0x68 usedDab none) anyFields f g → (s.strm t).pl = 0 → exec (.handInit f) s = .next (s.precise t 0x0D none))

/-- R207, R213, R214: PUBL, RECL, RECL.nb and RECL.drop move a region between Private and Published; what the instruction may not do
answers 0x04 or 0x08 and changes nothing. -/
def Obligations.PublishAndReclaim : Prop :=
  ∀ (s s1 : State) (t : StreamId) (f g : FmtA) (pl : Place), s.Finds t (s.reg t g.a) pl s1 →
    let c := s.core t.core
    let r := s.region pl.rkey
    let n := s.reg t g.b
    let answer (st : Nat) : Host.Outcome State Fault Refusal := .next ((s1.setReg t g.d (BitVec.ofNat 64 st)).retire t)
    let becomes (i : Instr) (x : Region) : Prop := ∃ s' : State,
      exec i s = .next ((s'.setReg t g.d 0).retire t) ∧ s'.region pl.rkey = x ∧ (∀ k, k ≠ pl.rkey → s'.region k = s.region k) ∧
        SameMemory s s'
    let private_ : Prop := r.st = .priv ∧ c.holds r = true
    let published : Prop := r.st = .published ∧ c.holds r = true
    let publish (i : Instr) (lace : Option Word) : Prop := s.pureOf t = none →
      (¬private_ → exec i s = answer 0x04) ∧ (private_ → 2 ^ 16 ≤ n.toNat → exec i s = answer 0x08) ∧
      (private_ → n.toNat < 2 ^ 16 → (∀ w, lace = some w → gridOk w pl.size = true) → s.regionDrained t.core pl.rkey = true →
        becomes i { r with
          st := .published, readers := BitVec.ofNat 16 n.toNat, version := r.version + 1, lace := lace.or r.lace
          laceRead := if lace.isSome then [] else r.laceRead, laceLaunch := if lace.isSome then none else r.laceLaunch })
    let reclaimed : Region := { r with st := .priv, version := r.version + 1, lace := none, laceRead := [], laceLaunch := none }
    (s.IssuesA t (entMem 0x69 usedDab none) anyFields f g → publish (.publ f) none) ∧
    (s.IssuesA t (entMem 0x69 usedDabc none) anyFields f g → publish (.publLace f) (some (s.reg t g.c)) ∧
      (s.pureOf t = none → private_ → gridOk (s.reg t g.c) pl.size = false → exec (.publLace f) s = answer 0x08)) ∧
    (s.IssuesA t (entMem 0x6A usedDa none) anyFields f g →
      (¬published → exec (.recl f) s = answer 0x04 ∧ exec (.reclNb f) s = answer 0x04) ∧
      (published → r.readers ≠ 0 → exec (.recl f) s = .next (s1.await t .recl (.recl g) none) ∧ exec (.reclNb f) s = answer 0x04) ∧
      (published → r.readers = 0 → becomes (.recl f) reclaimed ∧ becomes (.reclNb f) reclaimed) ∧
      (r.st ≠ .published ∨ r.readers = 0 → exec (.reclDrop f) s = answer 0x04) ∧
      (r.st = .published → r.readers ≠ 0 → becomes (.reclDrop f) { r with readers := r.readers - 1 })) ∧
    ((∃ dl a l, (s.strm t).pend = some ⟨.recl, .recl g, dl, a, l⟩) → published → r.readers = 0 →
      becomes (.reclReadersDone t) reclaimed)

/-- R215: the CAPQ word field by field, and the holder's target word. R216, R217: SHAD pairs a Published region with a Private one of its
size and home, once the writes of this core's engines to both have drained; SWAPM waits, and SWAPM_EXCHANGE exchanges the records of the
pair once the partner has drained and no tour has still to read either; SWAPM.abort ends the pair with nothing exchanged. -/
def Obligations.CapabilitiesAreReadAndShadowed : Prop :=
  (∀ (s s1 : State) (t : StreamId) (f g : FmtA) (pl : Place), s.IssuesA t (entMem 0x6B usedDa none) anyFields f g →
    s.Finds t (s.reg t g.a) pl s1 →
    let c := s.core t.core
    let r := s.region pl.rkey
    (∃ w : Word, exec (.capq f) s = .next ((s1.setReg t g.d w).retire t) ∧ w.extractLsb' 32 32 = r.version ∧
      w.extractLsb' 16 16 = (if r.st = .published then r.readers else 0) ∧ w.extractLsb' 9 7 = 0 ∧
      w.getLsbD 8 = (c.holds r && (r.st == .priv || r.st == .published || r.st == .shadowed)) ∧ w.extractLsb' 6 2 = pl.size ∧
      w.getLsbD 5 = r.lace.isSome ∧ w.getLsbD 4 = (r.st == .shadowed && r.side) ∧ w.getLsbD 3 = pl.vault ∧
      w.toNat % 8 = match r.st with
        | .unclaimed => 0
        | .priv => 1
        | .published => 2
        | .handing => 3
        | .shadowed => 4) ∧
    exec (.capqHold f) s = .next ((s1.setReg t g.d (if r.st = .unclaimed ∨ r.st = .handing then 0
      else BitVec.ofNat 64 (2 ^ 31 + (if s.isOwn r.hmod then 0x1FFF else r.hmod.toNat) * 2 ^ 12 + r.hcore.toNat))).retire t)) ∧
  (∀ (s s1 s2 : State) (t : StreamId) (f g : FmtA) (pl q : Place), s.IssuesA t (entMem 0x6C usedDab none) anyFields f g →
    s.pureOf t = none → s.Finds t (s.reg t g.a) pl s1 → s1.Finds t (s.reg t g.b) q s2 →
    let c := s.core t.core
    let r := s.region pl.rkey
    let x := s.region q.rkey
    let pair : Prop := r.st = .published ∧ c.holds r = true ∧ x.st = .priv ∧ c.holds x = true
    (¬pair → exec (.shad f) s = .next ((s2.setReg t g.d 0x04).retire t)) ∧
    (pair → pl.size ≠ q.size ∨ pl.home ≠ q.home → exec (.shad f) s = .next ((s2.setReg t g.d 0x08).retire t)) ∧
    (pair → pl.size = q.size → pl.home = q.home → s.enginesDrained t.core pl.rkey = true → s.enginesDrained t.core q.rkey = true →
      q.rkey ≠ pl.rkey ∧ exec (.shad f) s = .next (((((s2.ungrant t.core pl.rkey).setRegion pl.rkey
          { r with st := .shadowed, side := false, partner := q.rkey, pte := pl.pte, va := pl.va }).setRegion q.rkey
          { x with st := .shadowed, side := true, partner := pl.rkey, pte := q.pte, va := q.va }).setReg t g.d 0).retire t))) ∧
  ∀ (s s1 : State) (t : StreamId) (f g : FmtA) (pl : Place), s.pureOf t = none → s.Finds t (s.reg t g.a) pl s1 →
    let r := s.region pl.rkey
    let x := s.region r.partner
    let shadow : Prop := r.st = .shadowed ∧ (s.core t.core).holds r = true ∧ r.side = false
    let answer (st : Nat) : Host.Outcome State Fault Refusal := .next ((s1.setReg t g.d (BitVec.ofNat 64 st)).retire t)
    (s.IssuesA t (entMem 0x6D usedDab none) anyFields f g →
      (¬shadow → exec (.swapm f) s = answer 0x04) ∧ (shadow → 2 ^ 16 ≤ (s.reg t g.b).toNat → exec (.swapm f) s = answer 0x08) ∧
      (shadow → (s.reg t g.b).toNat < 2 ^ 16 → exec (.swapm f) s = .next (s1.await t .swapm (.swapm g) none))) ∧
    ((∃ dl a l, (s.strm t).pend = some ⟨.swapm, .swapm g, dl, a, l⟩) → r.partner ≠ pl.rkey →
      let ready : Bool := s.regionDrained t.core r.partner && !s.tourReads pl.rkey && !s.tourReads r.partner
      (ready = false → exec (.swapmExchange t) s = .next s1) ∧
      (ready = true → ∃ s' : State, exec (.swapmExchange t) s = .next ((s'.setReg t g.d 0).retire t) ∧
        let new := if r.pte.isSome && x.pte.isSome then r.partner else pl.rkey
        let old := if r.pte.isSome && x.pte.isSome then pl.rkey else r.partner
        (s'.region new).st = .published ∧ (s'.region new).version = r.version + 1 ∧
        (s'.region new).readers = BitVec.ofNat 16 (s.reg t g.b).toNat ∧ (s'.region new).hcore = r.hcore ∧
        (s'.region old).st = .priv ∧ (s'.region old).version = x.version + 1 ∧ (s'.region old).hcore = x.hcore)) ∧
    (s.IssuesA t (entMem 0x6D usedDa none) anyFields f g →
      (¬shadow → exec (.swapmAbort f) s = answer 0x04) ∧
      (shadow → exec (.swapmAbort f) s = .next ((((s1.setRegion r.partner
        { x with st := .priv, partner := 0, side := false }).setRegion pl.rkey { r with st := .published, partner := 0 }).setReg t g.d
        0).retire t)))

/-! ### Fences and answers (R186, R204, R229 to R233, R405) -/

/-- R230 to R233: FENCE answers its token, takes a tracker for the covered work that is outstanding and starts the write-back of the block
counters, and waits where eight are in use; FTEST says whether a token's fence is complete; a tracker whose conditions hold leaves the list.
R186, R204: an LD at another core's local memory completes with the answer, or traps with the cause that refuses it, and traps 0x04 once
the domain access limit has passed; R200, R202: a walk answers every access that joined it, or traps 0x04; R405, R406: BBC counts a block
and a write-back adds to its counter, in a Private region of the context, and is reported elsewhere. -/
def Obligations.FencesAndAnswers : Prop :=
  (∀ (s : State) (t : StreamId) (f g : FmtA), s.IssuesA t (entMem 0x6E usedD none) anyFields f g →
    let sl := s.slot t
    let mask := g.imm.extractLsb' 0 7
    let token : Word := BitVec.ofNat 64 (2 * 2 ^ 60 + (t.slot % 8) * 2 ^ 23 + mask.toNat * 2 ^ 16 + sl.fenceNo.toNat)
    ((s.openTrackers t.core t.slot).length < 8 → t.slot < 5 → ∃ s' : State,
      exec (.fence f) s = .next ((s'.setReg t g.d token).retire t) ∧ SameMemory s s' ∧ (s'.core t.core).bbc = [] ∧
      (s'.slot t).fenceNo = sl.fenceNo + 1 ∧
      let inUse := sl.trackers.filter fun y => !s'.trackerDone t.core y
      ((s'.slot t).trackers = inUse ∨
        ∃ x, (s'.slot t).trackers = inUse ++ [x] ∧ x.seq = sl.fenceNo ∧ x.fseq = sl.fseq ∧ x.mask = mask ∧ s'.trackerDone t.core x = false)) ∧
    (8 ≤ (s.openTrackers t.core t.slot).length → exec (.fence f) s = .next s)) ∧
  (∀ (s : State) (t : StreamId) (f g : FmtA), s.IssuesA t (entMem 0x6F usedDa none) anyFields f g →
    let w := s.reg t g.a
    let named := (s.openTrackers t.core (w.toNat / 2 ^ 23 % 8)).any fun x => x.seq == BitVec.ofNat 16 w.toNat
    exec (.ftest f) s = .next ((s.setReg t g.d (if w.toNat / 2 ^ 60 ≠ 2 ∨ w.toNat / 2 ^ 26 % 2 ^ 34 ≠ 0 then 0x08
      else if named then 0 else 1)).retire t)) ∧
  (∀ (s : State) (t : StreamId) (f g : FmtA), s.IssuesA t (entMem 0x6F usedD none) anyFields f g →
    exec (.ftestAll f) s = .next ((s.setReg t g.d (if s.openTrackers t.core t.slot = [] then 1 else 0)).retire t)) ∧
  (∀ (s : State) (core slot : Nat) (x : Tracker) (xs ys : List Tracker), ((s.core core).slot slot).trackers = xs ++ x :: ys →
    (∀ y ∈ xs, y.seq ≠ x.seq) → x ∉ ys → exec (.fenceTrackerComplete core slot x.seq) s =
      .next (if s.trackerDone core x then s.modSlot ⟨core, slot, false⟩ fun sl => { sl with trackers := xs ++ ys } else s)) ∧
  (∀ (s : State) (t : StreamId) (g : FmtA) (dl line : Option Word) (a : Option RemoteReply) (m : BitVec 13) (y off : Nat),
    (s.strm t).pend = some ⟨.remote, .ld g, dl, a, line⟩ → (∀ d, dl = some d → s.time.toNat ≤ d.toNat) →
    addrTag (s.memEa t g) = addrTag (s.reg t g.a) → s.space t.core (s.memEa t g) = some (.away m y 0 off) →
    (s.memEa t g).toNat % accessBytes g = 0 → off + accessBytes g ≤ localSize → (s.strm t).snap.length = accessBytes g →
    let heard (r : RemoteReply) : State := s.modStrm t fun st => { st with pend := some ⟨.remote, .ld g, dl, some r, line⟩ }
    (∀ ws, exec (.remoteAccessAnswer t (.data ws)) s = .next (((heard (.data ws)).setReg t g.d
      (loaded g (snapPatch (s.strm t).snap (wordsNat ws)))).retire t)) ∧
    ∀ cause : Byte, cause = 0x04 ∨ cause = 0x06 ∨ cause = 0x10 ∨ cause = 0x11 →
      exec (.remoteAccessAnswer t (.refused cause)) s = .next ((heard (.refused cause)).precise t cause (some (s.memEa t g)))) ∧
  (∀ (s : State) (t : StreamId) (g : FmtA) (dl : Word) (line : Option Word) (a : Option RemoteReply),
    (s.strm t).pend = some ⟨.remote, .ld g, some dl, a, line⟩ →
    exec (.remoteAccessTimeout t) s = .next (if dl.toNat ≤ s.time.toNat then s.precise t 0x04 line else s)) ∧
  (∀ (s : State) (n k : Nat) (w : Walk), ((s.station n).walks.take 32)[k]? = some w →
    (∀ l, s.walk w.tag w.ctx w.va false = some l → ∃ s' : State, exec (.pageWalkComplete ⟨n, k⟩) s = .next s' ∧ SameMemory s s' ∧
      (∀ t ∈ w.streams, s.joined w t = true → (s'.strm t).pend = none) ∧ ((s'.station n).hit w.tag w.ctx l.va).isSome = true ∧
      (s'.station n).walks = (s.station n).walks.eraseIdx k) ∧
    (s.walk w.tag w.ctx w.va false = none → ∀ (t : StreamId) (x : Wait) (ea : Word), w.streams = [t] → s.joined w t = true →
      (s.strm t).pend = some x → x.line = some ea → exec (.pageWalkComplete ⟨n, k⟩) s =
        .next ((s.setStation n { s.station n with walks := (s.station n).walks.eraseIdx k }).trapEntry t 0x04 ea 0
          (some (granuleOf ea))))) ∧
  (∀ (s : State) (t : StreamId) (f g : FmtA), s.IssuesA t (entInt 0xE8 ⟨false, false, false, false, false⟩) anyFields f g →
    let base := (s.ctx (s.core t.core).tag.toNat (s.core t.core).ctx.toNat).bbcBase
    let n := g.imm.toNat % 2 ^ 24
    exec (.bbc f) s = .next ((if base.getLsbD 63 && decide (n < 2 ^ min 24 (base.toNat / 2 ^ 58 % 32))
      then s.setCore t.core ((s.core t.core).bbcCount n) else s).retire t)) ∧
  ∀ (s : State) (core : Nat) (n : BitVec 24) (x : Nat × Nat × Nat) (l : Leaf),
    (s.core core).bbcOut.find? (fun e => e.2.1 == n.toNat) = some x →
    let c := s.core core
    let va : Word := ((s.ctx c.tag.toNat c.ctx.toNat).bbcBase &&& 0x00FFFFFFFFFFFFFF) + BitVec.ofNat 64 (8 * x.2.1)
    let sent := s.setCore core { c with bbcOut := c.bbcOut.filter (· != x) }
    let k := l.key + va.toNat % pageLen l.size
    s.walk c.tag c.ctx va false = some l → s.isOwn l.module = true →
      let mine : Prop := (s.region l.key).st = .priv ∧ (s.region l.key).tag = c.tag ∧ (s.region l.key).ctx = c.ctx
      (mine → exec (.bbcWriteback core n) s = .next ((sent.touchPage core va).store k 8 (s.mem.readNat k 8 + x.2.2))) ∧
      (¬mine → exec (.bbcWriteback core n) s = .next ((sent.touchPage core va).report core 1 0 0 0x04 0 va 0 none))

/-! ### Messages, tasks, handlers, channels and waits (R114 to R153) -/

/-- R119, R138: SEND and SENDT put one message with its header and their words into the mesh, or at a welt port for another module, and
trap where the target word names nobody or may not be used. R140: CHPOP stores the message at its operand and answers its header, or 0
where there is none; its space in the ring is given back, and a message that the firing had taken leaves its taken set. The drop forms
store nothing. R181: a word of the message that has an uncorrectable error traps 0x11, and nothing is popped. -/
def Obligations.MessagesAreSentAndPopped : Prop :=
  (∀ (s : State) (t : StreamId) (f g : FmtA),
    let c := s.core t.core
    let h (w : Word) (body : List Word) (rh rem : Bool) : Word :=
      header s.time c.lcore (BitVec.ofNat 5 body.length) (tgtChan w) 0 rh rem
    let sends (i : Instr) (w : Word) (body : List Word) (rh : Bool) : Prop := s.goodTarget t w →
      (∀ q, s.isOwn (tgtModule w) = true → s.lct t.core (tgtCore w).toNat = some q →
        ∃ s' : State, exec i s = .next (s'.retire t) ∧ Sent t.core s s' ∧ s'.weltOut = s.weltOut ∧
          s'.mesh = s.mesh ++ [⟨t.core, q, c.tag, c.ctx, tgtChan w, h w body rh false :: body, w, s.sender t⟩]) ∧
      (s.isOwn (tgtModule w) = false → s.portDown (tgtModule w) = false →
        ∃ s' : State, exec i s = .next (s'.retire t) ∧ Sent t.core s s' ∧ s'.mesh = s.mesh ∧
          s'.weltOut = s.weltOut ++ [.message (tgtModule w) c.gpid (tgtCore w) (h w body rh true :: body) (some ⟨t.core, s.sender t, w⟩)])
    let refuses (i : Instr) (w : Word) : Prop :=
      (tgtV w = false ∨ tgtChan w = 0 ∨ tgtChan w = 63 → exec i s = .next (s.precise t 0x04 none)) ∧
      (tgtV w = true → tgtChan w = 62 → (s.strm t).pl = 0 → exec i s = .next (s.precise t 0x0D none)) ∧
      (s.goodTarget t w → s.isOwn (tgtModule w) = true → s.lct t.core (tgtCore w).toNat = none →
        exec i s = .next (s.precise t 0x04 none))
    let regs := s.regs t g.b (g.imm.extractLsb' 0 4).toNat
    let ea := s.reg t g.a + BitVec.ofInt 64 g.imm.toInt
    (s.IssuesA t (entMem 0x70 usedAb none) sendCount f g →
      sends (.send f) (s.reg t g.a) regs false ∧ refuses (.send f) (s.reg t g.a)) ∧
    (s.IssuesA t (entMem 0x70 usedAbc none) sendCount f g →
      sends (.sendRh f) (s.reg t g.a) (regs ++ [s.reg t g.c]) true ∧ refuses (.sendRh f) (s.reg t g.a)) ∧
    (s.IssuesA t (entMem 0x71 usedDac none) (fun f => f.d.ult 32) f g → refuses (.sendt f) (s.reg t g.c) ∧
      ∀ off, addrTag ea = addrTag (s.reg t g.a) → s.OwnRecord t ea off 8 (8 * g.d.toNat) →
        sends (.sendt f) (s.reg t g.c) (s.localWords t.core off g.d.toNat) false) ∧
    (s.IssuesA t (entMem 0x71 usedDac none) (fun f => f.d.ult 32 && f.d != 0) f g → refuses (.sendtRh f) (s.reg t g.c) ∧
      ∀ off, addrTag ea = addrTag (s.reg t g.a) → s.OwnRecord t ea off 8 (8 * g.d.toNat) →
        sends (.sendtRh f) (s.reg t g.c) (s.localWords t.core off g.d.toNat) true)) ∧
  (∀ (s : State) (t : StreamId) (f g : FmtA), t.slot < 5 → s.Inv →
    let c := s.core t.core
    let ea := s.memEa t g
    let popped (ch : Nat) (m : RingMsg) (s' : State) : Prop :=
      (s'.core t.core).chRing ch = (c.chRing ch).give m.id ∧ (∀ k, k ≠ ch → (s'.core t.core).chRing k = c.chRing k) ∧
      (s'.slot t).taken = (s.slot t).taken.filter (fun x => !(x.id == m.id && x.chan.toNat == ch)) ∧
      { s'.slot t with taken := (s.slot t).taken } = s.slot t
    let stores (i : Instr) (pick : Option (Nat × RingMsg)) : Prop := ∀ off, addrTag ea = addrTag (s.reg t g.a) →
      s.space t.core ea = some (.lm t.core off) → off % 8 = 0 →
      (pick = none → exec i s = .next ((s.setReg t g.d 0).retire t)) ∧
      ∀ ch m, pick = some (ch, m) →
        let ws := s.ringWords t.core ch m
        off + 8 * ws.length ≤ localSize → s.MayWrite t off (8 * ws.length) →
        (∀ a, s.badRing t.core ch m ws.length = some a → exec i s = .next (s.precise t 0x11 (some a))) ∧
        (s.badRing t.core ch m ws.length = none → ∃ s' : State, exec i s = .next ((s'.setReg t g.d (ws.headD 0)).retire t) ∧ popped ch m s' ∧
          ∀ a, s'.mem.read a = if localKey t.core off ≤ a ∧ a < localKey t.core off + 8 * ws.length
            then BitVec.ofNat 8 (wordsNat ws / 256 ^ (a - localKey t.core off)) else s.mem.read a)
    let drops (i : Instr) (pick : Option (Nat × RingMsg)) : Prop :=
      (pick = none → exec i s = .next ((s.setReg t g.d 0).retire t)) ∧
      ∀ ch m, pick = some (ch, m) →
        (∀ a, s.badRing t.core ch m 1 = some a → exec i s = .next (s.precise t 0x11 (some a))) ∧
        (s.badRing t.core ch m 1 = none → ∃ s' : State,
          exec i s = .next ((s'.setReg t g.d ((s.ringWords t.core ch m).headD 0)).retire t) ∧ popped ch m s' ∧ SameMemory s s')
    let k := g.md.toNat / 8 % 4
    (s.IssuesA t (entMem 0x79 usedDab none) anyFields f g →
      (s.declared t k = false → exec (.chpop f) s = .next (s.precise t 0x01 none)) ∧
      (s.declared t k = true → stores (.chpop f) (s.popTaken t k))) ∧
    (s.IssuesA t (entMem 0x79 usedDabc none) (fun f => popChan f.c) f g → stores (.chpopCh f) (s.popUntaken t g.c.toNat)) ∧
    (s.IssuesA t (entMem 0x79 usedD none) anyFields f g →
      (s.declared t k = false → exec (.chpopDrop f) s = .next (s.precise t 0x01 none)) ∧
      (s.declared t k = true → drops (.chpopDrop f) (s.popTaken t k))) ∧
    (s.IssuesA t (entMem 0x79 usedDc none) (fun f => popChan f.c) f g → drops (.chpopChDrop f) (s.popUntaken t g.c.toNat)))

/-- R144 to R150: CALLAT and SPAWN send their packet to channel 0 of a core and answer the child's path, whose child number then advances;
with a join handle the sent copy's first successor word names the record's next slot, and the record's NEXT advances;
JOIN writes a pending task record and answers its handle. -/
def Obligations.TasksAreSpawnedAndJoined : Prop :=
  ∀ (s : State) (t : StreamId) (f g : FmtA), t.slot < 5 →
    let c := s.core t.core
    let sl := s.slot t
    let spawned (i : Instr) (path : BitVec 32) (n : Word) (packet : List Word) : Prop := ∀ q, s.lct t.core n.toNat = some q →
      ∃ s' : State, exec i s = .next ((s'.setReg t g.d (path.setWidth 64)).retire t) ∧
        s'.mesh = s.mesh ++ [s.taskPacket t n q packet] ∧ s'.slot t = { sl with child := sl.child + 1 } ∧ SameMemory s s' ∧
        ∀ p, p ≠ t.core → s'.core p = s.core p
    let image (off : Nat) : List Word := s.localWords t.core off (packetLen (s.localWord t.core off))
    let spawn (i : Instr) (place : BitVec 32 → Word) : Prop := ∀ off,
      let w := s.localWord t.core off
      let path := phash (if g.fn.getLsbD 1 then thPath w else sl.path) sl.child
      s.OwnRecord t (s.reg t g.a) off 32 (8 * packetLen w) → taskOk w = true → g.c = 0 →
        spawned i path (place path) ((path ++ w.extractLsb' 0 32) :: (image off).tail)
    let joins (i : Instr) (place : BitVec 32 → Word) : Prop := s.Inv → ∀ off,
      let w := s.localWord t.core off
      let path := phash (if g.fn.getLsbD 1 then thPath w else sl.path) sl.child
      let j := s.reg t g.c
      let o := shOffset j
      let rw := s.localWord t.core o
      let packet := (path ++ w.extractLsb' 0 32) :: (image off).tail
      let here : Prop := s.isOwn (shModule j) = true ∧ s.lct t.core (shLcore j).toNat = some t.core ∧ shRes j = true
      s.OwnRecord t (s.reg t g.a) off 32 (8 * packetLen w) → taskOk w = true → g.c ≠ 0 → ∀ q, s.lct t.core (place path).toNat = some q →
        (¬here → exec i s = .next (s.precise t 0x04 none)) ∧
        (here → s.badIn (localKey t.core o) 8 = none →
          (thNsucc w = 0 ∨ recNslot rw ≤ recNext rw → exec i s = .next (s.precise t 0x08 none)) ∧
          (thNsucc w ≠ 0 → recNext rw < recNslot rw → c.frameHit o 8 = false ∨ (s.strm t).pl ≠ 0 → ∃ s' : State,
            exec i s = .next ((s'.setReg t g.d (path.setWidth 64)).retire t) ∧ s'.slot t = { sl with child := sl.child + 1 } ∧
            s'.mesh = s.mesh ++ [s.taskPacket t (place path) q (setAt packet (packet.length - thNsucc w)
              (j.extractLsb' 48 16 ++ BitVec.ofNat 6 (recNext rw) ++ j.extractLsb' 0 42))] ∧
            s'.localWord t.core o = rw.extractLsb' 48 16 ++ BitVec.ofNat 8 (recNext rw + 1) ++ rw.extractLsb' 0 40 ∧
            (∀ a, a < localKey t.core o ∨ localKey t.core o + 8 ≤ a → s'.mem.read a = s.mem.read a) ∧
            ∀ p, p ≠ t.core → s'.core p = s.core p))
    (s.IssuesA t (entMem 0x72 usedDabc none) (fun f => f.b.ule 60) f g →
      (s.lct t.core (s.reg t g.a).toNat = none → exec (.callat f) s = .next (s.precise t 0x04 none)) ∧
      spawned (.callat f) (phash sl.path sl.child) (s.reg t g.a)
        (taskHeader (phash sl.path sl.child) 1 (g.imm.extractLsb' 0 6) 0 true :: s.regs t g.b 4 ++
          [if g.c = 0 then targetWord 1 0x1FFF c.lcore else s.reg t g.c, 0, 0])) ∧
    (s.IssuesA t (entMem 0x73 usedDac none) anyFields f g →
      spawn (.spawn f) (fun path => BitVec.ofNat 64 (path.toNat % max 1 c.nCores)) ∧
        joins (.spawn f) fun path => BitVec.ofNat 64 (path.toNat % max 1 c.nCores)) ∧
    (s.IssuesA t (entMem 0x73 usedDabc none) anyFields f g → spawn (.spawnAt f) (fun _ => s.reg t g.b) ∧
      joins (.spawnAt f) fun _ => s.reg t g.b) ∧
    (s.IssuesA t (entMem 0x74 usedDabc none) anyFields f g → s.Inv → ∀ off,
      let n := (s.reg t g.b).toNat
      let k := localKey t.core off
      s.space t.core (s.reg t g.a) = some (.lm t.core off) → off % 64 = 0 →
      (n = 0 ∨ 64 < n ∨ localSize < off + (72 + 32 * n) → exec (.join f) s = .next (s.precise t 0x08 (some (s.reg t g.a)))) ∧
      (1 ≤ n → n ≤ 64 → off + (72 + 32 * n) ≤ localSize → c.frameHit off (72 + 32 * n) = false →
        ∃ s' : State, exec (.join f) s = .next ((s'.setReg t g.d
            (0#15 ++ 1#1 ++ 0#6 ++ BitVec.ofNat 17 (off / 8) ++ 0x1FFF#13 ++ c.lcore)).retire t) ∧
          (∀ a, a < k ∨ k + (72 + 32 * n) ≤ a → s'.mem.read a = s.mem.read a) ∧
          s'.localWord t.core off = 0#24 ++ BitVec.ofNat 8 n ++ BitVec.ofNat 32 n ∧
          s'.localWord t.core (off + 8) = taskHeader sl.path 1 (g.imm.extractLsb' 0 6) 0 false ∧
          s'.localWord t.core (off + 16) = localAddr t.core (off + 72) ∧ s'.localWord t.core (off + 24) = s.reg t g.b ∧
          s'.localWord t.core (off + 32) = s.reg t g.c ∧ s'.localWord t.core (off + 40) = 0 ∧
          { s' with mem := s.mem, bad := s.bad, free := s.free } = s))

/-- R114 to R117, R139, R141 to R143, R153: HSET, HMASK, CHCFG, CHCNT and DACC. A status other than 0x00 changes nothing; what a firing
in user mode may not touch traps 0x0D. -/
def Obligations.HandlersAndChannels : Prop :=
  ∀ (s : State) (t : StreamId) (f g : FmtA),
    let c := s.core t.core
    let i := g.imm.toNat % 64
    let e := c.handler i
    let user : Prop := (s.strm t).pl = 0
    let trap (x : Instr) : Prop := exec x s = .next (s.precise t 0x0D none)
    let answer (x : Instr) (s0 : State) (w : Word) : Prop := exec x s = .next ((s0.setReg t g.d w).retire t)
    (s.IssuesA t (entMem 0x75 usedDabc none) anyFields f g →
      (user → hSUP e.hw0 = true ∨ hSUP (s.reg t g.a) = true → trap (.hset f)) ∧
      ((user → hSUP e.hw0 = false ∧ hSUP (s.reg t g.a) = false) →
        (handlerOk (s.reg t g.a) (s.reg t g.b) (s.reg t g.c) = false → answer (.hset f) s 0x08) ∧
        (handlerOk (s.reg t g.a) (s.reg t g.b) (s.reg t g.c) = true →
          answer (.hset f) (s.setCore t.core (c.setHandler i ⟨s.reg t g.a, s.reg t g.b, s.reg t g.c, (s.slot t).launch⟩)) 0))) ∧
    (s.IssuesA t (entMem 0x75 usedD none) anyFields f g → g.imm.toNat / 64 < 3 →
      answer (.hsetRd f) s (if g.imm.toNat / 64 = 0 then e.hw0 else if g.imm.toNat / 64 = 1 then e.hw1 else e.hw2)) ∧
    (s.IssuesA t (entMem 0x76 usedD none) anyFields f g →
      (user → hSUP e.hw0 = true → trap (.hmask f) ∧ trap (.hmaskUn f) ∧ trap (.hmaskRd f)) ∧
      ((user → hSUP e.hw0 = false) →
        let old : Word := if hMASK e.hw0 then 1 else 0
        let set (b : Bool) : State := if hVALID e.hw0
          then s.setCore t.core (c.setHandler i { e with hw0 := if b then e.hw0 ||| (1#64 <<< 60) else e.hw0 &&& ~~~(1#64 <<< 60) }) else
          s.setCore t.core c
        answer (.hmask f) (set true) old ∧ answer (.hmaskUn f) (set false) old ∧ answer (.hmaskRd f) s old)) ∧
    (s.IssuesA t (entMem 0x77 usedDa none) anyFields f g → (user → trap (.chcfg f)) ∧
      (¬user → let st := c.chcfgStatus i (s.reg t g.a)
        answer (.chcfg f) (if st = 0 then s.setCore t.core (c.chcfgWrite i (s.reg t g.a)) else s) (st.setWidth 64))) ∧
    (s.IssuesA t (entMem 0x78 usedD none) anyFields f g →
      (i = 63 → answer (.chcnt f) s (BitVec.ofNat 64 (c.ch.heap.length % 2 ^ 16))) ∧ (i ≠ 63 → (c.chRing i).count < 2 ^ 16 →
        answer (.chcnt f) s (BitVec.ofNat 64 ((c.chRing i).msgs.filter fun m => !m.taken && !m.freed).length)) ∧
      answer (.chcntFree f) s (BitVec.ofNat 64 (if i = 63 then c.heapRoom else c.freeWords i)) ∧
      answer (.chcntHeap f) s (BitVec.ofNat 64 (if i = 63 then c.ch.heap.length else (c.ch.heap.filter fun m => m.chan.toNat = i).length))) ∧
    (s.IssuesA t (entMem 0x7B usedDa none) anyFields f g →
      let n := (s.reg t g.a).toNat
      answer (.dacc f) s (if 64 < n then 0 else accountField (c.account n) (g.imm.toNat % 4)) ∧
      (n ≤ 64 → answer (.daccClr f) (s.setCore t.core (c.setAccount n ⟨0, 0, 0, 0⟩)) (c.account n).msgs) ∧
      (64 < n → exec (.daccClr f) s = .next (s.retire t)))

/-- R151, R152: WAIT completes with the bits of the conditions that hold once one holds, or all of them in mode 1; with 0 at its deadline
or where it names none; it waits otherwise, and the deadline and a condition that has come to hold are looked at again. A reserved
condition traps 0x01. That a wait whose deadline equals TIMEBASE has come to it is log 42. -/
def Obligations.WaitsEndWithTheirConditions : Prop :=
  ∀ (s : State) (t : StreamId) (f : FmtE),
    let cs := [(1, s.reg t f.a), (2, s.reg t f.b), (4, s.reg t f.c), (8, s.reg t f.e)]
    let used := (cs.filter fun c => condKind c.2 ≠ 0).map (·.1) |>.sum
    let m := (cs.filter fun c => condKind c.2 ≠ 0 && s.condHoldsNow t c.2).map (·.1) |>.sum
    let met : Prop := if f.mode = 0 then m ≠ 0 else m = used ∧ used ≠ 0
    let late (dl : Option Word) : Prop := ∃ d, dl = some d ∧ d.toNat ≤ s.time.toNat
    let outcome (i : Instr) (dl : Option Word) : Prop := (∀ c ∈ cs, condBad c.2 = false) →
      (met → exec i s = .next ((s.setReg t f.d (BitVec.ofNat 64 m)).retire t)) ∧
      (¬met → used = 0 ∨ late dl → exec i s = .next ((s.setReg t f.d 0).retire t)) ∧
      (¬met → used ≠ 0 → ¬late dl → exec i s = .next (s.await t .wait (.wait f) dl))
    let e : Entry := ⟨0x7A, usedDabce, false, false, none⟩
    (s.IssuesE t e → (s.strm t).pend = none →
      outcome (.wait f) (if f.imm = 0xFFFFFFFF then none else (s.strm t).deadline.or (some (s.time + BitVec.ofNat 64 f.imm.toNat))) ∧
      ((∃ c ∈ cs, condBad c.2 = true) → exec (.wait f) s = .next (s.precise t 0x01 none))) ∧
    (∀ dl a l, (s.strm t).pend = some ⟨.wait, .wait f, dl, a, l⟩ →
      let d := if f.imm = 0xFFFFFFFF then none else dl
      outcome (.waitConditionMet t) d ∧ outcome (.waitTimeout t) d) ∧
    ∀ w : Word,
      (condKind w = 1 → (s.condHoldsNow t w = true ↔
        w.toNat / 256 % 2 ^ 16 ≤ (((s.core t.core).chanCfg (w.toNat % 64)).extractLsb' 48 16).toNat)) ∧
      (condKind w = 3 → (s.condHoldsNow t w = true ↔ (s.slot t).board.getLsbD (w.toNat % 64) = false)) ∧
      (condKind w = 4 → (s.condHoldsNow t w = true ↔ lsState ((s.core t.core).laceSlot (w.toNat % 16)).word ∈ [2, 3, 4])) ∧
      (condKind w = 5 → (s.condHoldsNow t w = true ↔ w.toNat % 2 ^ 60 ≤ s.time.toNat))

/-- R120, R121, R130 to R132, R348, R372: where a message goes that reaches its core: its ring, the heap, the report of a disabled channel,
of a lost core or of another partition's core (one from another module is answered there), or it stays at the port, which then takes no
other; it waits for an older read or message of its slot to that core (R228). That a message in the heap takes its words and one more is
log 39. Messages of one sender, receiver and channel keep their order. R131:
the heap's first message whose ring has room is replayed. R117: a message in a ring stands at the write position, which moves past it; its
words read back, and every byte outside them reads as before. -/
def Obligations.ArrivalsReachTheirRing : Prop :=
  (∀ (s : State) (k : Nat) (p : Packet),
    let c := s.core p.dst
    let s0 : State := { s with mesh := s.mesh.eraseIdx k }
    let ch := p.chan.toNat
    let arrive (o : State) : Prop := exec (.messageArrival (.mesh k)) s = .next o
    (s.mesh[k]? = some p →
      (c.port ≠ none ∨ s.readAhead p = true → arrive s) ∧
      ((∃ q ∈ s.mesh.take k, q.src = p.src ∧ q.dst = p.dst ∧ q.chan = p.chan) → arrive s) ∧
      (s.behindSlot (s.mesh.take k) p = true → arrive s) ∧
      ((∀ q ∈ s.mesh.take k, ¬(q.src = p.src ∧ q.dst = p.dst ∧ q.chan = p.chan)) → c.port = none → s.readAhead p = false →
        s.behindSlot (s.mesh.take k) p = false →
        ((c.valid && c.tag == p.tag) = false → p.src < 2304 → arrive (s0.dropped p.src p.sender p.target 0x04)) ∧
        ((c.valid && c.tag == p.tag) = false → 2304 ≤ p.src →
          arrive { s0 with weltOut := s0.weltOut ++ [.mismatch (p.target.extractLsb' 32 16) p.words] }) ∧
        (c.valid = true → c.tag = p.tag →
          (c.lost = true → arrive (s0.channelFault p.dst 0x05 (p.words.headD 0))) ∧
          (c.lost = false → cfgEn (c.cfg ch) = false → arrive (s0.channelFault p.dst 0x04 (p.words.headD 0))) ∧
          (c.lost = false → cfgEn (c.cfg ch) = true →
            (c.heapCount ch = 0 → p.words.length ≤ c.freeWords ch → arrive (s0.ringPut p.dst ch p.words s.time)) ∧
            (c.heapCount ch ≠ 0 ∨ c.freeWords ch < p.words.length →
              (p.words.length + 1 ≤ c.heapRoom → arrive (s0.heapPut p.dst p.chan p.words)) ∧
              (c.heapRoom < p.words.length + 1 → ∃ o, arrive o ∧ (o.core p.dst).port = some p ∧ SameMemory s o)))))) ∧
    ∀ m : HeapMsg, c.replayable = some m →
      m ∈ c.ch.heap ∧ m.words.length ≤ c.freeWords m.chan.toNat ∧ c.ch.heap.find? (fun n => n.chan == m.chan) = some m ∧
      exec (.heapReplay p.dst m.chan.toNat) s =
        .next (((s.setCore p.dst { c with ch := { c.ch with heap := c.ch.heap.erase m } }).ringPut p.dst m.chan.toNat m.words
          m.arrival).heapBytes p.dst)) ∧
  (∀ (s : State) (p ch : Nat) (ws : List Word) (time : Word), s.Inv →
    let c := s.core p
    let r := c.chRing ch
    let n := cfgCap (c.cfg ch) * 8
    let off (i : Nat) : Nat := cfgBase (c.cfg ch) * 64 + 8 * ((r.w + i) % n)
    ws.length ≤ n → 0 < n →
    let s' := s.ringPut p ch ws time
    let m : RingMsg := ⟨c.ch.nextId, r.w, ws.length, time, false, false⟩
    (s'.core p).chRing ch = ⟨(r.w + ws.length) % n, r.msgs ++ [m]⟩ ∧ (∀ k, k ≠ ch → (s'.core p).chRing k = c.chRing k) ∧
    s'.ringWords p ch m = ws ∧
    ∀ a, (∀ i < ws.length, a < localKey p (off i) ∨ localKey p (off i) + 8 ≤ a) → s'.mem.read a = s.mem.read a)

/-- R122, R123: the selection fires the runnable entry of highest priority, among equals the one that fired longest ago, in the lowest
free slot of the first four. R87, R94, R126, R127: how the firing starts. R145 to R147: a successor message writes its result into its
slot of the record and counts the record down; the one that completes it pushes the packet into channel 0. R121, R370: the oldest report of
a row, or fault message of another module, goes into channel 62's ring, or waits. That a result slot outside local memory reports 0x07 is
log 29, and that an index that has fired counts so after its entry is rewritten is log 85. -/
def Obligations.SelectionAndSuccessors : Prop :=
  (∀ (s : State) (core k i : Nat),
    let s0 := s.dropDead core ((s.core core).untaken 0).length
    let c := s0.core core
    s.selects core = true → k < 4 → (c.slot k).st = 0 → (∀ j < k, (c.slot j).st ≠ 0) → s0.best core = some i → c.dbg = none →
    i < 64 ∧ (∀ j < 64, (s0.takes core j).isSome = true →
      (hPRIO (c.handler j).hw0).toNat < (hPRIO (c.handler i).hw0).toNat ∨
        (hPRIO (c.handler j).hw0 = hPRIO (c.handler i).hw0 ∧ c.lastFired i ≤ c.lastFired j)) ∧
    ∃ ts s', s0.takes core i = some ts ∧ exec (.selection core) s = .next s' ∧ SameMemory s s' ∧
      let e := c.handler i
      let sl := (s'.core core).slot k
      sl.st = 1 ∧ sl.x = firingStrm (hENTRY e.hw0) (hSUP e.hw0) ∧ sl.a = sl.x ∧ sl.preds = [] ∧ sl.v = Vector.replicate 32 0 ∧
      (∀ r : BitVec 6, 8 ≤ r.toNat → sl.reg r = 0) ∧ sl.firing = firingWord c.fseq c.stage (hPRIO e.hw0) (BitVec.ofNat 6 i) ∧
      sl.trapCause = 0 ∧ sl.trapPc = 0 ∧ sl.trapAddr = 0 ∧ sl.trapSeq = 0 ∧ sl.launch = e.launch ∧ sl.entry = e ∧
      sl.taken.map (fun m => (m.chan, m.id)) = ts.flatMap (fun x => x.2.2.map fun m => (x.2.1, m.id)) ∧
      (s'.core core).fseq = c.fseq + 1) ∧
  ((∀ (s : State) (k : Nat) (m : SuccMsg), s.Inv → s.succs[k]? = some m →
    ((∃ n ∈ s.succs.take k, n.src = m.src ∧ n.dst = m.dst) ∨ s.packetAhead m = true ∨ (s.core m.dst).port ≠ none →
      exec (.successorMessage k) s = .next s) ∧
    ((∀ n ∈ s.succs.take k, ¬(n.src = m.src ∧ n.dst = m.dst)) → s.packetAhead m = false → (s.core m.dst).port = none →
    let c := s.core m.dst
    let s0 : State := { s with succs := s.succs.eraseIdx k }
    let off := shOffset m.handle
    let w := s.localWord m.dst off
    let base := off + 8 * (1 + packetLen (s.localWord m.dst (off + 8)) + 4 * shSlot m.handle)
    let arrive (o : State) : Prop := exec (.successorMessage k) s = .next o
    ((c.valid && c.tag == m.tag) = false → m.src < 2304 → arrive (s0.dropped m.src m.sender m.handle 0x04)) ∧
    ((c.valid && c.tag == m.tag) = false → 2304 ≤ m.src → arrive { s0 with weltOut := s0.weltOut ++ [.mismatch m.gpid [m.handle]] }) ∧
    (c.valid = true → c.tag = m.tag → c.lost = true → arrive (s0.channelFault m.dst 0x05 m.handle)) ∧
    (c.valid = true → c.tag = m.tag → c.lost = false →
      (shRes m.handle = true → recNslot w ≤ shSlot m.handle → arrive (s0.channelFault m.dst 0x07 (localAddr m.dst off))) ∧
      (shRes m.handle = true → shSlot m.handle < recNslot w → localSize < base + 32 →
        arrive (s0.channelFault m.dst 0x07 (localAddr m.dst off))) ∧
      (shRes m.handle = false → recCount w = 0 → arrive (s0.channelFault m.dst 0x07 (localAddr m.dst off))) ∧
      (shRes m.handle = false → 1 < (recCount w).toNat → ∃ o, arrive o ∧ o.localWord m.dst off = w.extractLsb' 32 32 ++ (recCount w - 1) ∧
        ∀ a, a < localKey m.dst off ∨ localKey m.dst off + 8 ≤ a → o.mem.read a = s.mem.read a) ∧
      (shRes m.handle = true → shSlot m.handle < recNslot w → base + 32 ≤ localSize → m.result.length = 4 → 1 < (recCount w).toNat →
        ∃ o, arrive o ∧ o.localWords m.dst base 4 = m.result ∧ recCount (o.localWord m.dst off) = recCount w - 1) ∧
      (shRes m.handle = false → recCount w = 1 → ∃ o : State,
        arrive (o.push0 m.dst m.src m.lcore (o.recPacket m.dst off)) ∧ recCount (o.localWord m.dst off) = 0)))) ∧
  ∀ (s : State) (row p : Nat) (r : Report) (rs : List Report), NMap.get [] s.collectors row = r :: rs →
    ((r.dst = none ∧ s.supOf r.tag = some p) ∨ (r.dst = some p ∧ (s.core p).valid = true ∧ (s.core p).tag = r.tag)) →
    let c := s.core p
    (cfgEn (c.cfg 62) = false ∨ c.lost = true ∨ c.freeWords 62 < r.words.length → exec (.collectorForward row) s = .next s) ∧
    (cfgEn (c.cfg 62) = true → c.lost = false → r.words.length ≤ c.freeWords 62 →
      exec (.collectorForward row) s =
        .next { s.ringPut p 62 r.words s.time with collectors := NMap.set s.collectors row rs }))

/-! ### Engines (R248 to R315) -/

/-- R248 to R255, R262: a copy or gather whose words are well formed and whose probe succeeds enters the FIFO under the next sequence
number and its status register enters the scoreboard; malformed words give status 0x08 at once (that a GATH's OFF off its index size is
one of them is log 102); with no free entry COPYB answers 0x01 and the others wait. R264: CSTAT counts the free entries and reads a
request's status. R255 to R259: the engine moves one element of a copy within local memory, as it was read when an element after it was
seen new already, and once only; no other byte changes but in the destinations of its later elements, which may be seen new before; the
last one delivers the request's status, clears its scoreboard bit and frees its entry. -/
def Obligations.CopiesAreQueuedAndMoved : Prop :=
  (∀ (s : State) (t : StreamId) (f : FmtE), t.slot < 5 →
    let c := s.core t.core
    let ctl := s.reg t f.a
    let len := s.reg t f.e
    let e := 2 ^ (ctl.toNat / 16 % 4)
    let bad : Prop := s.ctlMsgBad t.core ctl = true ∨ ctlRestBad ctl = true
    let allowed : Prop := ctlMsg ctl = true → ctlChanNo ctl = 62 → (s.strm t).pl ≠ 0
    let queued (i : Instr) (dims : List (Nat × Int × Int)) (g : Option Gather) (total : Nat) : Prop := ∃ s' : State,
      exec i s = .next (s'.retire t) ∧ SameMemory s s' ∧
      (s'.core t.core).reqs = c.reqs ++ [⟨s.ticket t f.d, ctl, s.reg t f.b, s.reg t f.c, dims, g, total, 0, [], [], false⟩] ∧
      (s'.core t.core).dseq = c.dseq + 1 ∧ (s'.slot t).s = (s.slot t).s ∧
      (s'.slot t).board = if f.d = 0 then (s.slot t).board else (s.slot t).board ||| (1#64 <<< f.d.toNat)
    let refused (i : Instr) (st : Byte) : Prop := ∃ s' : State, exec i s = .next (s'.retire t) ∧ SameMemory s s' ∧
      (s'.core t.core).reqs = c.reqs ∧ (s'.core t.core).dseq = c.dseq + 1 ∧ (s'.slot t).board = (s.slot t).board ∧
      (f.d ≠ 0 → s'.reg t f.d = statusWord 0 c.dseq st)
    let linear : List (Nat × Int × Int) := [(len.toNat / e, e, e)]
    let copies (i : FmtE → Instr) : Prop := s.fifoOk t = true →
      (bad ∨ 2 ^ 32 ≤ len.toNat ∨ len.toNat % e ≠ 0 → refused (i f) 0x08) ∧
      (¬bad → len.toNat < 2 ^ 32 → len.toNat % e = 0 → allowed →
        let ts := copyTouches ctl (s.reg t f.b) (s.reg t f.c) linear (len.toNat / e)
        ∀ s1, s.probe t (i f) ts [ts] = .ok s1 → queued (i f) linear none (len.toNat / e))
    (s.IssuesE t (entEngine 0xC0 usedDabce) → copies .copy ∧ (s.fifoOk t = false → exec (.copy f) s = .next s)) ∧
    (s.IssuesE t (entEngine 0xC1 usedDabce) → copies .copyb ∧
      (s.fifoOk t = false → exec (.copyb f) s = .next ((s.setReg t f.d 0x01).retire t))) ∧
    (s.IssuesE t (entEngine 0xC2 usedDabce) → s.fifoOk t = true →
      (bad → refused (.copyp f) 0x08) ∧
      (¬bad → ∀ st s1, s.blockSnapshot t f = .ok (.error st, s1) → refused (.copyp f) st) ∧
      (¬bad → ∀ b s1, s.blockSnapshot t f = .ok (.ok b, s1) →
        ((s.strm t).snap = [] → s.readBlock t f len = .ok (.ok b)) ∧ (∀ x, (s.strm t).snap.head? = some x → b = x) ∧
        (blockDims b (ctlFill ctl) (ctlEsz ctl) = none → refused (.copyp f) 0x08) ∧
        ∀ dims, blockDims b (ctlFill ctl) (ctlEsz ctl) = some dims → allowed →
          let ts := copyTouches ctl (s.reg t f.b) (s.reg t f.c) dims (dimsTotal dims)
          ∀ s2, s1.probe t (.copyp f) ts [ts] = .ok s2 → queued (.copyp f) dims none (dimsTotal dims))) ∧
    (s.IssuesE t (entEngine 0xC3 usedDabce) → s.fifoOk t = true →
      let row := f.imm.toNat % 2 ^ 20
      let n := len.toNat / 2 ^ 20 % 2 ^ 20
      let size := if len.getLsbD 40 then 8 else 4
      let off := len.toNat % 2 ^ 20
      let touches := (List.range (n * row / e)).map fun k => (⟨s.reg t f.c, plusOff (s.reg t f.c) (k * e : Nat), e, e, true⟩ : Touch)
      (bad ∨ ctlFill ctl = true ∨ row % e ≠ 0 ∨ 2 ^ 41 ≤ len.toNat ∨ off % size ≠ 0 → refused (.gath f) 0x08) ∧
      (¬bad → ctlFill ctl = false → row % e = 0 → len.toNat < 2 ^ 41 → off % size = 0 → allowed →
        ∀ s1, s.probe t (.gath f) (touches ++ gathList t.core len) [] = .ok s1 →
        queued (.gath f) [] (some ⟨row, f.mode.getLsbD 0, len.getLsbD 40, off⟩) n)) ∧
    (s.IssuesE t (entEngine 0xC4 usedD) → exec (.cstat f) s = .next ((s.setReg t f.d (BitVec.ofNat 64
      (32 - c.reqs.length - (c.tours.filter fun u => !u.ended).length - c.reserved))).retire t)) ∧
    (s.IssuesE t (entEngine 0xC4 usedDa) → ctl.toNat < 2 ^ 16 → ∃ w : Word, exec (.cstatSeq f) s = .next ((s.setReg t f.d w).retire t) ∧
      (∀ r, c.reqs.find? (fun r => r.tk.seq.toNat == ctl.toNat) = some r →
        w.extractLsb' 32 32 = BitVec.ofNat 32 r.done ∧ w.extractLsb' 16 16 = ctl.extractLsb' 0 16 ∧ w.getLsbD 11 = r.resumed) ∧
      (c.reqs.find? (fun r => r.tk.seq.toNat == ctl.toNat) = none → ∀ d, c.ring.reverse.find? (fun d => d.seq.toNat == ctl.toNat) = some d →
        w = d.done ++ d.seq ++ 0#4 ++ bit 1 d.res ++ d.st.code ++ d.status))) ∧
  ((∀ (s : State) (p : Nat) (seq : BitVec 16) (r : Req) (a b : Nat), s.Inv → (s.core p).reqs.find? (fun r => r.tk.seq == seq) = some r →
    r.gather = none → r.done < r.total → s.reqOpen p r r.done = true → (∀ x ∈ r.early, r.done ≤ x.1 ∧ x.1 < r.total) →
    let e := ctlEsz r.ctl
    let read := r.ahead.find? fun x => x.1 == r.done
    let src (i : Nat) : Byte := match read with
      | some v => BitVec.ofNat 8 (v.2 / 256 ^ i)
      | none => if ctlFill r.ctl then BitVec.ofNat 8 (r.src.toNat / 256 ^ i) else s.mem.read (localKey p a + i)
    let later (x : Nat) : Prop := ∃ k o, r.done < k ∧ k < r.total ∧ s.engineSpace p (r.elemDst k) = some (.lm p o) ∧
      localKey p o ≤ x ∧ x < localKey p o + e
    (ctlFill r.ctl = true ∨ read.isSome = true ∨ (s.engineSpace p (r.elemSrc r.done) = some (.lm p a) ∧ a + e ≤ localSize ∧
      s.badIn (localKey p a) e = none)) →
    s.engineSpace p (r.elemDst r.done) = some (.lm p b) → s.badPartial (localKey p b) e = none →
    (∀ k < r.total, ∃ o, s.engineSpace p (r.elemDst k) = some (.lm p o)) →
    ∃ (s' : State) (early : List (Nat × Nat × Nat)) (ahead : List (Nat × Nat)),
      let r' : Req := { r with done := r.done + 1, early := early, ahead := ahead }
      exec (.copyCompletion p seq 1) s =
        .next (if r.done + 1 = r.total then s'.endReq p r' 0 0 else s'.setCore p ((s'.core p).setReq r')) ∧
      ((r.early.any fun x => x.1 == r.done) = false → ∀ x, localKey p b ≤ x → x < localKey p b + e →
        s'.mem.read x = src (x - localKey p b) ∨ later x) ∧
      (∀ x, (r.early.any fun x => x.1 == r.done) = true ∨ x < localKey p b ∨ localKey p b + e ≤ x →
        s'.mem.read x = s.mem.read x ∨ later x) ∧
      (s'.core p).reqs = (s.core p).reqs ∧ (s'.core p).slots = (s.core p).slots) ∧
  ∀ (s : State) (p : Nat) (r : Req) (st : Byte) (a : Word), r.tk.slot < 5 → ctlMsg r.ctl = false → r.tk.d ≠ 0 →
    let t : StreamId := ⟨p, r.tk.slot, r.tk.acc⟩
    let s' := s.endReq p r st a
    s.firingRuns p r.tk.slot r.tk.fseq = true → (s.slot t).board.getLsbD r.tk.d.toNat = true →
    s'.reg t r.tk.d = statusWord r.done r.tk.seq st ∧ (s'.slot t).board = (s.slot t).board &&& ~~~(1#64 <<< r.tk.d.toNat) ∧
    (∀ d, d ≠ r.tk.d → s'.reg t d = s.reg t d) ∧ (s'.core p).reqs = (s.core p).reqs.filter (fun q => q.tk.seq != r.tk.seq))
end

