-- ==== Sys2Proof/Laws/Issue.lean ====
section
/-!
SUPPORT. What the issue of an instruction comes to: an instruction that issues runs its body once and finishes.
-/
namespace Sys2Proof.Machine

theorem finish_ok (s s' : State) (t : StreamId) : s.finish t (.ok s') = s'.retire t := rfl
theorem finish_trap (s : State) (t : StreamId) (c : Byte) (a : Option Word) : s.finish t (.error (.trap c a)) = s.precise t c a := rfl
theorem finish_hold (s s' : State) (t : StreamId) : s.finish t (.error (.hold s')) = s' := rfl

/-- An instruction of format A that issues runs its body on the fields of the due repetition. -/
theorem issueA_issues {s : State} {t : StreamId} {e : Entry} {ok : FmtA → Bool} {f g : FmtA} (h : s.IssuesA t e ok f g)
    (body : StreamId → FmtA → State → Run State) : issueA e ok body f s = .next (s.finish t (body t g s)) := by
  have hd := h.due
  have once : s.onceA t e body g = s.finish t (body t g s) := by
    simp [State.onceA, h.write, h.readA, h.readC, Gate.and]
  unfold issueA
  rw [h.cur]
  simp only [State.runA, h.legal, h.fmt, Bool.or_self]
  unfold State.dueA at hd
  cases hr : (s.strm t).rep with
  | none => rw [hr] at hd; cases hd; simp [once]
  | some r =>
    rw [hr] at hd
    simp only at hd ⊢
    split at hd
    · cases hd
    · rename_i h0
      simp only [Bool.or_eq_true, decide_eq_true_eq, Bool.not_eq_true', not_or, Bool.not_eq_false] at h0
      obtain ⟨⟨⟨hq, hc⟩, hn⟩, hk⟩ := h0
      split at hd
      · rename_i h1; cases hd
        have hk' : ¬((!repOkA e.u (queueUseA e.op f) t.acc f r) = true) := by rw [hk]; decide
        simp only [Bool.false_eq_true, if_false]
        rw [if_neg hq, if_neg hc, if_neg hk', if_neg hn, if_pos h1, once]
      · cases hd

/-- An instruction of format V that issues runs its body on the fields of the due repetition. -/
theorem issueV_issues {s : State} {t : StreamId} {e : Entry} {f g : FmtV} (h : s.IssuesV t e f g)
    (body : StreamId → FmtV → State → Run (State × VEnd)) :
    issueV e body f s = .next (s.finishV t (packV e.op g) (body t g s)) := by
  have hd := h.due
  have once : s.onceV t e body g = s.finishV t (packV e.op g) (body t g s) := by
    simp only [State.onceV, h.write, h.read, Gate.and, h.sound]
    cases body t g s <;> rfl
  unfold issueV
  rw [h.cur]
  simp only [State.runV, h.legal, h.fmt, Bool.or_self]
  unfold State.dueV at hd
  cases hr : (s.strm t).rep with
  | none => rw [hr] at hd; cases hd; simp [once]
  | some r =>
    rw [hr] at hd
    simp only at hd ⊢
    split at hd
    · cases hd
    · rename_i h0
      simp only [Bool.or_eq_true, decide_eq_true_eq, Bool.not_eq_true', not_or, Bool.not_eq_false] at h0
      obtain ⟨⟨⟨hq, hc⟩, hn⟩, hk⟩ := h0
      cases hd
      have hk' : ¬((!repOkV e.u e.op t.acc f r) = true) := by rw [hk]; decide
      simp only [Bool.false_eq_true, if_false]
      rw [if_neg hq, if_neg hc, if_neg hk', if_neg hn, once]

theorem issueE_issues {s : State} {t : StreamId} {e : Entry} (h : s.IssuesE t e) (body : StreamId → FmtE → State → Run State) (f : FmtE) :
    issueE e body f s = .next (s.finish t (body t f s)) := by
  simp [issueE, h.cur, h.legal]

theorem issueB_issues {s : State} {t : StreamId} (h : s.IssuesB t) (body : StreamId → FmtB → State → Run Flow) (f : FmtB) :
    issueB body f s = .next (s.finishFlow t (do let fl ← body t f s; s.transfer t fl)) := by
  simp [issueB, h.cur, controlIllegal, h.exec, h.fmt, h.rep]

end Sys2Proof.Machine
end

