-- ==== Sys2Proof/Laws/Memory.lean ====
section
/-!
SUPPORT. Memory: a read after a write, what a write leaves alone, and that every memory operation keeps the canonical form.
-/
namespace Sys2Proof.Machine

/-! ### One byte -/

theorem Memory.wfFrom_mono : ∀ (m : Memory) {lo hi : Nat}, lo ≤ hi → m.wfFrom hi = true → m.wfFrom lo = true
  | [], _, _, _, _ => rfl
  | (k, v) :: m, lo, hi, h, w => by
    simp only [Memory.wfFrom, Bool.and_eq_true, decide_eq_true_eq] at w ⊢
    exact ⟨⟨by omega, w.1.2⟩, w.2⟩

/-- A canonical list that starts above an address does not list it. -/
theorem Memory.read_below : ∀ (m : Memory) {lo a : Nat}, m.wfFrom lo = true → a < lo → m.read a = unlisted
  | [], _, _, _, _ => rfl
  | (k, v) :: m, lo, a, w, h => by
    simp only [Memory.wfFrom, Bool.and_eq_true, decide_eq_true_eq] at w
    have : k ≠ a := by omega
    simp only [Memory.read, this, if_false]
    exact Memory.read_below m w.2 (by omega)

theorem Memory.read_write_ne : ∀ (m : Memory) {a b : Nat} (x : Byte), b ≠ a → (m.write a x).read b = m.read b
  | [], a, b, x, h => by
    unfold Memory.write; split
    · rfl
    · simp [Memory.read, Ne.symm h]
  | (k, v) :: m, a, b, x, h => by
    unfold Memory.write
    split
    · split
      · rfl
      · simp [Memory.read, Ne.symm h]
    · split
      · rename_i hk; subst hk
        split
        · simp [Memory.read, Ne.symm h]
        · simp [Memory.read, Ne.symm h]
      · simp only [Memory.read]; split
        · rfl
        · exact Memory.read_write_ne m x h

theorem Memory.read_write_same_from : ∀ (m : Memory) {lo a : Nat} (x : Byte), m.wfFrom lo = true → (m.write a x).read a = x
  | [], _, a, x, _ => by
    unfold Memory.write; split
    · rename_i h; simp [Memory.read, h]
    · simp [Memory.read]
  | (k, v) :: m, lo, a, x, w => by
    simp only [Memory.wfFrom, Bool.and_eq_true, decide_eq_true_eq] at w
    unfold Memory.write
    split
    · split
      · rename_i h hx
        have : k ≠ a := by omega
        simp only [Memory.read, this, if_false, hx]
        exact Memory.read_below m w.2 (by omega)
      · simp [Memory.read]
    · split
      · rename_i hk; subst hk
        split
        · rename_i hx; rw [hx]; exact Memory.read_below m w.2 (by omega)
        · simp [Memory.read]
      · have : k ≠ a := by omega
        simp only [Memory.read, this, if_false]
        exact Memory.read_write_same_from m x w.2

theorem Memory.read_write_same {m : Memory} (a : Nat) (x : Byte) (w : m.wf = true) : (m.write a x).read a = x :=
  Memory.read_write_same_from m x w

theorem Memory.wfFrom_write : ∀ (m : Memory) {lo a : Nat} (x : Byte), lo ≤ a → m.wfFrom lo = true → (m.write a x).wfFrom lo = true
  | [], lo, a, x, h, _ => by
    unfold Memory.write; split
    · rfl
    · rename_i hx; simp [Memory.wfFrom, h, hx]
  | (k, v) :: m, lo, a, x, h, w => by
    simp only [Memory.wfFrom, Bool.and_eq_true, decide_eq_true_eq] at w
    unfold Memory.write
    split
    · split
      · simp only [Memory.wfFrom, Bool.and_eq_true, decide_eq_true_eq]; exact w
      · rename_i hk hx
        have : a + 1 ≤ k := by omega
        simp [Memory.wfFrom, h, hx, this, w.1.2, w.2]
    · split
      · rename_i hk; subst hk
        split
        · exact Memory.wfFrom_mono m (by omega) w.2
        · rename_i hx; simp [Memory.wfFrom, h, hx, w.2]
      · simp only [Memory.wfFrom, Bool.and_eq_true, decide_eq_true_eq]
        exact ⟨w.1, Memory.wfFrom_write m x (by omega) w.2⟩

theorem Memory.wf_write {m : Memory} (a : Nat) (x : Byte) (w : m.wf = true) : (m.write a x).wf = true :=
  Memory.wfFrom_write m x (Nat.zero_le a) w

/-! ### Several bytes -/

theorem Memory.wf_writeNat : ∀ (n : Nat) {m : Memory} (a x : Nat), m.wf = true → (m.writeNat a n x).wf = true
  | 0, _, _, _, w => w
  | n + 1, _, a, x, w => Memory.wf_writeNat n (a + 1) (x / 256) (Memory.wf_write a _ w)

theorem Memory.read_writeNat_outside : ∀ (n : Nat) (m : Memory) {a b : Nat} (x : Nat), b < a ∨ a + n ≤ b →
    (m.writeNat a n x).read b = m.read b
  | 0, _, _, _, _, _ => rfl
  | n + 1, m, a, b, x, h => by
    have h1 : b < a + 1 ∨ a + 1 + n ≤ b := by omega
    rw [Memory.writeNat, Memory.read_writeNat_outside n _ _ h1, Memory.read_write_ne _ _ (by omega)]

theorem Memory.read_writeNat_inside : ∀ (n : Nat) {m : Memory} {a i : Nat} (x : Nat), m.wf = true → i < n →
    (m.writeNat a n x).read (a + i) = BitVec.ofNat 8 (x / 256 ^ i)
  | 0, _, _, _, _, _, h => absurd h (Nat.not_lt_zero _)
  | n + 1, m, a, 0, x, w, _ => by
    rw [Memory.writeNat, Memory.read_writeNat_outside n _ _ (by omega)]
    simp [Memory.read_write_same a _ w]
  | n + 1, m, a, i + 1, x, w, h => by
    have e : a + (i + 1) = a + 1 + i := by omega
    rw [Memory.writeNat, e, Memory.read_writeNat_inside n (x / 256) (Memory.wf_write a _ w) (by omega)]
    rw [Nat.div_div_eq_div_mul, Nat.pow_succ, Nat.mul_comm]

/-- A write of `n` bytes, said once: the bytes it covers and every other one. -/
theorem Memory.read_writeNat {m : Memory} (a n x b : Nat) (w : m.wf = true) :
    (m.writeNat a n x).read b = if a ≤ b ∧ b < a + n then BitVec.ofNat 8 (x / 256 ^ (b - a)) else m.read b := by
  split
  · rename_i h
    have e : b = a + (b - a) := by omega
    conv => lhs; rw [e]
    exact Memory.read_writeNat_inside n x w (by omega)
  · exact Memory.read_writeNat_outside n m x (by omega)

theorem Memory.readNat_congr : ∀ (n : Nat) {m m' : Memory} {a : Nat}, (∀ b, a ≤ b → b < a + n → m.read b = m'.read b) →
    m.readNat a n = m'.readNat a n
  | 0, _, _, _, _ => rfl
  | n + 1, m, m', a, h => by
    rw [Memory.readNat, Memory.readNat, h a (by omega) (by omega),
      Memory.readNat_congr n (fun b hb hb' => h b (by omega) (by omega))]

theorem Memory.readNat_writeNat_outside (m : Memory) {a n b k : Nat} (x : Nat) (h : b + k ≤ a ∨ a + n ≤ b) :
    (m.writeNat a n x).readNat b k = m.readNat b k :=
  Memory.readNat_congr k fun c hc hc' => Memory.read_writeNat_outside n m x (by omega)

/-- A read after a write to the same place gives the value written. -/
theorem Memory.readNat_writeNat_same : ∀ (n : Nat) {m : Memory} (a x : Nat), m.wf = true → (m.writeNat a n x).readNat a n = x % 256 ^ n
  | 0, _, _, _, _ => by simp [Memory.readNat, Nat.mod_one]
  | n + 1, m, a, x, w => by
    rw [Memory.readNat, Memory.writeNat, Memory.read_writeNat_outside n _ _ (by omega), Memory.read_write_same a _ w,
      Memory.readNat_writeNat_same n (a + 1) (x / 256) (Memory.wf_write a _ w), BitVec.toNat_ofNat, Nat.pow_succ (n := 256),
      Nat.mul_comm (256 ^ n) 256, Nat.mod_mul]

/-! ### Clearing -/

theorem Memory.wfFrom_filter (p : Host.Cell → Bool) : ∀ (m : Memory) {lo : Nat}, m.wfFrom lo = true → Memory.wfFrom lo (m.filter p) = true
  | [], _, _ => rfl
  | (k, v) :: m, lo, w => by
    simp only [Memory.wfFrom, Bool.and_eq_true, decide_eq_true_eq] at w
    have t := Memory.wfFrom_filter p m w.2
    rw [List.filter_cons]
    split
    · simp only [Memory.wfFrom, Bool.and_eq_true, decide_eq_true_eq]; exact ⟨w.1, t⟩
    · exact Memory.wfFrom_mono _ (by omega) t

theorem Memory.wf_clear {m : Memory} (a n : Nat) (w : m.wf = true) : (m.clear a n).wf = true := Memory.wfFrom_filter _ m w

theorem Memory.read_clear : ∀ (m : Memory) (a n b : Nat), (m.clear a n).read b = if a ≤ b ∧ b < a + n then unlisted else m.read b
  | [], a, n, b => by simp [Memory.clear, Memory.read]
  | (k, v) :: m, a, n, b => by
    have t := Memory.read_clear m a n b
    unfold Memory.clear at t ⊢
    rw [List.filter_cons]
    by_cases hk : a ≤ k ∧ k < a + n
    · simp only [hk.1, hk.2, decide_true, Bool.and_self, Bool.not_true, Bool.false_eq_true, if_false]
      rw [t]
      split
      · rfl
      · rename_i hb; have : k ≠ b := fun e => hb (e ▸ hk); simp [Memory.read, this]
    · have : (!(decide (a ≤ k) && decide (k < a + n))) = true := by
        simp only [Bool.not_eq_true', Bool.and_eq_false_iff, decide_eq_false_iff_not]; omega
      simp only [this, if_true, Memory.read]
      split
      · rename_i e; subst e; simp [hk]
      · exact t

/-! ### The operations of the state -/

/-- `store`, said once (R3). -/
theorem State.read_store (s : State) (k n x b : Nat) (w : s.mem.wf = true) :
    (s.store k n x).mem.read b = if k ≤ b ∧ b < k + n then BitVec.ofNat 8 (x / 256 ^ (b - k)) else s.mem.read b :=
  Memory.read_writeNat k n x b w

theorem State.wf_store (s : State) (k n x : Nat) (w : s.mem.wf = true) : (s.store k n x).mem.wf = true := Memory.wf_writeNat n k x w

theorem State.wf_setLocalWord (s : State) (p off : Nat) (x : Word) (w : s.mem.wf = true) : (s.setLocalWord p off x).mem.wf = true :=
  State.wf_store s _ _ _ w

theorem State.localWord_setLocalWord_same (s : State) (p off : Nat) (x : Word) (w : s.mem.wf = true) :
    (s.setLocalWord p off x).localWord p off = x := by
  unfold State.localWord State.setLocalWord State.store
  rw [Memory.readNat_writeNat_same 8 _ _ w]
  apply BitVec.eq_of_toNat_eq
  rw [BitVec.toNat_ofNat]
  have : x.toNat < 2 ^ 64 := x.isLt
  omega

theorem State.localWord_setLocalWord_ne (s : State) {p q off off' : Nat} (x : Word)
    (h : localKey q off' + 8 ≤ localKey p off ∨ localKey p off + 8 ≤ localKey q off') :
    (s.setLocalWord p off x).localWord q off' = s.localWord q off' := by
  unfold State.localWord State.setLocalWord State.store
  rw [Memory.readNat_writeNat_outside _ _ h]

theorem iter_wf (f : Nat → Memory → Memory) (hf : ∀ i m, m.wf = true → (f i m).wf = true) :
    ∀ (n : Nat) (m : Memory), m.wf = true → (iter n f m).wf = true
  | 0, _, w => w
  | n + 1, m, w => hf n _ (iter_wf f hf n m w)

theorem State.wf_scribble (s : State) (k n : Nat) (w : s.mem.wf = true) : (s.scribble k n).mem.wf = true :=
  iter_wf _ (fun i _ h => Memory.wf_write (k + i) _ h) n s.mem w

theorem iter_read_ne (f : Nat → Memory → Memory) (b : Nat) :
    ∀ (n : Nat) (m : Memory), (∀ i m, i < n → (f i m).read b = m.read b) → (iter n f m).read b = m.read b
  | 0, _, _ => rfl
  | n + 1, m, hf => by
    rw [iter, hf n _ (by omega)]
    exact iter_read_ne f b n m fun i m' h => hf i m' (by omega)

/-- `scribble` changes the bytes it names and no other. -/
theorem State.read_scribble_outside (s : State) (k n b : Nat) (h : b < k ∨ k + n ≤ b) : (s.scribble k n).mem.read b = s.mem.read b :=
  iter_read_ne _ b n s.mem fun i m (hi : i < n) => Memory.read_write_ne m _ (by omega)

theorem iter_state_wf (f : Nat → State → State) (hf : ∀ i s, s.mem.wf = true → (f i s).mem.wf = true) :
    ∀ (n : Nat) (s : State), s.mem.wf = true → (iter n f s).mem.wf = true
  | 0, _, w => w
  | n + 1, s, w => hf n _ (iter_state_wf f hf n s w)

theorem State.wf_writeFrame (s : State) (p off k : Nat) (sl : Slot) (w : s.mem.wf = true) : (s.writeFrame p off k sl).mem.wf = true :=
  iter_state_wf _ (fun i s h => State.wf_setLocalWord s p (off + 8 * i) _ h) _ s w

theorem State.wf_setLocalWords : ∀ (ws : List Word) (s : State) (p off : Nat), s.mem.wf = true → (s.setLocalWords p off ws).mem.wf = true
  | [], _, _, _, w => w
  | x :: ws, s, p, off, w => State.wf_setLocalWords ws _ p (off + 8) (State.wf_setLocalWord s p off x w)

theorem State.wf_reset : State.reset.mem.wf = true := rfl

end Sys2Proof.Machine
end

