-- ==== Sys2Proof/Laws/State.lean ====
section
/-!
SUPPORT. Updates of the state: what a field reads after each update, and a part of the state read after it is written.
-/
namespace Sys2Proof.Machine

/-! ### Every field that an update leaves alone -/

section
variable (s : State) (p : Nat) (c : Core)
@[simp] theorem State.setCore_agenda : (s.setCore p c).agenda = s.agenda := rfl
@[simp] theorem State.setCore_epoch : (s.setCore p c).epoch = s.epoch := rfl
@[simp] theorem State.setCore_free : (s.setCore p c).free = s.free := rfl
@[simp] theorem State.setCore_cur : (s.setCore p c).cur = s.cur := rfl
@[simp] theorem State.setCore_time : (s.setCore p c).time = s.time := rfl
@[simp] theorem State.setCore_module : (s.setCore p c).module = s.module := rfl
@[simp] theorem State.setCore_limit : (s.setCore p c).limit = s.limit := rfl
@[simp] theorem State.setCore_mem : (s.setCore p c).mem = s.mem := rfl
@[simp] theorem State.setCore_bad : (s.setCore p c).bad = s.bad := rfl
@[simp] theorem State.setCore_parts : (s.setCore p c).parts = s.parts := rfl
@[simp] theorem State.setCore_regions : (s.setCore p c).regions = s.regions := rfl
@[simp] theorem State.setCore_stations : (s.setCore p c).stations = s.stations := rfl
@[simp] theorem State.setCore_icache : (s.setCore p c).icache = s.icache := rfl
@[simp] theorem State.setCore_mesh : (s.setCore p c).mesh = s.mesh := rfl
@[simp] theorem State.setCore_succs : (s.setCore p c).succs = s.succs := rfl
@[simp] theorem State.setCore_collectors : (s.setCore p c).collectors = s.collectors := rfl
@[simp] theorem State.setCore_weltOut : (s.setCore p c).weltOut = s.weltOut := rfl
@[simp] theorem State.setCore_dies : (s.setCore p c).dies = s.dies := rfl
@[simp] theorem State.setCore_rampTime : (s.setCore p c).rampTime = s.rampTime := rfl
@[simp] theorem State.setCore_trip : (s.setCore p c).trip = s.trip := rfl
@[simp] theorem State.setCore_mode : (s.setCore p c).mode = s.mode := rfl
@[simp] theorem State.setCore_frozen : (s.setCore p c).frozen = s.frozen := rfl
@[simp] theorem State.setCore_mailbox : (s.setCore p c).mailbox = s.mailbox := rfl
@[simp] theorem State.setCore_gpids : (s.setCore p c).gpids = s.gpids := rfl
@[simp] theorem State.setCore_outbound : (s.setCore p c).outbound = s.outbound := rfl
@[simp] theorem State.setCore_halves : (s.setCore p c).halves = s.halves := rfl
@[simp] theorem State.setCore_links : (s.setCore p c).links = s.links := rfl
@[simp] theorem State.setCore_notices : (s.setCore p c).notices = s.notices := rfl
@[simp] theorem State.setCore_saved : (s.setCore p c).saved = s.saved := rfl
@[simp] theorem State.setCore_keys : (s.setCore p c).keys = s.keys := rfl
@[simp] theorem State.setCore_stepping : (s.setCore p c).stepping = s.stepping := rfl
@[simp] theorem State.setCore_metal : (s.setCore p c).metal = s.metal := rfl
@[simp] theorem State.setCore_io : (s.setCore p c).io = s.io := rfl
end

section
variable (s : State) (p : Nat) (f : Core → Core)
@[simp] theorem State.modCore_agenda : (s.modCore p f).agenda = s.agenda := rfl
@[simp] theorem State.modCore_epoch : (s.modCore p f).epoch = s.epoch := rfl
@[simp] theorem State.modCore_free : (s.modCore p f).free = s.free := rfl
@[simp] theorem State.modCore_cur : (s.modCore p f).cur = s.cur := rfl
@[simp] theorem State.modCore_time : (s.modCore p f).time = s.time := rfl
@[simp] theorem State.modCore_module : (s.modCore p f).module = s.module := rfl
@[simp] theorem State.modCore_limit : (s.modCore p f).limit = s.limit := rfl
@[simp] theorem State.modCore_mem : (s.modCore p f).mem = s.mem := rfl
@[simp] theorem State.modCore_bad : (s.modCore p f).bad = s.bad := rfl
@[simp] theorem State.modCore_parts : (s.modCore p f).parts = s.parts := rfl
@[simp] theorem State.modCore_regions : (s.modCore p f).regions = s.regions := rfl
@[simp] theorem State.modCore_stations : (s.modCore p f).stations = s.stations := rfl
@[simp] theorem State.modCore_icache : (s.modCore p f).icache = s.icache := rfl
@[simp] theorem State.modCore_mesh : (s.modCore p f).mesh = s.mesh := rfl
@[simp] theorem State.modCore_succs : (s.modCore p f).succs = s.succs := rfl
@[simp] theorem State.modCore_collectors : (s.modCore p f).collectors = s.collectors := rfl
@[simp] theorem State.modCore_weltOut : (s.modCore p f).weltOut = s.weltOut := rfl
@[simp] theorem State.modCore_dies : (s.modCore p f).dies = s.dies := rfl
@[simp] theorem State.modCore_rampTime : (s.modCore p f).rampTime = s.rampTime := rfl
@[simp] theorem State.modCore_trip : (s.modCore p f).trip = s.trip := rfl
@[simp] theorem State.modCore_mode : (s.modCore p f).mode = s.mode := rfl
@[simp] theorem State.modCore_frozen : (s.modCore p f).frozen = s.frozen := rfl
@[simp] theorem State.modCore_mailbox : (s.modCore p f).mailbox = s.mailbox := rfl
@[simp] theorem State.modCore_gpids : (s.modCore p f).gpids = s.gpids := rfl
@[simp] theorem State.modCore_outbound : (s.modCore p f).outbound = s.outbound := rfl
@[simp] theorem State.modCore_halves : (s.modCore p f).halves = s.halves := rfl
@[simp] theorem State.modCore_links : (s.modCore p f).links = s.links := rfl
@[simp] theorem State.modCore_notices : (s.modCore p f).notices = s.notices := rfl
@[simp] theorem State.modCore_saved : (s.modCore p f).saved = s.saved := rfl
@[simp] theorem State.modCore_keys : (s.modCore p f).keys = s.keys := rfl
@[simp] theorem State.modCore_stepping : (s.modCore p f).stepping = s.stepping := rfl
@[simp] theorem State.modCore_metal : (s.modCore p f).metal = s.metal := rfl
@[simp] theorem State.modCore_io : (s.modCore p f).io = s.io := rfl
end

section
variable (s : State) (t : StreamId) (sl : Slot)
@[simp] theorem State.setSlot_agenda : (s.setSlot t sl).agenda = s.agenda := rfl
@[simp] theorem State.setSlot_epoch : (s.setSlot t sl).epoch = s.epoch := rfl
@[simp] theorem State.setSlot_free : (s.setSlot t sl).free = s.free := rfl
@[simp] theorem State.setSlot_cur : (s.setSlot t sl).cur = s.cur := rfl
@[simp] theorem State.setSlot_time : (s.setSlot t sl).time = s.time := rfl
@[simp] theorem State.setSlot_module : (s.setSlot t sl).module = s.module := rfl
@[simp] theorem State.setSlot_limit : (s.setSlot t sl).limit = s.limit := rfl
@[simp] theorem State.setSlot_mem : (s.setSlot t sl).mem = s.mem := rfl
@[simp] theorem State.setSlot_bad : (s.setSlot t sl).bad = s.bad := rfl
@[simp] theorem State.setSlot_parts : (s.setSlot t sl).parts = s.parts := rfl
@[simp] theorem State.setSlot_regions : (s.setSlot t sl).regions = s.regions := rfl
@[simp] theorem State.setSlot_stations : (s.setSlot t sl).stations = s.stations := rfl
@[simp] theorem State.setSlot_icache : (s.setSlot t sl).icache = s.icache := rfl
@[simp] theorem State.setSlot_mesh : (s.setSlot t sl).mesh = s.mesh := rfl
@[simp] theorem State.setSlot_succs : (s.setSlot t sl).succs = s.succs := rfl
@[simp] theorem State.setSlot_collectors : (s.setSlot t sl).collectors = s.collectors := rfl
@[simp] theorem State.setSlot_weltOut : (s.setSlot t sl).weltOut = s.weltOut := rfl
@[simp] theorem State.setSlot_dies : (s.setSlot t sl).dies = s.dies := rfl
@[simp] theorem State.setSlot_rampTime : (s.setSlot t sl).rampTime = s.rampTime := rfl
@[simp] theorem State.setSlot_trip : (s.setSlot t sl).trip = s.trip := rfl
@[simp] theorem State.setSlot_mode : (s.setSlot t sl).mode = s.mode := rfl
@[simp] theorem State.setSlot_frozen : (s.setSlot t sl).frozen = s.frozen := rfl
@[simp] theorem State.setSlot_mailbox : (s.setSlot t sl).mailbox = s.mailbox := rfl
@[simp] theorem State.setSlot_gpids : (s.setSlot t sl).gpids = s.gpids := rfl
@[simp] theorem State.setSlot_outbound : (s.setSlot t sl).outbound = s.outbound := rfl
@[simp] theorem State.setSlot_halves : (s.setSlot t sl).halves = s.halves := rfl
@[simp] theorem State.setSlot_links : (s.setSlot t sl).links = s.links := rfl
@[simp] theorem State.setSlot_notices : (s.setSlot t sl).notices = s.notices := rfl
@[simp] theorem State.setSlot_saved : (s.setSlot t sl).saved = s.saved := rfl
@[simp] theorem State.setSlot_keys : (s.setSlot t sl).keys = s.keys := rfl
@[simp] theorem State.setSlot_stepping : (s.setSlot t sl).stepping = s.stepping := rfl
@[simp] theorem State.setSlot_metal : (s.setSlot t sl).metal = s.metal := rfl
@[simp] theorem State.setSlot_io : (s.setSlot t sl).io = s.io := rfl
end

section
variable (s : State) (t : StreamId) (f : Slot → Slot)
@[simp] theorem State.modSlot_agenda : (s.modSlot t f).agenda = s.agenda := rfl
@[simp] theorem State.modSlot_epoch : (s.modSlot t f).epoch = s.epoch := rfl
@[simp] theorem State.modSlot_free : (s.modSlot t f).free = s.free := rfl
@[simp] theorem State.modSlot_cur : (s.modSlot t f).cur = s.cur := rfl
@[simp] theorem State.modSlot_time : (s.modSlot t f).time = s.time := rfl
@[simp] theorem State.modSlot_module : (s.modSlot t f).module = s.module := rfl
@[simp] theorem State.modSlot_limit : (s.modSlot t f).limit = s.limit := rfl
@[simp] theorem State.modSlot_mem : (s.modSlot t f).mem = s.mem := rfl
@[simp] theorem State.modSlot_bad : (s.modSlot t f).bad = s.bad := rfl
@[simp] theorem State.modSlot_parts : (s.modSlot t f).parts = s.parts := rfl
@[simp] theorem State.modSlot_regions : (s.modSlot t f).regions = s.regions := rfl
@[simp] theorem State.modSlot_stations : (s.modSlot t f).stations = s.stations := rfl
@[simp] theorem State.modSlot_icache : (s.modSlot t f).icache = s.icache := rfl
@[simp] theorem State.modSlot_mesh : (s.modSlot t f).mesh = s.mesh := rfl
@[simp] theorem State.modSlot_succs : (s.modSlot t f).succs = s.succs := rfl
@[simp] theorem State.modSlot_collectors : (s.modSlot t f).collectors = s.collectors := rfl
@[simp] theorem State.modSlot_weltOut : (s.modSlot t f).weltOut = s.weltOut := rfl
@[simp] theorem State.modSlot_dies : (s.modSlot t f).dies = s.dies := rfl
@[simp] theorem State.modSlot_rampTime : (s.modSlot t f).rampTime = s.rampTime := rfl
@[simp] theorem State.modSlot_trip : (s.modSlot t f).trip = s.trip := rfl
@[simp] theorem State.modSlot_mode : (s.modSlot t f).mode = s.mode := rfl
@[simp] theorem State.modSlot_frozen : (s.modSlot t f).frozen = s.frozen := rfl
@[simp] theorem State.modSlot_mailbox : (s.modSlot t f).mailbox = s.mailbox := rfl
@[simp] theorem State.modSlot_gpids : (s.modSlot t f).gpids = s.gpids := rfl
@[simp] theorem State.modSlot_outbound : (s.modSlot t f).outbound = s.outbound := rfl
@[simp] theorem State.modSlot_halves : (s.modSlot t f).halves = s.halves := rfl
@[simp] theorem State.modSlot_links : (s.modSlot t f).links = s.links := rfl
@[simp] theorem State.modSlot_notices : (s.modSlot t f).notices = s.notices := rfl
@[simp] theorem State.modSlot_saved : (s.modSlot t f).saved = s.saved := rfl
@[simp] theorem State.modSlot_keys : (s.modSlot t f).keys = s.keys := rfl
@[simp] theorem State.modSlot_stepping : (s.modSlot t f).stepping = s.stepping := rfl
@[simp] theorem State.modSlot_metal : (s.modSlot t f).metal = s.metal := rfl
@[simp] theorem State.modSlot_io : (s.modSlot t f).io = s.io := rfl
end

section
variable (s : State) (t : StreamId) (st : Strm)
@[simp] theorem State.setStrm_agenda : (s.setStrm t st).agenda = s.agenda := rfl
@[simp] theorem State.setStrm_epoch : (s.setStrm t st).epoch = s.epoch := rfl
@[simp] theorem State.setStrm_free : (s.setStrm t st).free = s.free := rfl
@[simp] theorem State.setStrm_cur : (s.setStrm t st).cur = s.cur := rfl
@[simp] theorem State.setStrm_time : (s.setStrm t st).time = s.time := rfl
@[simp] theorem State.setStrm_module : (s.setStrm t st).module = s.module := rfl
@[simp] theorem State.setStrm_limit : (s.setStrm t st).limit = s.limit := rfl
@[simp] theorem State.setStrm_mem : (s.setStrm t st).mem = s.mem := rfl
@[simp] theorem State.setStrm_bad : (s.setStrm t st).bad = s.bad := rfl
@[simp] theorem State.setStrm_parts : (s.setStrm t st).parts = s.parts := rfl
@[simp] theorem State.setStrm_regions : (s.setStrm t st).regions = s.regions := rfl
@[simp] theorem State.setStrm_stations : (s.setStrm t st).stations = s.stations := rfl
@[simp] theorem State.setStrm_icache : (s.setStrm t st).icache = s.icache := rfl
@[simp] theorem State.setStrm_mesh : (s.setStrm t st).mesh = s.mesh := rfl
@[simp] theorem State.setStrm_succs : (s.setStrm t st).succs = s.succs := rfl
@[simp] theorem State.setStrm_collectors : (s.setStrm t st).collectors = s.collectors := rfl
@[simp] theorem State.setStrm_weltOut : (s.setStrm t st).weltOut = s.weltOut := rfl
@[simp] theorem State.setStrm_dies : (s.setStrm t st).dies = s.dies := rfl
@[simp] theorem State.setStrm_rampTime : (s.setStrm t st).rampTime = s.rampTime := rfl
@[simp] theorem State.setStrm_trip : (s.setStrm t st).trip = s.trip := rfl
@[simp] theorem State.setStrm_mode : (s.setStrm t st).mode = s.mode := rfl
@[simp] theorem State.setStrm_frozen : (s.setStrm t st).frozen = s.frozen := rfl
@[simp] theorem State.setStrm_mailbox : (s.setStrm t st).mailbox = s.mailbox := rfl
@[simp] theorem State.setStrm_gpids : (s.setStrm t st).gpids = s.gpids := rfl
@[simp] theorem State.setStrm_outbound : (s.setStrm t st).outbound = s.outbound := rfl
@[simp] theorem State.setStrm_halves : (s.setStrm t st).halves = s.halves := rfl
@[simp] theorem State.setStrm_links : (s.setStrm t st).links = s.links := rfl
@[simp] theorem State.setStrm_notices : (s.setStrm t st).notices = s.notices := rfl
@[simp] theorem State.setStrm_saved : (s.setStrm t st).saved = s.saved := rfl
@[simp] theorem State.setStrm_keys : (s.setStrm t st).keys = s.keys := rfl
@[simp] theorem State.setStrm_stepping : (s.setStrm t st).stepping = s.stepping := rfl
@[simp] theorem State.setStrm_metal : (s.setStrm t st).metal = s.metal := rfl
@[simp] theorem State.setStrm_io : (s.setStrm t st).io = s.io := rfl
end

section
variable (s : State) (t : StreamId) (f : Strm → Strm)
@[simp] theorem State.modStrm_agenda : (s.modStrm t f).agenda = s.agenda := rfl
@[simp] theorem State.modStrm_epoch : (s.modStrm t f).epoch = s.epoch := rfl
@[simp] theorem State.modStrm_free : (s.modStrm t f).free = s.free := rfl
@[simp] theorem State.modStrm_cur : (s.modStrm t f).cur = s.cur := rfl
@[simp] theorem State.modStrm_time : (s.modStrm t f).time = s.time := rfl
@[simp] theorem State.modStrm_module : (s.modStrm t f).module = s.module := rfl
@[simp] theorem State.modStrm_limit : (s.modStrm t f).limit = s.limit := rfl
@[simp] theorem State.modStrm_mem : (s.modStrm t f).mem = s.mem := rfl
@[simp] theorem State.modStrm_bad : (s.modStrm t f).bad = s.bad := rfl
@[simp] theorem State.modStrm_parts : (s.modStrm t f).parts = s.parts := rfl
@[simp] theorem State.modStrm_regions : (s.modStrm t f).regions = s.regions := rfl
@[simp] theorem State.modStrm_stations : (s.modStrm t f).stations = s.stations := rfl
@[simp] theorem State.modStrm_icache : (s.modStrm t f).icache = s.icache := rfl
@[simp] theorem State.modStrm_mesh : (s.modStrm t f).mesh = s.mesh := rfl
@[simp] theorem State.modStrm_succs : (s.modStrm t f).succs = s.succs := rfl
@[simp] theorem State.modStrm_collectors : (s.modStrm t f).collectors = s.collectors := rfl
@[simp] theorem State.modStrm_weltOut : (s.modStrm t f).weltOut = s.weltOut := rfl
@[simp] theorem State.modStrm_dies : (s.modStrm t f).dies = s.dies := rfl
@[simp] theorem State.modStrm_rampTime : (s.modStrm t f).rampTime = s.rampTime := rfl
@[simp] theorem State.modStrm_trip : (s.modStrm t f).trip = s.trip := rfl
@[simp] theorem State.modStrm_mode : (s.modStrm t f).mode = s.mode := rfl
@[simp] theorem State.modStrm_frozen : (s.modStrm t f).frozen = s.frozen := rfl
@[simp] theorem State.modStrm_mailbox : (s.modStrm t f).mailbox = s.mailbox := rfl
@[simp] theorem State.modStrm_gpids : (s.modStrm t f).gpids = s.gpids := rfl
@[simp] theorem State.modStrm_outbound : (s.modStrm t f).outbound = s.outbound := rfl
@[simp] theorem State.modStrm_halves : (s.modStrm t f).halves = s.halves := rfl
@[simp] theorem State.modStrm_links : (s.modStrm t f).links = s.links := rfl
@[simp] theorem State.modStrm_notices : (s.modStrm t f).notices = s.notices := rfl
@[simp] theorem State.modStrm_saved : (s.modStrm t f).saved = s.saved := rfl
@[simp] theorem State.modStrm_keys : (s.modStrm t f).keys = s.keys := rfl
@[simp] theorem State.modStrm_stepping : (s.modStrm t f).stepping = s.stepping := rfl
@[simp] theorem State.modStrm_metal : (s.modStrm t f).metal = s.metal := rfl
@[simp] theorem State.modStrm_io : (s.modStrm t f).io = s.io := rfl
end

section
variable (s : State) (t : StreamId) (r : BitVec 5) (x : Vec)
@[simp] theorem State.setVreg_agenda : (s.setVreg t r x).agenda = s.agenda := rfl
@[simp] theorem State.setVreg_epoch : (s.setVreg t r x).epoch = s.epoch := rfl
@[simp] theorem State.setVreg_free : (s.setVreg t r x).free = s.free := rfl
@[simp] theorem State.setVreg_cur : (s.setVreg t r x).cur = s.cur := rfl
@[simp] theorem State.setVreg_time : (s.setVreg t r x).time = s.time := rfl
@[simp] theorem State.setVreg_module : (s.setVreg t r x).module = s.module := rfl
@[simp] theorem State.setVreg_limit : (s.setVreg t r x).limit = s.limit := rfl
@[simp] theorem State.setVreg_mem : (s.setVreg t r x).mem = s.mem := rfl
@[simp] theorem State.setVreg_bad : (s.setVreg t r x).bad = s.bad := rfl
@[simp] theorem State.setVreg_parts : (s.setVreg t r x).parts = s.parts := rfl
@[simp] theorem State.setVreg_regions : (s.setVreg t r x).regions = s.regions := rfl
@[simp] theorem State.setVreg_stations : (s.setVreg t r x).stations = s.stations := rfl
@[simp] theorem State.setVreg_icache : (s.setVreg t r x).icache = s.icache := rfl
@[simp] theorem State.setVreg_mesh : (s.setVreg t r x).mesh = s.mesh := rfl
@[simp] theorem State.setVreg_succs : (s.setVreg t r x).succs = s.succs := rfl
@[simp] theorem State.setVreg_collectors : (s.setVreg t r x).collectors = s.collectors := rfl
@[simp] theorem State.setVreg_weltOut : (s.setVreg t r x).weltOut = s.weltOut := rfl
@[simp] theorem State.setVreg_dies : (s.setVreg t r x).dies = s.dies := rfl
@[simp] theorem State.setVreg_rampTime : (s.setVreg t r x).rampTime = s.rampTime := rfl
@[simp] theorem State.setVreg_trip : (s.setVreg t r x).trip = s.trip := rfl
@[simp] theorem State.setVreg_mode : (s.setVreg t r x).mode = s.mode := rfl
@[simp] theorem State.setVreg_frozen : (s.setVreg t r x).frozen = s.frozen := rfl
@[simp] theorem State.setVreg_mailbox : (s.setVreg t r x).mailbox = s.mailbox := rfl
@[simp] theorem State.setVreg_gpids : (s.setVreg t r x).gpids = s.gpids := rfl
@[simp] theorem State.setVreg_outbound : (s.setVreg t r x).outbound = s.outbound := rfl
@[simp] theorem State.setVreg_halves : (s.setVreg t r x).halves = s.halves := rfl
@[simp] theorem State.setVreg_links : (s.setVreg t r x).links = s.links := rfl
@[simp] theorem State.setVreg_notices : (s.setVreg t r x).notices = s.notices := rfl
@[simp] theorem State.setVreg_saved : (s.setVreg t r x).saved = s.saved := rfl
@[simp] theorem State.setVreg_keys : (s.setVreg t r x).keys = s.keys := rfl
@[simp] theorem State.setVreg_stepping : (s.setVreg t r x).stepping = s.stepping := rfl
@[simp] theorem State.setVreg_metal : (s.setVreg t r x).metal = s.metal := rfl
@[simp] theorem State.setVreg_io : (s.setVreg t r x).io = s.io := rfl
end

section
variable (s : State) (t : StreamId) (r : BitVec 6) (x : Word)
@[simp] theorem State.setReg_agenda : (s.setReg t r x).agenda = s.agenda := rfl
@[simp] theorem State.setReg_epoch : (s.setReg t r x).epoch = s.epoch := rfl
@[simp] theorem State.setReg_free : (s.setReg t r x).free = s.free := rfl
@[simp] theorem State.setReg_cur : (s.setReg t r x).cur = s.cur := rfl
@[simp] theorem State.setReg_time : (s.setReg t r x).time = s.time := rfl
@[simp] theorem State.setReg_module : (s.setReg t r x).module = s.module := rfl
@[simp] theorem State.setReg_limit : (s.setReg t r x).limit = s.limit := rfl
@[simp] theorem State.setReg_mem : (s.setReg t r x).mem = s.mem := rfl
@[simp] theorem State.setReg_bad : (s.setReg t r x).bad = s.bad := rfl
@[simp] theorem State.setReg_parts : (s.setReg t r x).parts = s.parts := rfl
@[simp] theorem State.setReg_regions : (s.setReg t r x).regions = s.regions := rfl
@[simp] theorem State.setReg_stations : (s.setReg t r x).stations = s.stations := rfl
@[simp] theorem State.setReg_icache : (s.setReg t r x).icache = s.icache := rfl
@[simp] theorem State.setReg_mesh : (s.setReg t r x).mesh = s.mesh := rfl
@[simp] theorem State.setReg_succs : (s.setReg t r x).succs = s.succs := rfl
@[simp] theorem State.setReg_collectors : (s.setReg t r x).collectors = s.collectors := rfl
@[simp] theorem State.setReg_weltOut : (s.setReg t r x).weltOut = s.weltOut := rfl
@[simp] theorem State.setReg_dies : (s.setReg t r x).dies = s.dies := rfl
@[simp] theorem State.setReg_rampTime : (s.setReg t r x).rampTime = s.rampTime := rfl
@[simp] theorem State.setReg_trip : (s.setReg t r x).trip = s.trip := rfl
@[simp] theorem State.setReg_mode : (s.setReg t r x).mode = s.mode := rfl
@[simp] theorem State.setReg_frozen : (s.setReg t r x).frozen = s.frozen := rfl
@[simp] theorem State.setReg_mailbox : (s.setReg t r x).mailbox = s.mailbox := rfl
@[simp] theorem State.setReg_gpids : (s.setReg t r x).gpids = s.gpids := rfl
@[simp] theorem State.setReg_outbound : (s.setReg t r x).outbound = s.outbound := rfl
@[simp] theorem State.setReg_halves : (s.setReg t r x).halves = s.halves := rfl
@[simp] theorem State.setReg_links : (s.setReg t r x).links = s.links := rfl
@[simp] theorem State.setReg_notices : (s.setReg t r x).notices = s.notices := rfl
@[simp] theorem State.setReg_saved : (s.setReg t r x).saved = s.saved := rfl
@[simp] theorem State.setReg_keys : (s.setReg t r x).keys = s.keys := rfl
@[simp] theorem State.setReg_stepping : (s.setReg t r x).stepping = s.stepping := rfl
@[simp] theorem State.setReg_metal : (s.setReg t r x).metal = s.metal := rfl
@[simp] theorem State.setReg_io : (s.setReg t r x).io = s.io := rfl
end

section
variable (s : State) (t : StreamId) (k : Nat)
@[simp] theorem State.pop_agenda : (s.pop t k).agenda = s.agenda := rfl
@[simp] theorem State.pop_epoch : (s.pop t k).epoch = s.epoch := rfl
@[simp] theorem State.pop_free : (s.pop t k).free = s.free := rfl
@[simp] theorem State.pop_cur : (s.pop t k).cur = s.cur := rfl
@[simp] theorem State.pop_time : (s.pop t k).time = s.time := rfl
@[simp] theorem State.pop_module : (s.pop t k).module = s.module := rfl
@[simp] theorem State.pop_limit : (s.pop t k).limit = s.limit := rfl
@[simp] theorem State.pop_mem : (s.pop t k).mem = s.mem := rfl
@[simp] theorem State.pop_bad : (s.pop t k).bad = s.bad := rfl
@[simp] theorem State.pop_parts : (s.pop t k).parts = s.parts := rfl
@[simp] theorem State.pop_regions : (s.pop t k).regions = s.regions := rfl
@[simp] theorem State.pop_stations : (s.pop t k).stations = s.stations := rfl
@[simp] theorem State.pop_icache : (s.pop t k).icache = s.icache := rfl
@[simp] theorem State.pop_mesh : (s.pop t k).mesh = s.mesh := rfl
@[simp] theorem State.pop_succs : (s.pop t k).succs = s.succs := rfl
@[simp] theorem State.pop_collectors : (s.pop t k).collectors = s.collectors := rfl
@[simp] theorem State.pop_weltOut : (s.pop t k).weltOut = s.weltOut := rfl
@[simp] theorem State.pop_dies : (s.pop t k).dies = s.dies := rfl
@[simp] theorem State.pop_rampTime : (s.pop t k).rampTime = s.rampTime := rfl
@[simp] theorem State.pop_trip : (s.pop t k).trip = s.trip := rfl
@[simp] theorem State.pop_mode : (s.pop t k).mode = s.mode := rfl
@[simp] theorem State.pop_frozen : (s.pop t k).frozen = s.frozen := rfl
@[simp] theorem State.pop_mailbox : (s.pop t k).mailbox = s.mailbox := rfl
@[simp] theorem State.pop_gpids : (s.pop t k).gpids = s.gpids := rfl
@[simp] theorem State.pop_outbound : (s.pop t k).outbound = s.outbound := rfl
@[simp] theorem State.pop_halves : (s.pop t k).halves = s.halves := rfl
@[simp] theorem State.pop_links : (s.pop t k).links = s.links := rfl
@[simp] theorem State.pop_notices : (s.pop t k).notices = s.notices := rfl
@[simp] theorem State.pop_saved : (s.pop t k).saved = s.saved := rfl
@[simp] theorem State.pop_keys : (s.pop t k).keys = s.keys := rfl
@[simp] theorem State.pop_stepping : (s.pop t k).stepping = s.stepping := rfl
@[simp] theorem State.pop_metal : (s.pop t k).metal = s.metal := rfl
@[simp] theorem State.pop_io : (s.pop t k).io = s.io := rfl
end

section
variable (s : State) (t : StreamId) (k : Nat) (x : Vec)
@[simp] theorem State.push_agenda : (s.push t k x).agenda = s.agenda := rfl
@[simp] theorem State.push_epoch : (s.push t k x).epoch = s.epoch := rfl
@[simp] theorem State.push_free : (s.push t k x).free = s.free := rfl
@[simp] theorem State.push_cur : (s.push t k x).cur = s.cur := rfl
@[simp] theorem State.push_time : (s.push t k x).time = s.time := rfl
@[simp] theorem State.push_module : (s.push t k x).module = s.module := rfl
@[simp] theorem State.push_limit : (s.push t k x).limit = s.limit := rfl
@[simp] theorem State.push_mem : (s.push t k x).mem = s.mem := rfl
@[simp] theorem State.push_bad : (s.push t k x).bad = s.bad := rfl
@[simp] theorem State.push_parts : (s.push t k x).parts = s.parts := rfl
@[simp] theorem State.push_regions : (s.push t k x).regions = s.regions := rfl
@[simp] theorem State.push_stations : (s.push t k x).stations = s.stations := rfl
@[simp] theorem State.push_icache : (s.push t k x).icache = s.icache := rfl
@[simp] theorem State.push_mesh : (s.push t k x).mesh = s.mesh := rfl
@[simp] theorem State.push_succs : (s.push t k x).succs = s.succs := rfl
@[simp] theorem State.push_collectors : (s.push t k x).collectors = s.collectors := rfl
@[simp] theorem State.push_weltOut : (s.push t k x).weltOut = s.weltOut := rfl
@[simp] theorem State.push_dies : (s.push t k x).dies = s.dies := rfl
@[simp] theorem State.push_rampTime : (s.push t k x).rampTime = s.rampTime := rfl
@[simp] theorem State.push_trip : (s.push t k x).trip = s.trip := rfl
@[simp] theorem State.push_mode : (s.push t k x).mode = s.mode := rfl
@[simp] theorem State.push_frozen : (s.push t k x).frozen = s.frozen := rfl
@[simp] theorem State.push_mailbox : (s.push t k x).mailbox = s.mailbox := rfl
@[simp] theorem State.push_gpids : (s.push t k x).gpids = s.gpids := rfl
@[simp] theorem State.push_outbound : (s.push t k x).outbound = s.outbound := rfl
@[simp] theorem State.push_halves : (s.push t k x).halves = s.halves := rfl
@[simp] theorem State.push_links : (s.push t k x).links = s.links := rfl
@[simp] theorem State.push_notices : (s.push t k x).notices = s.notices := rfl
@[simp] theorem State.push_saved : (s.push t k x).saved = s.saved := rfl
@[simp] theorem State.push_keys : (s.push t k x).keys = s.keys := rfl
@[simp] theorem State.push_stepping : (s.push t k x).stepping = s.stepping := rfl
@[simp] theorem State.push_metal : (s.push t k x).metal = s.metal := rfl
@[simp] theorem State.push_io : (s.push t k x).io = s.io := rfl
end

section
variable (s : State) (t : StreamId)
@[simp] theorem State.retire_agenda : (s.retire t).agenda = s.agenda := rfl
@[simp] theorem State.retire_epoch : (s.retire t).epoch = s.epoch := rfl
@[simp] theorem State.retire_free : (s.retire t).free = s.free := rfl
@[simp] theorem State.retire_cur : (s.retire t).cur = s.cur := rfl
@[simp] theorem State.retire_time : (s.retire t).time = s.time := rfl
@[simp] theorem State.retire_module : (s.retire t).module = s.module := rfl
@[simp] theorem State.retire_limit : (s.retire t).limit = s.limit := rfl
@[simp] theorem State.retire_mem : (s.retire t).mem = s.mem := rfl
@[simp] theorem State.retire_bad : (s.retire t).bad = s.bad := rfl
@[simp] theorem State.retire_parts : (s.retire t).parts = s.parts := rfl
@[simp] theorem State.retire_regions : (s.retire t).regions = s.regions := rfl
@[simp] theorem State.retire_stations : (s.retire t).stations = s.stations := rfl
@[simp] theorem State.retire_icache : (s.retire t).icache = s.icache := rfl
@[simp] theorem State.retire_mesh : (s.retire t).mesh = s.mesh := rfl
@[simp] theorem State.retire_succs : (s.retire t).succs = s.succs := rfl
@[simp] theorem State.retire_collectors : (s.retire t).collectors = s.collectors := rfl
@[simp] theorem State.retire_weltOut : (s.retire t).weltOut = s.weltOut := rfl
@[simp] theorem State.retire_dies : (s.retire t).dies = s.dies := rfl
@[simp] theorem State.retire_rampTime : (s.retire t).rampTime = s.rampTime := rfl
@[simp] theorem State.retire_trip : (s.retire t).trip = s.trip := rfl
@[simp] theorem State.retire_mode : (s.retire t).mode = s.mode := rfl
@[simp] theorem State.retire_frozen : (s.retire t).frozen = s.frozen := rfl
@[simp] theorem State.retire_mailbox : (s.retire t).mailbox = s.mailbox := rfl
@[simp] theorem State.retire_gpids : (s.retire t).gpids = s.gpids := rfl
@[simp] theorem State.retire_outbound : (s.retire t).outbound = s.outbound := rfl
@[simp] theorem State.retire_halves : (s.retire t).halves = s.halves := rfl
@[simp] theorem State.retire_links : (s.retire t).links = s.links := rfl
@[simp] theorem State.retire_notices : (s.retire t).notices = s.notices := rfl
@[simp] theorem State.retire_saved : (s.retire t).saved = s.saved := rfl
@[simp] theorem State.retire_keys : (s.retire t).keys = s.keys := rfl
@[simp] theorem State.retire_stepping : (s.retire t).stepping = s.stepping := rfl
@[simp] theorem State.retire_metal : (s.retire t).metal = s.metal := rfl
@[simp] theorem State.retire_io : (s.retire t).io = s.io := rfl
end

section
variable (s : State) (t : StreamId)
@[simp] theorem State.stopStreams_agenda : (s.stopStreams t).agenda = s.agenda := rfl
@[simp] theorem State.stopStreams_epoch : (s.stopStreams t).epoch = s.epoch := rfl
@[simp] theorem State.stopStreams_free : (s.stopStreams t).free = s.free := rfl
@[simp] theorem State.stopStreams_cur : (s.stopStreams t).cur = s.cur := rfl
@[simp] theorem State.stopStreams_time : (s.stopStreams t).time = s.time := rfl
@[simp] theorem State.stopStreams_module : (s.stopStreams t).module = s.module := rfl
@[simp] theorem State.stopStreams_limit : (s.stopStreams t).limit = s.limit := rfl
@[simp] theorem State.stopStreams_mem : (s.stopStreams t).mem = s.mem := rfl
@[simp] theorem State.stopStreams_bad : (s.stopStreams t).bad = s.bad := rfl
@[simp] theorem State.stopStreams_parts : (s.stopStreams t).parts = s.parts := rfl
@[simp] theorem State.stopStreams_regions : (s.stopStreams t).regions = s.regions := rfl
@[simp] theorem State.stopStreams_stations : (s.stopStreams t).stations = s.stations := rfl
@[simp] theorem State.stopStreams_icache : (s.stopStreams t).icache = s.icache := rfl
@[simp] theorem State.stopStreams_mesh : (s.stopStreams t).mesh = s.mesh := rfl
@[simp] theorem State.stopStreams_succs : (s.stopStreams t).succs = s.succs := rfl
@[simp] theorem State.stopStreams_collectors : (s.stopStreams t).collectors = s.collectors := rfl
@[simp] theorem State.stopStreams_weltOut : (s.stopStreams t).weltOut = s.weltOut := rfl
@[simp] theorem State.stopStreams_dies : (s.stopStreams t).dies = s.dies := rfl
@[simp] theorem State.stopStreams_rampTime : (s.stopStreams t).rampTime = s.rampTime := rfl
@[simp] theorem State.stopStreams_trip : (s.stopStreams t).trip = s.trip := rfl
@[simp] theorem State.stopStreams_mode : (s.stopStreams t).mode = s.mode := rfl
@[simp] theorem State.stopStreams_frozen : (s.stopStreams t).frozen = s.frozen := rfl
@[simp] theorem State.stopStreams_mailbox : (s.stopStreams t).mailbox = s.mailbox := rfl
@[simp] theorem State.stopStreams_gpids : (s.stopStreams t).gpids = s.gpids := rfl
@[simp] theorem State.stopStreams_outbound : (s.stopStreams t).outbound = s.outbound := rfl
@[simp] theorem State.stopStreams_halves : (s.stopStreams t).halves = s.halves := rfl
@[simp] theorem State.stopStreams_links : (s.stopStreams t).links = s.links := rfl
@[simp] theorem State.stopStreams_notices : (s.stopStreams t).notices = s.notices := rfl
@[simp] theorem State.stopStreams_saved : (s.stopStreams t).saved = s.saved := rfl
@[simp] theorem State.stopStreams_keys : (s.stopStreams t).keys = s.keys := rfl
@[simp] theorem State.stopStreams_stepping : (s.stopStreams t).stepping = s.stepping := rfl
@[simp] theorem State.stopStreams_metal : (s.stopStreams t).metal = s.metal := rfl
@[simp] theorem State.stopStreams_io : (s.stopStreams t).io = s.io := rfl
end

section
variable (s : State) (tag : Nat) (p : Part)
@[simp] theorem State.setPart_agenda : (s.setPart tag p).agenda = s.agenda := rfl
@[simp] theorem State.setPart_epoch : (s.setPart tag p).epoch = s.epoch := rfl
@[simp] theorem State.setPart_free : (s.setPart tag p).free = s.free := rfl
@[simp] theorem State.setPart_cur : (s.setPart tag p).cur = s.cur := rfl
@[simp] theorem State.setPart_time : (s.setPart tag p).time = s.time := rfl
@[simp] theorem State.setPart_module : (s.setPart tag p).module = s.module := rfl
@[simp] theorem State.setPart_limit : (s.setPart tag p).limit = s.limit := rfl
@[simp] theorem State.setPart_mem : (s.setPart tag p).mem = s.mem := rfl
@[simp] theorem State.setPart_bad : (s.setPart tag p).bad = s.bad := rfl
@[simp] theorem State.setPart_cores : (s.setPart tag p).cores = s.cores := rfl
@[simp] theorem State.setPart_regions : (s.setPart tag p).regions = s.regions := rfl
@[simp] theorem State.setPart_stations : (s.setPart tag p).stations = s.stations := rfl
@[simp] theorem State.setPart_icache : (s.setPart tag p).icache = s.icache := rfl
@[simp] theorem State.setPart_mesh : (s.setPart tag p).mesh = s.mesh := rfl
@[simp] theorem State.setPart_succs : (s.setPart tag p).succs = s.succs := rfl
@[simp] theorem State.setPart_collectors : (s.setPart tag p).collectors = s.collectors := rfl
@[simp] theorem State.setPart_weltOut : (s.setPart tag p).weltOut = s.weltOut := rfl
@[simp] theorem State.setPart_dies : (s.setPart tag p).dies = s.dies := rfl
@[simp] theorem State.setPart_rampTime : (s.setPart tag p).rampTime = s.rampTime := rfl
@[simp] theorem State.setPart_trip : (s.setPart tag p).trip = s.trip := rfl
@[simp] theorem State.setPart_mode : (s.setPart tag p).mode = s.mode := rfl
@[simp] theorem State.setPart_frozen : (s.setPart tag p).frozen = s.frozen := rfl
@[simp] theorem State.setPart_mailbox : (s.setPart tag p).mailbox = s.mailbox := rfl
@[simp] theorem State.setPart_gpids : (s.setPart tag p).gpids = s.gpids := rfl
@[simp] theorem State.setPart_outbound : (s.setPart tag p).outbound = s.outbound := rfl
@[simp] theorem State.setPart_halves : (s.setPart tag p).halves = s.halves := rfl
@[simp] theorem State.setPart_links : (s.setPart tag p).links = s.links := rfl
@[simp] theorem State.setPart_notices : (s.setPart tag p).notices = s.notices := rfl
@[simp] theorem State.setPart_saved : (s.setPart tag p).saved = s.saved := rfl
@[simp] theorem State.setPart_keys : (s.setPart tag p).keys = s.keys := rfl
@[simp] theorem State.setPart_stepping : (s.setPart tag p).stepping = s.stepping := rfl
@[simp] theorem State.setPart_metal : (s.setPart tag p).metal = s.metal := rfl
@[simp] theorem State.setPart_io : (s.setPart tag p).io = s.io := rfl
end

section
variable (s : State) (tag : Nat) (f : Part → Part)
@[simp] theorem State.modPart_agenda : (s.modPart tag f).agenda = s.agenda := rfl
@[simp] theorem State.modPart_epoch : (s.modPart tag f).epoch = s.epoch := rfl
@[simp] theorem State.modPart_free : (s.modPart tag f).free = s.free := rfl
@[simp] theorem State.modPart_cur : (s.modPart tag f).cur = s.cur := rfl
@[simp] theorem State.modPart_time : (s.modPart tag f).time = s.time := rfl
@[simp] theorem State.modPart_module : (s.modPart tag f).module = s.module := rfl
@[simp] theorem State.modPart_limit : (s.modPart tag f).limit = s.limit := rfl
@[simp] theorem State.modPart_mem : (s.modPart tag f).mem = s.mem := rfl
@[simp] theorem State.modPart_bad : (s.modPart tag f).bad = s.bad := rfl
@[simp] theorem State.modPart_cores : (s.modPart tag f).cores = s.cores := rfl
@[simp] theorem State.modPart_regions : (s.modPart tag f).regions = s.regions := rfl
@[simp] theorem State.modPart_stations : (s.modPart tag f).stations = s.stations := rfl
@[simp] theorem State.modPart_icache : (s.modPart tag f).icache = s.icache := rfl
@[simp] theorem State.modPart_mesh : (s.modPart tag f).mesh = s.mesh := rfl
@[simp] theorem State.modPart_succs : (s.modPart tag f).succs = s.succs := rfl
@[simp] theorem State.modPart_collectors : (s.modPart tag f).collectors = s.collectors := rfl
@[simp] theorem State.modPart_weltOut : (s.modPart tag f).weltOut = s.weltOut := rfl
@[simp] theorem State.modPart_dies : (s.modPart tag f).dies = s.dies := rfl
@[simp] theorem State.modPart_rampTime : (s.modPart tag f).rampTime = s.rampTime := rfl
@[simp] theorem State.modPart_trip : (s.modPart tag f).trip = s.trip := rfl
@[simp] theorem State.modPart_mode : (s.modPart tag f).mode = s.mode := rfl
@[simp] theorem State.modPart_frozen : (s.modPart tag f).frozen = s.frozen := rfl
@[simp] theorem State.modPart_mailbox : (s.modPart tag f).mailbox = s.mailbox := rfl
@[simp] theorem State.modPart_gpids : (s.modPart tag f).gpids = s.gpids := rfl
@[simp] theorem State.modPart_outbound : (s.modPart tag f).outbound = s.outbound := rfl
@[simp] theorem State.modPart_halves : (s.modPart tag f).halves = s.halves := rfl
@[simp] theorem State.modPart_links : (s.modPart tag f).links = s.links := rfl
@[simp] theorem State.modPart_notices : (s.modPart tag f).notices = s.notices := rfl
@[simp] theorem State.modPart_saved : (s.modPart tag f).saved = s.saved := rfl
@[simp] theorem State.modPart_keys : (s.modPart tag f).keys = s.keys := rfl
@[simp] theorem State.modPart_stepping : (s.modPart tag f).stepping = s.stepping := rfl
@[simp] theorem State.modPart_metal : (s.modPart tag f).metal = s.metal := rfl
@[simp] theorem State.modPart_io : (s.modPart tag f).io = s.io := rfl
end

section
variable (s : State) (tag c : Nat) (f : Ctx → Ctx)
@[simp] theorem State.modCtx_agenda : (s.modCtx tag c f).agenda = s.agenda := rfl
@[simp] theorem State.modCtx_epoch : (s.modCtx tag c f).epoch = s.epoch := rfl
@[simp] theorem State.modCtx_free : (s.modCtx tag c f).free = s.free := rfl
@[simp] theorem State.modCtx_cur : (s.modCtx tag c f).cur = s.cur := rfl
@[simp] theorem State.modCtx_time : (s.modCtx tag c f).time = s.time := rfl
@[simp] theorem State.modCtx_module : (s.modCtx tag c f).module = s.module := rfl
@[simp] theorem State.modCtx_limit : (s.modCtx tag c f).limit = s.limit := rfl
@[simp] theorem State.modCtx_mem : (s.modCtx tag c f).mem = s.mem := rfl
@[simp] theorem State.modCtx_bad : (s.modCtx tag c f).bad = s.bad := rfl
@[simp] theorem State.modCtx_cores : (s.modCtx tag c f).cores = s.cores := rfl
@[simp] theorem State.modCtx_regions : (s.modCtx tag c f).regions = s.regions := rfl
@[simp] theorem State.modCtx_stations : (s.modCtx tag c f).stations = s.stations := rfl
@[simp] theorem State.modCtx_icache : (s.modCtx tag c f).icache = s.icache := rfl
@[simp] theorem State.modCtx_mesh : (s.modCtx tag c f).mesh = s.mesh := rfl
@[simp] theorem State.modCtx_succs : (s.modCtx tag c f).succs = s.succs := rfl
@[simp] theorem State.modCtx_collectors : (s.modCtx tag c f).collectors = s.collectors := rfl
@[simp] theorem State.modCtx_weltOut : (s.modCtx tag c f).weltOut = s.weltOut := rfl
@[simp] theorem State.modCtx_dies : (s.modCtx tag c f).dies = s.dies := rfl
@[simp] theorem State.modCtx_rampTime : (s.modCtx tag c f).rampTime = s.rampTime := rfl
@[simp] theorem State.modCtx_trip : (s.modCtx tag c f).trip = s.trip := rfl
@[simp] theorem State.modCtx_mode : (s.modCtx tag c f).mode = s.mode := rfl
@[simp] theorem State.modCtx_frozen : (s.modCtx tag c f).frozen = s.frozen := rfl
@[simp] theorem State.modCtx_mailbox : (s.modCtx tag c f).mailbox = s.mailbox := rfl
@[simp] theorem State.modCtx_gpids : (s.modCtx tag c f).gpids = s.gpids := rfl
@[simp] theorem State.modCtx_outbound : (s.modCtx tag c f).outbound = s.outbound := rfl
@[simp] theorem State.modCtx_halves : (s.modCtx tag c f).halves = s.halves := rfl
@[simp] theorem State.modCtx_links : (s.modCtx tag c f).links = s.links := rfl
@[simp] theorem State.modCtx_notices : (s.modCtx tag c f).notices = s.notices := rfl
@[simp] theorem State.modCtx_saved : (s.modCtx tag c f).saved = s.saved := rfl
@[simp] theorem State.modCtx_keys : (s.modCtx tag c f).keys = s.keys := rfl
@[simp] theorem State.modCtx_stepping : (s.modCtx tag c f).stepping = s.stepping := rfl
@[simp] theorem State.modCtx_metal : (s.modCtx tag c f).metal = s.metal := rfl
@[simp] theorem State.modCtx_io : (s.modCtx tag c f).io = s.io := rfl
end

section
variable (s : State) (k : Nat) (r : Region)
@[simp] theorem State.setRegion_agenda : (s.setRegion k r).agenda = s.agenda := rfl
@[simp] theorem State.setRegion_epoch : (s.setRegion k r).epoch = s.epoch := rfl
@[simp] theorem State.setRegion_free : (s.setRegion k r).free = s.free := rfl
@[simp] theorem State.setRegion_cur : (s.setRegion k r).cur = s.cur := rfl
@[simp] theorem State.setRegion_time : (s.setRegion k r).time = s.time := rfl
@[simp] theorem State.setRegion_module : (s.setRegion k r).module = s.module := rfl
@[simp] theorem State.setRegion_limit : (s.setRegion k r).limit = s.limit := rfl
@[simp] theorem State.setRegion_mem : (s.setRegion k r).mem = s.mem := rfl
@[simp] theorem State.setRegion_bad : (s.setRegion k r).bad = s.bad := rfl
@[simp] theorem State.setRegion_cores : (s.setRegion k r).cores = s.cores := rfl
@[simp] theorem State.setRegion_parts : (s.setRegion k r).parts = s.parts := rfl
@[simp] theorem State.setRegion_stations : (s.setRegion k r).stations = s.stations := rfl
@[simp] theorem State.setRegion_icache : (s.setRegion k r).icache = s.icache := rfl
@[simp] theorem State.setRegion_mesh : (s.setRegion k r).mesh = s.mesh := rfl
@[simp] theorem State.setRegion_succs : (s.setRegion k r).succs = s.succs := rfl
@[simp] theorem State.setRegion_collectors : (s.setRegion k r).collectors = s.collectors := rfl
@[simp] theorem State.setRegion_weltOut : (s.setRegion k r).weltOut = s.weltOut := rfl
@[simp] theorem State.setRegion_dies : (s.setRegion k r).dies = s.dies := rfl
@[simp] theorem State.setRegion_rampTime : (s.setRegion k r).rampTime = s.rampTime := rfl
@[simp] theorem State.setRegion_trip : (s.setRegion k r).trip = s.trip := rfl
@[simp] theorem State.setRegion_mode : (s.setRegion k r).mode = s.mode := rfl
@[simp] theorem State.setRegion_frozen : (s.setRegion k r).frozen = s.frozen := rfl
@[simp] theorem State.setRegion_mailbox : (s.setRegion k r).mailbox = s.mailbox := rfl
@[simp] theorem State.setRegion_gpids : (s.setRegion k r).gpids = s.gpids := rfl
@[simp] theorem State.setRegion_outbound : (s.setRegion k r).outbound = s.outbound := rfl
@[simp] theorem State.setRegion_halves : (s.setRegion k r).halves = s.halves := rfl
@[simp] theorem State.setRegion_links : (s.setRegion k r).links = s.links := rfl
@[simp] theorem State.setRegion_notices : (s.setRegion k r).notices = s.notices := rfl
@[simp] theorem State.setRegion_saved : (s.setRegion k r).saved = s.saved := rfl
@[simp] theorem State.setRegion_keys : (s.setRegion k r).keys = s.keys := rfl
@[simp] theorem State.setRegion_stepping : (s.setRegion k r).stepping = s.stepping := rfl
@[simp] theorem State.setRegion_metal : (s.setRegion k r).metal = s.metal := rfl
@[simp] theorem State.setRegion_io : (s.setRegion k r).io = s.io := rfl
end

section
variable (s : State) (n : Nat) (st : Station)
@[simp] theorem State.setStation_agenda : (s.setStation n st).agenda = s.agenda := rfl
@[simp] theorem State.setStation_epoch : (s.setStation n st).epoch = s.epoch := rfl
@[simp] theorem State.setStation_free : (s.setStation n st).free = s.free := rfl
@[simp] theorem State.setStation_cur : (s.setStation n st).cur = s.cur := rfl
@[simp] theorem State.setStation_time : (s.setStation n st).time = s.time := rfl
@[simp] theorem State.setStation_module : (s.setStation n st).module = s.module := rfl
@[simp] theorem State.setStation_limit : (s.setStation n st).limit = s.limit := rfl
@[simp] theorem State.setStation_mem : (s.setStation n st).mem = s.mem := rfl
@[simp] theorem State.setStation_bad : (s.setStation n st).bad = s.bad := rfl
@[simp] theorem State.setStation_cores : (s.setStation n st).cores = s.cores := rfl
@[simp] theorem State.setStation_parts : (s.setStation n st).parts = s.parts := rfl
@[simp] theorem State.setStation_regions : (s.setStation n st).regions = s.regions := rfl
@[simp] theorem State.setStation_icache : (s.setStation n st).icache = s.icache := rfl
@[simp] theorem State.setStation_mesh : (s.setStation n st).mesh = s.mesh := rfl
@[simp] theorem State.setStation_succs : (s.setStation n st).succs = s.succs := rfl
@[simp] theorem State.setStation_collectors : (s.setStation n st).collectors = s.collectors := rfl
@[simp] theorem State.setStation_weltOut : (s.setStation n st).weltOut = s.weltOut := rfl
@[simp] theorem State.setStation_dies : (s.setStation n st).dies = s.dies := rfl
@[simp] theorem State.setStation_rampTime : (s.setStation n st).rampTime = s.rampTime := rfl
@[simp] theorem State.setStation_trip : (s.setStation n st).trip = s.trip := rfl
@[simp] theorem State.setStation_mode : (s.setStation n st).mode = s.mode := rfl
@[simp] theorem State.setStation_frozen : (s.setStation n st).frozen = s.frozen := rfl
@[simp] theorem State.setStation_mailbox : (s.setStation n st).mailbox = s.mailbox := rfl
@[simp] theorem State.setStation_gpids : (s.setStation n st).gpids = s.gpids := rfl
@[simp] theorem State.setStation_outbound : (s.setStation n st).outbound = s.outbound := rfl
@[simp] theorem State.setStation_halves : (s.setStation n st).halves = s.halves := rfl
@[simp] theorem State.setStation_links : (s.setStation n st).links = s.links := rfl
@[simp] theorem State.setStation_notices : (s.setStation n st).notices = s.notices := rfl
@[simp] theorem State.setStation_saved : (s.setStation n st).saved = s.saved := rfl
@[simp] theorem State.setStation_keys : (s.setStation n st).keys = s.keys := rfl
@[simp] theorem State.setStation_stepping : (s.setStation n st).stepping = s.stepping := rfl
@[simp] theorem State.setStation_metal : (s.setStation n st).metal = s.metal := rfl
@[simp] theorem State.setStation_io : (s.setStation n st).io = s.io := rfl
end

section
variable (s : State) (h : Nat) (x : Half)
@[simp] theorem State.setHalf_agenda : (s.setHalf h x).agenda = s.agenda := rfl
@[simp] theorem State.setHalf_epoch : (s.setHalf h x).epoch = s.epoch := rfl
@[simp] theorem State.setHalf_free : (s.setHalf h x).free = s.free := rfl
@[simp] theorem State.setHalf_cur : (s.setHalf h x).cur = s.cur := rfl
@[simp] theorem State.setHalf_time : (s.setHalf h x).time = s.time := rfl
@[simp] theorem State.setHalf_module : (s.setHalf h x).module = s.module := rfl
@[simp] theorem State.setHalf_limit : (s.setHalf h x).limit = s.limit := rfl
@[simp] theorem State.setHalf_mem : (s.setHalf h x).mem = s.mem := rfl
@[simp] theorem State.setHalf_bad : (s.setHalf h x).bad = s.bad := rfl
@[simp] theorem State.setHalf_cores : (s.setHalf h x).cores = s.cores := rfl
@[simp] theorem State.setHalf_parts : (s.setHalf h x).parts = s.parts := rfl
@[simp] theorem State.setHalf_regions : (s.setHalf h x).regions = s.regions := rfl
@[simp] theorem State.setHalf_stations : (s.setHalf h x).stations = s.stations := rfl
@[simp] theorem State.setHalf_icache : (s.setHalf h x).icache = s.icache := rfl
@[simp] theorem State.setHalf_mesh : (s.setHalf h x).mesh = s.mesh := rfl
@[simp] theorem State.setHalf_succs : (s.setHalf h x).succs = s.succs := rfl
@[simp] theorem State.setHalf_collectors : (s.setHalf h x).collectors = s.collectors := rfl
@[simp] theorem State.setHalf_weltOut : (s.setHalf h x).weltOut = s.weltOut := rfl
@[simp] theorem State.setHalf_dies : (s.setHalf h x).dies = s.dies := rfl
@[simp] theorem State.setHalf_rampTime : (s.setHalf h x).rampTime = s.rampTime := rfl
@[simp] theorem State.setHalf_trip : (s.setHalf h x).trip = s.trip := rfl
@[simp] theorem State.setHalf_mode : (s.setHalf h x).mode = s.mode := rfl
@[simp] theorem State.setHalf_frozen : (s.setHalf h x).frozen = s.frozen := rfl
@[simp] theorem State.setHalf_mailbox : (s.setHalf h x).mailbox = s.mailbox := rfl
@[simp] theorem State.setHalf_gpids : (s.setHalf h x).gpids = s.gpids := rfl
@[simp] theorem State.setHalf_outbound : (s.setHalf h x).outbound = s.outbound := rfl
@[simp] theorem State.setHalf_links : (s.setHalf h x).links = s.links := rfl
@[simp] theorem State.setHalf_notices : (s.setHalf h x).notices = s.notices := rfl
@[simp] theorem State.setHalf_saved : (s.setHalf h x).saved = s.saved := rfl
@[simp] theorem State.setHalf_keys : (s.setHalf h x).keys = s.keys := rfl
@[simp] theorem State.setHalf_stepping : (s.setHalf h x).stepping = s.stepping := rfl
@[simp] theorem State.setHalf_metal : (s.setHalf h x).metal = s.metal := rfl
@[simp] theorem State.setHalf_io : (s.setHalf h x).io = s.io := rfl
end

section
variable (s : State) (tag : Nat) (l : Links)
@[simp] theorem State.setLink_agenda : (s.setLink tag l).agenda = s.agenda := rfl
@[simp] theorem State.setLink_epoch : (s.setLink tag l).epoch = s.epoch := rfl
@[simp] theorem State.setLink_free : (s.setLink tag l).free = s.free := rfl
@[simp] theorem State.setLink_cur : (s.setLink tag l).cur = s.cur := rfl
@[simp] theorem State.setLink_time : (s.setLink tag l).time = s.time := rfl
@[simp] theorem State.setLink_module : (s.setLink tag l).module = s.module := rfl
@[simp] theorem State.setLink_limit : (s.setLink tag l).limit = s.limit := rfl
@[simp] theorem State.setLink_mem : (s.setLink tag l).mem = s.mem := rfl
@[simp] theorem State.setLink_bad : (s.setLink tag l).bad = s.bad := rfl
@[simp] theorem State.setLink_cores : (s.setLink tag l).cores = s.cores := rfl
@[simp] theorem State.setLink_parts : (s.setLink tag l).parts = s.parts := rfl
@[simp] theorem State.setLink_regions : (s.setLink tag l).regions = s.regions := rfl
@[simp] theorem State.setLink_stations : (s.setLink tag l).stations = s.stations := rfl
@[simp] theorem State.setLink_icache : (s.setLink tag l).icache = s.icache := rfl
@[simp] theorem State.setLink_mesh : (s.setLink tag l).mesh = s.mesh := rfl
@[simp] theorem State.setLink_succs : (s.setLink tag l).succs = s.succs := rfl
@[simp] theorem State.setLink_collectors : (s.setLink tag l).collectors = s.collectors := rfl
@[simp] theorem State.setLink_weltOut : (s.setLink tag l).weltOut = s.weltOut := rfl
@[simp] theorem State.setLink_dies : (s.setLink tag l).dies = s.dies := rfl
@[simp] theorem State.setLink_rampTime : (s.setLink tag l).rampTime = s.rampTime := rfl
@[simp] theorem State.setLink_trip : (s.setLink tag l).trip = s.trip := rfl
@[simp] theorem State.setLink_mode : (s.setLink tag l).mode = s.mode := rfl
@[simp] theorem State.setLink_frozen : (s.setLink tag l).frozen = s.frozen := rfl
@[simp] theorem State.setLink_mailbox : (s.setLink tag l).mailbox = s.mailbox := rfl
@[simp] theorem State.setLink_gpids : (s.setLink tag l).gpids = s.gpids := rfl
@[simp] theorem State.setLink_outbound : (s.setLink tag l).outbound = s.outbound := rfl
@[simp] theorem State.setLink_halves : (s.setLink tag l).halves = s.halves := rfl
@[simp] theorem State.setLink_notices : (s.setLink tag l).notices = s.notices := rfl
@[simp] theorem State.setLink_saved : (s.setLink tag l).saved = s.saved := rfl
@[simp] theorem State.setLink_keys : (s.setLink tag l).keys = s.keys := rfl
@[simp] theorem State.setLink_stepping : (s.setLink tag l).stepping = s.stepping := rfl
@[simp] theorem State.setLink_metal : (s.setLink tag l).metal = s.metal := rfl
@[simp] theorem State.setLink_io : (s.setLink tag l).io = s.io := rfl
end

section
variable (s : State) (p : Packet)
@[simp] theorem State.inject_agenda : (s.inject p).agenda = s.agenda := rfl
@[simp] theorem State.inject_epoch : (s.inject p).epoch = s.epoch := rfl
@[simp] theorem State.inject_free : (s.inject p).free = s.free := rfl
@[simp] theorem State.inject_cur : (s.inject p).cur = s.cur := rfl
@[simp] theorem State.inject_time : (s.inject p).time = s.time := rfl
@[simp] theorem State.inject_module : (s.inject p).module = s.module := rfl
@[simp] theorem State.inject_limit : (s.inject p).limit = s.limit := rfl
@[simp] theorem State.inject_mem : (s.inject p).mem = s.mem := rfl
@[simp] theorem State.inject_bad : (s.inject p).bad = s.bad := rfl
@[simp] theorem State.inject_cores : (s.inject p).cores = s.cores := rfl
@[simp] theorem State.inject_parts : (s.inject p).parts = s.parts := rfl
@[simp] theorem State.inject_regions : (s.inject p).regions = s.regions := rfl
@[simp] theorem State.inject_stations : (s.inject p).stations = s.stations := rfl
@[simp] theorem State.inject_icache : (s.inject p).icache = s.icache := rfl
@[simp] theorem State.inject_succs : (s.inject p).succs = s.succs := rfl
@[simp] theorem State.inject_collectors : (s.inject p).collectors = s.collectors := rfl
@[simp] theorem State.inject_weltOut : (s.inject p).weltOut = s.weltOut := rfl
@[simp] theorem State.inject_dies : (s.inject p).dies = s.dies := rfl
@[simp] theorem State.inject_rampTime : (s.inject p).rampTime = s.rampTime := rfl
@[simp] theorem State.inject_trip : (s.inject p).trip = s.trip := rfl
@[simp] theorem State.inject_mode : (s.inject p).mode = s.mode := rfl
@[simp] theorem State.inject_frozen : (s.inject p).frozen = s.frozen := rfl
@[simp] theorem State.inject_mailbox : (s.inject p).mailbox = s.mailbox := rfl
@[simp] theorem State.inject_gpids : (s.inject p).gpids = s.gpids := rfl
@[simp] theorem State.inject_outbound : (s.inject p).outbound = s.outbound := rfl
@[simp] theorem State.inject_halves : (s.inject p).halves = s.halves := rfl
@[simp] theorem State.inject_links : (s.inject p).links = s.links := rfl
@[simp] theorem State.inject_notices : (s.inject p).notices = s.notices := rfl
@[simp] theorem State.inject_saved : (s.inject p).saved = s.saved := rfl
@[simp] theorem State.inject_keys : (s.inject p).keys = s.keys := rfl
@[simp] theorem State.inject_stepping : (s.inject p).stepping = s.stepping := rfl
@[simp] theorem State.inject_metal : (s.inject p).metal = s.metal := rfl
@[simp] theorem State.inject_io : (s.inject p).io = s.io := rfl
end

section
variable (s : State) (k n x : Nat)
@[simp] theorem State.store_agenda : (s.store k n x).agenda = s.agenda := rfl
@[simp] theorem State.store_epoch : (s.store k n x).epoch = s.epoch := rfl
@[simp] theorem State.store_free : (s.store k n x).free = s.free := rfl
@[simp] theorem State.store_cur : (s.store k n x).cur = s.cur := rfl
@[simp] theorem State.store_time : (s.store k n x).time = s.time := rfl
@[simp] theorem State.store_module : (s.store k n x).module = s.module := rfl
@[simp] theorem State.store_limit : (s.store k n x).limit = s.limit := rfl
@[simp] theorem State.store_cores : (s.store k n x).cores = s.cores := rfl
@[simp] theorem State.store_parts : (s.store k n x).parts = s.parts := rfl
@[simp] theorem State.store_regions : (s.store k n x).regions = s.regions := rfl
@[simp] theorem State.store_stations : (s.store k n x).stations = s.stations := rfl
@[simp] theorem State.store_icache : (s.store k n x).icache = s.icache := rfl
@[simp] theorem State.store_mesh : (s.store k n x).mesh = s.mesh := rfl
@[simp] theorem State.store_succs : (s.store k n x).succs = s.succs := rfl
@[simp] theorem State.store_collectors : (s.store k n x).collectors = s.collectors := rfl
@[simp] theorem State.store_weltOut : (s.store k n x).weltOut = s.weltOut := rfl
@[simp] theorem State.store_dies : (s.store k n x).dies = s.dies := rfl
@[simp] theorem State.store_rampTime : (s.store k n x).rampTime = s.rampTime := rfl
@[simp] theorem State.store_trip : (s.store k n x).trip = s.trip := rfl
@[simp] theorem State.store_mode : (s.store k n x).mode = s.mode := rfl
@[simp] theorem State.store_frozen : (s.store k n x).frozen = s.frozen := rfl
@[simp] theorem State.store_mailbox : (s.store k n x).mailbox = s.mailbox := rfl
@[simp] theorem State.store_gpids : (s.store k n x).gpids = s.gpids := rfl
@[simp] theorem State.store_outbound : (s.store k n x).outbound = s.outbound := rfl
@[simp] theorem State.store_halves : (s.store k n x).halves = s.halves := rfl
@[simp] theorem State.store_links : (s.store k n x).links = s.links := rfl
@[simp] theorem State.store_notices : (s.store k n x).notices = s.notices := rfl
@[simp] theorem State.store_saved : (s.store k n x).saved = s.saved := rfl
@[simp] theorem State.store_keys : (s.store k n x).keys = s.keys := rfl
@[simp] theorem State.store_stepping : (s.store k n x).stepping = s.stepping := rfl
@[simp] theorem State.store_metal : (s.store k n x).metal = s.metal := rfl
@[simp] theorem State.store_io : (s.store k n x).io = s.io := rfl
end

section
variable (s : State) (k n : Nat)
@[simp] theorem State.scribble_agenda : (s.scribble k n).agenda = s.agenda := rfl
@[simp] theorem State.scribble_epoch : (s.scribble k n).epoch = s.epoch := rfl
@[simp] theorem State.scribble_cur : (s.scribble k n).cur = s.cur := rfl
@[simp] theorem State.scribble_time : (s.scribble k n).time = s.time := rfl
@[simp] theorem State.scribble_module : (s.scribble k n).module = s.module := rfl
@[simp] theorem State.scribble_limit : (s.scribble k n).limit = s.limit := rfl
@[simp] theorem State.scribble_bad : (s.scribble k n).bad = s.bad := rfl
@[simp] theorem State.scribble_cores : (s.scribble k n).cores = s.cores := rfl
@[simp] theorem State.scribble_parts : (s.scribble k n).parts = s.parts := rfl
@[simp] theorem State.scribble_regions : (s.scribble k n).regions = s.regions := rfl
@[simp] theorem State.scribble_stations : (s.scribble k n).stations = s.stations := rfl
@[simp] theorem State.scribble_icache : (s.scribble k n).icache = s.icache := rfl
@[simp] theorem State.scribble_mesh : (s.scribble k n).mesh = s.mesh := rfl
@[simp] theorem State.scribble_succs : (s.scribble k n).succs = s.succs := rfl
@[simp] theorem State.scribble_collectors : (s.scribble k n).collectors = s.collectors := rfl
@[simp] theorem State.scribble_weltOut : (s.scribble k n).weltOut = s.weltOut := rfl
@[simp] theorem State.scribble_dies : (s.scribble k n).dies = s.dies := rfl
@[simp] theorem State.scribble_rampTime : (s.scribble k n).rampTime = s.rampTime := rfl
@[simp] theorem State.scribble_trip : (s.scribble k n).trip = s.trip := rfl
@[simp] theorem State.scribble_mode : (s.scribble k n).mode = s.mode := rfl
@[simp] theorem State.scribble_frozen : (s.scribble k n).frozen = s.frozen := rfl
@[simp] theorem State.scribble_mailbox : (s.scribble k n).mailbox = s.mailbox := rfl
@[simp] theorem State.scribble_gpids : (s.scribble k n).gpids = s.gpids := rfl
@[simp] theorem State.scribble_outbound : (s.scribble k n).outbound = s.outbound := rfl
@[simp] theorem State.scribble_halves : (s.scribble k n).halves = s.halves := rfl
@[simp] theorem State.scribble_links : (s.scribble k n).links = s.links := rfl
@[simp] theorem State.scribble_notices : (s.scribble k n).notices = s.notices := rfl
@[simp] theorem State.scribble_saved : (s.scribble k n).saved = s.saved := rfl
@[simp] theorem State.scribble_keys : (s.scribble k n).keys = s.keys := rfl
@[simp] theorem State.scribble_stepping : (s.scribble k n).stepping = s.stepping := rfl
@[simp] theorem State.scribble_metal : (s.scribble k n).metal = s.metal := rfl
@[simp] theorem State.scribble_io : (s.scribble k n).io = s.io := rfl
end

/-! ### Finite maps -/

@[simp] theorem NMap.get_set_same {α : Type} (d : α) : ∀ (m : NMap α) (n : Nat) (x : α), NMap.get d (NMap.set m n x) n = x
  | [], n, x => by simp [NMap.set, NMap.get]
  | (k, v) :: m, n, x => by
    unfold NMap.set
    split
    · simp [NMap.get]
    · split
      · simp [NMap.get]
      · rename_i h; simp only [NMap.get, Ne.symm h, if_false]; exact NMap.get_set_same d m n x

theorem NMap.get_set_ne {α : Type} (d : α) : ∀ (m : NMap α) {n j : Nat} (x : α), j ≠ n → NMap.get d (NMap.set m n x) j = NMap.get d m j
  | [], n, j, x, h => by simp [NMap.set, NMap.get, Ne.symm h]
  | (k, v) :: m, n, j, x, h => by
    unfold NMap.set
    split
    · simp [NMap.get, Ne.symm h]
    · split
      · rename_i e; subst e; simp [NMap.get, Ne.symm h]
      · simp only [NMap.get]; split
        · rfl
        · exact NMap.get_set_ne d m x h

/-! ### Parts of the state, written and read -/

@[simp] theorem State.core_setCore_same (s : State) (p : Nat) (c : Core) : (s.setCore p c).core p = c := NMap.get_set_same _ _ _ _
theorem State.core_setCore_ne (s : State) {p q : Nat} (c : Core) (h : q ≠ p) : (s.setCore p c).core q = s.core q := NMap.get_set_ne _ _ _ h
@[simp] theorem State.core_modCore_same (s : State) (p : Nat) (f : Core → Core) : (s.modCore p f).core p = f (s.core p) :=
  s.core_setCore_same p _
theorem State.core_modCore_ne (s : State) {p q : Nat} (f : Core → Core) (h : q ≠ p) : (s.modCore p f).core q = s.core q :=
  s.core_setCore_ne _ h

theorem Core.slot_setSlot_same (c : Core) {k : Nat} (sl : Slot) (h : k < 5) : (c.setSlot k sl).slot k = sl :=
  vget_vset_same _ _ _ _ h
theorem Core.slot_setSlot_ne (c : Core) {k j : Nat} (sl : Slot) (h : j ≠ k) : (c.setSlot k sl).slot j = c.slot j :=
  vget_vset_ne _ _ _ _ _ (Ne.symm h)

theorem State.slot_setSlot_same (s : State) {t : StreamId} (sl : Slot) (h : t.slot < 5) : (s.setSlot t sl).slot t = sl := by
  unfold State.slot State.setSlot; rw [State.core_setCore_same]; exact Core.slot_setSlot_same _ _ h
theorem State.slot_setSlot_ne (s : State) {t u : StreamId} (sl : Slot) (h : u.core ≠ t.core ∨ u.slot ≠ t.slot) :
    (s.setSlot t sl).slot u = s.slot u := by
  unfold State.slot State.setSlot
  by_cases hc : u.core = t.core
  · rw [hc, State.core_setCore_same]
    exact Core.slot_setSlot_ne _ _ (h.resolve_left fun n => n hc)
  · rw [State.core_setCore_ne _ _ hc]
theorem State.slot_modSlot_same (s : State) {t : StreamId} (f : Slot → Slot) (h : t.slot < 5) : (s.modSlot t f).slot t = f (s.slot t) :=
  s.slot_setSlot_same _ h
theorem State.slot_modSlot_ne (s : State) {t u : StreamId} (f : Slot → Slot) (h : u.core ≠ t.core ∨ u.slot ≠ t.slot) :
    (s.modSlot t f).slot u = s.slot u := s.slot_setSlot_ne _ h

@[simp] theorem Slot.strm_setStrm_same (sl : Slot) (acc : Bool) (st : Strm) : (sl.setStrm acc st).strm acc = st := by cases acc <;> rfl
@[simp] theorem Slot.strm_setStrm_other (sl : Slot) (acc : Bool) (st : Strm) : (sl.setStrm acc st).strm (!acc) = sl.strm (!acc) := by
  cases acc <;> rfl
theorem State.strm_setStrm_same (s : State) {t : StreamId} (st : Strm) (h : t.slot < 5) : (s.setStrm t st).strm t = st := by
  unfold State.strm State.setStrm; rw [State.slot_setSlot_same _ _ h, Slot.strm_setStrm_same]
theorem State.strm_modStrm_same (s : State) {t : StreamId} (f : Strm → Strm) (h : t.slot < 5) : (s.modStrm t f).strm t = f (s.strm t) :=
  s.strm_setStrm_same _ h

/-- Setting a stream changes nothing else of its slot. -/
@[simp] theorem Slot.setStrm_s (sl : Slot) (acc : Bool) (st : Strm) : (sl.setStrm acc st).s = sl.s := by cases acc <;> rfl
@[simp] theorem Slot.setStrm_v (sl : Slot) (acc : Bool) (st : Strm) : (sl.setStrm acc st).v = sl.v := by cases acc <;> rfl
@[simp] theorem Slot.setStrm_q (sl : Slot) (acc : Bool) (st : Strm) : (sl.setStrm acc st).q = sl.q := by cases acc <;> rfl
@[simp] theorem Slot.setStrm_st (sl : Slot) (acc : Bool) (st : Strm) : (sl.setStrm acc st).st = sl.st := by cases acc <;> rfl
@[simp] theorem Slot.setStrm_preds (sl : Slot) (acc : Bool) (st : Strm) : (sl.setStrm acc st).preds = sl.preds := by cases acc <;> rfl
@[simp] theorem Slot.setStrm_board (sl : Slot) (acc : Bool) (st : Strm) : (sl.setStrm acc st).board = sl.board := by cases acc <;> rfl

/-- s0 reads as zero and discards what is written (R87). -/
@[simp] theorem Slot.reg_zero (sl : Slot) : sl.reg 0 = 0 := rfl
@[simp] theorem Slot.setReg_zero (sl : Slot) (x : Word) : sl.setReg 0 x = sl := rfl
theorem Slot.reg_setReg_same (sl : Slot) {r : BitVec 6} (x : Word) (h : r ≠ 0) : (sl.setReg r x).reg r = x := by
  simp only [Slot.reg, Slot.setReg, h, if_false]; exact vget_vset_same _ _ _ _ r.isLt
theorem Slot.reg_setReg_ne (sl : Slot) {r q : BitVec 6} (x : Word) (h : q ≠ r) : (sl.setReg r x).reg q = sl.reg q := by
  unfold Slot.reg Slot.setReg
  split
  · rfl
  · split
    · rfl
    · exact vget_vset_ne _ _ _ _ _ fun e => h (BitVec.eq_of_toNat_eq e.symm)
theorem State.reg_setReg_same (s : State) {t : StreamId} {r : BitVec 6} (x : Word) (h : r ≠ 0) (ht : t.slot < 5) :
    (s.setReg t r x).reg t r = x := by
  unfold State.reg State.setReg; rw [State.slot_modSlot_same _ _ ht]; exact Slot.reg_setReg_same _ _ h
theorem State.reg_setReg_ne (s : State) {t : StreamId} {r q : BitVec 6} (x : Word) (h : q ≠ r) (ht : t.slot < 5) :
    (s.setReg t r x).reg t q = s.reg t q := by
  unfold State.reg State.setReg; rw [State.slot_modSlot_same _ _ ht]; exact Slot.reg_setReg_ne _ _ h

@[simp] theorem State.part_setPart_same (s : State) (tag : Nat) (p : Part) : (s.setPart tag p).part tag = p := NMap.get_set_same _ _ _ _
theorem State.part_setPart_ne (s : State) {tag q : Nat} (p : Part) (h : q ≠ tag) : (s.setPart tag p).part q = s.part q :=
  NMap.get_set_ne _ _ _ h
theorem Part.ctx_setCtx_same (p : Part) {c : Nat} (x : Ctx) (h : c < 8) : (p.setCtx c x).ctx c = x := vget_vset_same _ _ _ _ h
theorem Part.ctx_setCtx_ne (p : Part) {c k : Nat} (x : Ctx) (h : k ≠ c) : (p.setCtx c x).ctx k = p.ctx k :=
  vget_vset_ne _ _ _ _ _ (Ne.symm h)
@[simp] theorem State.region_setRegion_same (s : State) (k : Nat) (r : Region) : (s.setRegion k r).region k = r := NMap.get_set_same _ _ _ _
theorem State.region_setRegion_ne (s : State) {k j : Nat} (r : Region) (h : j ≠ k) : (s.setRegion k r).region j = s.region j :=
  NMap.get_set_ne _ _ _ h
@[simp] theorem State.half_setHalf_same (s : State) (h : Nat) (x : Half) : (s.setHalf h x).half h = x := NMap.get_set_same _ _ _ _
theorem State.half_setHalf_ne (s : State) {h k : Nat} (x : Half) (n : k ≠ h) : (s.setHalf h x).half k = s.half k := NMap.get_set_ne _ _ _ n
@[simp] theorem State.link_setLink_same (s : State) (tag : Nat) (l : Links) : (s.setLink tag l).link tag = l := NMap.get_set_same _ _ _ _

end Sys2Proof.Machine
end

