-- ==== Sys2Proof/Laws/Ops.lean ====
section
/-!
SUPPORT. What the shared operations can do, said once each: traps and the return from them, the end of an instruction, a transfer, an
arrival, a report, a late fault, a status; and that they keep the memory's canonical form.
-/
namespace Sys2Proof.Machine

/-! ### The end of an instruction (R47, R51) -/

theorem State.slot_completed (s : State) (t u : StreamId) : (s.completed t).slot u = s.slot u := by
  unfold State.slot State.completed
  by_cases h : u.core = t.core
  · rw [h, State.core_modCore_same]; rfl
  · rw [State.core_modCore_ne _ _ h]

/-- The stream moves on, or stays for the next repetition. -/
theorem State.strm_retire (s : State) {t : StreamId} (h : t.slot < 5) : (s.retire t).strm t = (s.strm t).retire := by
  unfold State.retire State.strm
  rw [State.slot_completed]
  exact s.strm_modStrm_same _ h

/-- Scalar registers, vector registers and queues stand as before. -/
theorem State.slot_retire (s : State) {t : StreamId} (h : t.slot < 5) : (s.retire t).slot t = (s.slot t).setStrm t.acc (s.strm t).retire := by
  unfold State.retire
  rw [State.slot_completed]
  exact s.slot_setSlot_same _ h

/-! ### Taking a trap (R365, R366) -/

/-- The state in which a trap is taken: both streams stopped, the stage's failure noted, the record buffered. -/
def State.trapping (s : State) (t : StreamId) (cause : Byte) : State := ((s.stopStreams t).failStage t).record t.core t.slot 3 (cause.setWidth 64)

/-- The entry suspends the slot, or enters the handler. -/
theorem State.enterTrap_cases (s : State) (t : StreamId) (cause : Byte) (addr : Word) (seq : BitVec 24) (g : Option Word) :
    s.enterTrap t cause addr seq g = (s.trapping t cause).suspend t cause addr seq g ∨
    s.enterTrap t cause addr seq g = ((s.trapping t cause).modSlot t fun sl => sl.setTrap t.acc cause addr seq).enterHandler t 3
      (((s.trapping t cause).core t.core).trapVec.extractLsb' 0 56) := by
  unfold State.enterTrap State.trapping
  dsimp only
  split
  · exact .inl rfl
  · exact .inr rfl

/-- A trap is entered, gives way to the other stream's trap that comes first in program order, or waits among the late faults until the other
stream has reached a boundary (R42). -/
theorem State.trapEntry_cases (s : State) (t : StreamId) (cause : Byte) (addr : Word) (seq : BitVec 24) (g : Option Word) :
    (s.otherBusy t = false ∧ ((s.strm (otherStream t)).parkedTrap = none ∨ (s.slot t).behind t.acc = true) ∧
      s.trapEntry t cause addr seq g = s.enterTrap t cause addr seq g) ∨
    (∃ l, s.otherBusy t = false ∧ (s.strm (otherStream t)).parkedTrap = some l ∧ (s.slot t).behind t.acc = false ∧
      s.trapEntry t cause addr seq g = s.enterTrap (otherStream t) l.cause l.addr l.seq l.granule) ∨
    (s.otherBusy t = true ∧ s.trapEntry t cause addr seq g =
      s.modStrm t fun st => { st.stop with late := ⟨cause, addr, seq, .parked, s.time, g⟩ :: st.stop.late }) := by
  unfold State.trapEntry
  cases h : s.otherBusy t
  · cases hp : (s.strm (otherStream t)).parkedTrap with
    | none => exact .inl ⟨rfl, .inl rfl, rfl⟩
    | some l =>
      cases hb : (s.slot t).behind t.acc
      · exact .inr (.inl ⟨l, rfl, rfl, rfl, rfl⟩)
      · exact .inl ⟨rfl, .inr rfl, rfl⟩
  · exact .inr (.inr ⟨rfl, rfl⟩)

/-- A precise trap is a trap entry with the address that the manual states, or a free one (log 14). -/
theorem State.precise_cases (s : State) (t : StreamId) (cause : Byte) (addr : Option Word) :
    ∃ (s' : State) (a : Word), s.precise t cause addr = s'.trapEntry t cause a 0 none ∧ { s' with free := s.free } = s ∧
      ∀ x, addr = some x → a = x ∧ s' = s := by
  cases addr with
  | some x => exact ⟨s, x, rfl, rfl, fun y h => ⟨Option.some.inj h, rfl⟩⟩
  | none => exact ⟨s.freeWord.2, s.freeWord.1, rfl, rfl, fun _ h => nomatch h⟩

/-- Where a handler starts: both streams at its entry in supervisor mode with no prefix and an empty predicate stack. -/
theorem State.slot_enterHandler (s : State) {t : StreamId} (st : BitVec 3) (entry : Pc) (h : t.slot < 5) :
    let w := s.writeFrame t.core ((s.core t.core).frameOff t.slot) t.slot ((s.core t.core).slot t.slot)
    (s.enterHandler t st entry).slot t = { w.slot t with
      st := st, x := handlerStrm entry, a := handlerStrm entry, preds := [], resolved := [], outer := (w.slot t).kept, lost := 0, view := [] } := by
  unfold State.enterHandler
  dsimp only
  rw [State.slot_modSlot_same _ _ h]

/-- The return: the slot is what its frame says of the slot that the entry found, running, with the faults that came since behind its
own. -/
theorem State.slot_reloadFrame (s : State) {t : StreamId} (h : t.slot < 5) :
    let new := (s.core t.core).slotFrom (s.slot t).found (s.frameAt t.core ((s.core t.core).frameOff t.slot))
    (s.reloadFrame t).slot t =
      { new with st := 1, x := new.x.alsoLate (s.slot t).x.late, a := new.a.alsoLate (s.slot t).a.late } :=
  State.slot_modSlot_same _ _ h

/-- `writeFrame` leaves the cores alone. -/
theorem iter_cores (f : Nat → State → State) (hf : ∀ i s, (f i s).cores = s.cores) : ∀ (n : Nat) (s : State), (iter n f s).cores = s.cores
  | 0, _ => rfl
  | n + 1, s => (hf n _).trans (iter_cores f hf n s)

theorem State.writeFrame_cores (s : State) (p off k : Nat) (sl : Slot) : (s.writeFrame p off k sl).cores = s.cores := by
  unfold State.writeFrame
  generalize frameWords = n
  refine iter_cores _ ?_ n s
  intro i u; rfl

/-! ### The memory's form through traps -/

theorem State.failStage_mem (s : State) (t : StreamId) : (s.failStage t).mem = s.mem := by
  unfold State.failStage
  split
  · rfl
  · dsimp only
    split <;> rfl

theorem State.record_mem (s : State) (p k type : Nat) (w : Word) : (s.record p k type w).mem = s.mem := by
  unfold State.record; split <;> rfl

theorem State.trapping_mem (s : State) (t : StreamId) (cause : Byte) : (s.trapping t cause).mem = s.mem := by
  unfold State.trapping; rw [State.record_mem, State.failStage_mem]; rfl

theorem State.suspend_mem (s : State) (t : StreamId) (cause : Byte) (addr : Word) (seq : BitVec 24) (g : Option Word) :
    (s.suspend t cause addr seq g).mem = s.mem := rfl

theorem State.wf_enterHandler (s : State) (t : StreamId) (st : BitVec 3) (entry : Pc) (w : s.mem.wf = true) :
    (s.enterHandler t st entry).mem.wf = true := by
  unfold State.enterHandler
  dsimp only
  rw [State.modSlot_mem]
  exact State.wf_writeFrame s _ _ _ _ w

theorem State.wf_enterTrap (s : State) (t : StreamId) (cause : Byte) (addr : Word) (seq : BitVec 24) (g : Option Word)
    (w : s.mem.wf = true) : (s.enterTrap t cause addr seq g).mem.wf = true := by
  have h : (s.trapping t cause).mem.wf = true := by rw [State.trapping_mem]; exact w
  rcases s.enterTrap_cases t cause addr seq g with e | e <;> rw [e]
  · rw [State.suspend_mem]; exact h
  · exact State.wf_enterHandler _ _ _ _ h

theorem State.wf_trapEntry (s : State) (t : StreamId) (cause : Byte) (addr : Word) (seq : BitVec 24) (g : Option Word)
    (w : s.mem.wf = true) : (s.trapEntry t cause addr seq g).mem.wf = true := by
  rcases s.trapEntry_cases t cause addr seq g with ⟨_, _, e⟩ | ⟨_, _, _, _, e⟩ | ⟨_, e⟩ <;> rw [e]
  · exact s.wf_enterTrap _ _ _ _ _ w
  · exact s.wf_enterTrap _ _ _ _ _ w
  · exact w

theorem State.wf_precise (s : State) (t : StreamId) (cause : Byte) (addr : Option Word) (w : s.mem.wf = true) :
    (s.precise t cause addr).mem.wf = true := by
  cases addr <;> exact State.wf_trapEntry _ _ _ _ _ _ w

/-- An instruction of formats A and E keeps the memory's form when its body does. -/
theorem State.wf_finish (s : State) (t : StreamId) (r : Run State) (w : s.mem.wf = true)
    (hr : ∀ s', r = .ok s' ∨ r = .error (.hold s') → s'.mem.wf = true) : (s.finish t r).mem.wf = true := by
  match r with
  | .ok s' => exact hr s' (.inl rfl)
  | .error (.trap cause addr) => exact State.wf_precise s t cause addr w
  | .error (.walkFault addr) => exact State.wf_trapEntry s t _ _ _ _ w
  | .error (.hold s') => exact hr s' (.inr rfl)

theorem issueE_wf (e : Entry) (body : StreamId → FmtE → State → Run State) (f : FmtE) (s s' : State) (w : s.mem.wf = true)
    (hb : ∀ t g u, body t f s = .ok u ∨ body t f s = .error (.hold u) → g = t → u.mem.wf = true)
    (h : issueE e body f s = .next s') : s'.mem.wf = true := by
  unfold issueE at h
  split at h
  · rename_i t _
    cases h
    split
    · exact State.wf_precise _ _ _ _ w
    · exact State.wf_finish _ _ _ w fun u hu => hb t t u hu rfl
  · cases h; exact w

theorem State.wf_onceA (s : State) (t : StreamId) (e : Entry) (body : StreamId → FmtA → State → Run State) (g : FmtA) (w : s.mem.wf = true)
    (hb : ∀ u, body t g s = .ok u ∨ body t g s = .error (.hold u) → u.mem.wf = true) : (s.onceA t e body g).mem.wf = true := by
  unfold State.onceA
  dsimp only
  split
  · exact State.wf_precise _ _ _ _ w
  · exact w
  · exact State.wf_finish _ _ _ w hb

theorem State.wf_runA (s : State) (t : StreamId) (e : Entry) (ok : FmtA → Bool) (body : StreamId → FmtA → State → Run State) (f : FmtA)
    (w : s.mem.wf = true) (hb : ∀ g u, body t g s = .ok u ∨ body t g s = .error (.hold u) → u.mem.wf = true) :
    (s.runA t e ok body f).mem.wf = true := by
  unfold State.runA
  dsimp only
  split
  · exact State.wf_precise _ _ _ _ w
  · split
    · exact State.wf_onceA s t e body f w (hb f)
    · split
      · exact State.wf_precise _ _ _ _ w
      · split
        · exact w
        · split
          · exact State.wf_precise _ _ _ _ w
          · split
            · exact w
            · split
              · exact State.wf_onceA s t e body _ w (hb _)
              · exact State.wf_precise _ _ _ _ w

/-- An instruction of format A keeps the memory's form when its body does, whatever its fields. -/
theorem issueA_wf (e : Entry) (ok : FmtA → Bool) (body : StreamId → FmtA → State → Run State) (f : FmtA) (s s' : State) (w : s.mem.wf = true)
    (hb : ∀ t g u, body t g s = .ok u ∨ body t g s = .error (.hold u) → u.mem.wf = true)
    (h : issueA e ok body f s = .next s') : s'.mem.wf = true := by
  unfold issueA at h
  split at h
  · rename_i t _
    cases h
    exact State.wf_runA s t e ok body f w (hb t)
  · cases h; exact w

/-! ### Control transfers (R37, R40, R41) -/

/-- A transfer falls through, goes to a target that may be entered, traps with cause 0x02, or waits for its target's line. -/
theorem State.transfer_cases (s : State) (t : StreamId) (fl : Flow) :
    (fl.target = none ∧ s.transfer t fl = .ok ((fl.write s).goTo t (nextPc (s.strm t).pc))) ∨
    (∃ target s' pc, fl.target = some target ∧ s.checkTransfer t target = .ok (s', pc) ∧ s.transfer t fl = .ok ((fl.write s').goTo t pc)) ∨
    ∃ target st, fl.target = some target ∧ s.checkTransfer t target = .error st ∧ s.transfer t fl = .error st := by
  unfold State.transfer
  cases ht : fl.target with
  | none => exact .inl ⟨rfl, rfl⟩
  | some target =>
    cases hc : s.checkTransfer t target with
    | ok r => exact .inr (.inl ⟨target, r.1, r.2, rfl, hc, by simp [hc, bind, Except.bind]⟩)
    | error st => exact .inr (.inr ⟨target, st, rfl, hc, by simp [hc, bind, Except.bind]⟩)

/-! ### Arrivals, reports, late faults and statuses (R121, R130, R369, R368, R88) -/

/-- A message that reaches its core is refused with a report, put into the heap or its ring, or has no room. -/
theorem State.arrive_cases (s : State) (p : Nat) (ch : BitVec 6) (words : List Word) :
    s.arrive p ch words = some (s.channelFault p 0x05 (words.headD 0)) ∨ s.arrive p ch words = some (s.channelFault p 0x04 (words.headD 0)) ∨
    s.arrive p ch words = some (s.heapPut p ch words) ∨ s.arrive p ch words = some (s.ringPut p ch.toNat words s.time) ∨
    s.arrive p ch words = none := by
  unfold State.arrive
  dsimp only
  split
  · exact .inl rfl
  · split
    · exact .inr (.inl rfl)
    · split
      · split
        · exact .inr (.inr (.inl rfl))
        · exact .inr (.inr (.inr (.inr rfl)))
      · exact .inr (.inr (.inr (.inl rfl)))

/-- A report changes the collectors and nothing else. -/
theorem State.report_rest (s : State) (p : Nat) (cls : BitVec 4) (slot : Nat) (seq : BitVec 16) (code : Byte) (pc addr info : Word)
    (g : Option Word) : { s.report p cls slot seq code pc addr info g with collectors := s.collectors } = s := rfl

theorem mergeReport_plain (r : Report) (row : Nat) (h : r.granule = none) : ∀ qs, mergeReport r row qs = qs ++ [r]
  | [] => rfl
  | q :: qs => by
    unfold mergeReport
    have : (q.granule.isSome && q.granule == r.granule) = false := by rw [h]; cases q.granule <;> rfl
    rw [this]
    simp only [Bool.false_and, Bool.false_eq_true, if_false, List.cons_append, mergeReport_plain r row h qs]

/-- A late failure waits in the stream that issued while its firing runs, otherwise it is reported. -/
theorem State.lateFault_cases (s : State) (t : StreamId) (fseq : BitVec 32) (seq : BitVec 16) (status : Byte) (pc addr : Word)
    (g : Option Word) :
    (s.firingRuns t.core t.slot fseq = true ∧ s.lateFault t fseq seq status pc addr g =
      s.modStrm t fun st => st.alsoLate [⟨0x0C, addr, status ++ seq, .due, s.time, none⟩]) ∨
    (s.firingRuns t.core t.slot fseq = false ∧ s.lateFault t fseq seq status pc addr g =
      s.report t.core 1 t.slot seq status pc addr 0 g) := by
  unfold State.lateFault
  cases h : s.firingRuns t.core t.slot fseq
  · exact .inr ⟨rfl, rfl⟩
  · exact .inl ⟨rfl, rfl⟩

theorem State.wf_lateFault (s : State) (t : StreamId) (fseq : BitVec 32) (seq : BitVec 16) (status : Byte) (pc addr : Word)
    (g : Option Word) (w : s.mem.wf = true) : (s.lateFault t fseq seq status pc addr g).mem.wf = true := by
  rcases s.lateFault_cases t fseq seq status pc addr g with ⟨_, h⟩ | ⟨_, h⟩ <;> rw [h] <;> exact w

theorem State.wf_putStatus (s : State) (p k : Nat) (fseq : BitVec 32) (d : BitVec 6) (x : Word) (w : s.mem.wf = true) :
    (s.putStatus p k fseq d x).mem.wf = true := by
  unfold State.putStatus
  split
  · exact w
  · extract_lets t u off b
    have hw : u.mem.wf = true := w
    clear_value u off b
    split
    · exact State.wf_setLocalWord _ _ _ _ (State.wf_setLocalWord _ _ _ _ hw)
    · exact hw

theorem iter_ring_wf (p : Nat) (cfg : Word) (pos : Nat) (words : List Word) : ∀ (n : Nat) (s : State), s.mem.wf = true →
    (iter n (fun i (s : State) => s.setLocalWord p (ringOff cfg pos i) (words.getD i 0)) s).mem.wf = true :=
  iter_state_wf _ fun i s h => State.wf_setLocalWord s p (ringOff cfg pos i) (words.getD i 0) h

theorem State.wf_ringPut (s : State) (p ch : Nat) (words : List Word) (arrival : Word) (w : s.mem.wf = true) :
    (s.ringPut p ch words arrival).mem.wf = true := iter_ring_wf p _ _ words _ s w

theorem State.wf_arrive (s s' : State) (p : Nat) (ch : BitVec 6) (words : List Word) (w : s.mem.wf = true)
    (h : s.arrive p ch words = some s') : s'.mem.wf = true := by
  rcases s.arrive_cases p ch words with e | e | e | e | e <;> rw [e] at h <;> cases h
  · exact w
  · exact w
  · exact State.wf_scribble _ _ _ w
  · exact State.wf_ringPut _ _ _ _ _ w

end Sys2Proof.Machine
end

