-- ==== Sys2Proof/Laws/PerInstr.lean ====
section
/-!
SUPPORT. The per-instruction laws: a well-formed instruction has a word, and a step of a unit is not well formed (R21, R28).
-/
namespace Sys2Proof.Laws.Encodes

def Statement (i : Instr) : Prop := i.wellFormed = true → (encode i).isSome = true

theorem nop (f : FmtA) : Statement (.nop f) := fun _ => rfl
theorem fmt (f : FmtF) : Statement (.fmt f) := fun _ => rfl
theorem rep (f : FmtR) : Statement (.rep f) := fun _ => rfl
theorem br (f : FmtB) : Statement (.br f) := fun _ => rfl
theorem brz (f : FmtB) : Statement (.brz f) := fun _ => rfl
theorem brzNz (f : FmtB) : Statement (.brzNz f) := fun _ => rfl
theorem jmp (f : FmtB) : Statement (.jmp f) := fun _ => rfl
theorem jal (f : FmtB) : Statement (.jal f) := fun _ => rfl
theorem jr (f : FmtB) : Statement (.jr f) := fun _ => rfl
theorem jrL (f : FmtB) : Statement (.jrL f) := fun _ => rfl
theorem ret (f : FmtB) : Statement (.ret f) := fun _ => rfl
theorem loop (f : FmtB) : Statement (.loop f) := fun _ => rfl
theorem end_ (f : FmtB) : Statement (.end_ f) := fun _ => rfl
theorem align (f : FmtB) : Statement (.align f) := fun _ => rfl
theorem trap (f : FmtB) : Statement (.trap f) := fun _ => rfl
theorem brk (f : FmtB) : Statement (.brk f) := fun _ => rfl
theorem add (f : FmtA) : Statement (.add f) := fun _ => rfl
theorem addImm (f : FmtA) : Statement (.addImm f) := fun _ => rfl
theorem addi (f : FmtA) : Statement (.addi f) := fun _ => rfl
theorem sub (f : FmtA) : Statement (.sub f) := fun _ => rfl
theorem subImm (f : FmtA) : Statement (.subImm f) := fun _ => rfl
theorem mul (f : FmtA) : Statement (.mul f) := fun _ => rfl
theorem mulImm (f : FmtA) : Statement (.mulImm f) := fun _ => rfl
theorem mulh (f : FmtA) : Statement (.mulh f) := fun _ => rfl
theorem mulhImm (f : FmtA) : Statement (.mulhImm f) := fun _ => rfl
theorem mulhn (f : FmtA) : Statement (.mulhn f) := fun _ => rfl
theorem mulhnImm (f : FmtA) : Statement (.mulhnImm f) := fun _ => rfl
theorem div (f : FmtA) : Statement (.div f) := fun _ => rfl
theorem divImm (f : FmtA) : Statement (.divImm f) := fun _ => rfl
theorem divn (f : FmtA) : Statement (.divn f) := fun _ => rfl
theorem divnImm (f : FmtA) : Statement (.divnImm f) := fun _ => rfl
theorem rem (f : FmtA) : Statement (.rem f) := fun _ => rfl
theorem remImm (f : FmtA) : Statement (.remImm f) := fun _ => rfl
theorem remn (f : FmtA) : Statement (.remn f) := fun _ => rfl
theorem remnImm (f : FmtA) : Statement (.remnImm f) := fun _ => rfl
theorem and (f : FmtA) : Statement (.and f) := fun _ => rfl
theorem andImm (f : FmtA) : Statement (.andImm f) := fun _ => rfl
theorem or (f : FmtA) : Statement (.or f) := fun _ => rfl
theorem orImm (f : FmtA) : Statement (.orImm f) := fun _ => rfl
theorem xor (f : FmtA) : Statement (.xor f) := fun _ => rfl
theorem xorImm (f : FmtA) : Statement (.xorImm f) := fun _ => rfl
theorem andn (f : FmtA) : Statement (.andn f) := fun _ => rfl
theorem andnImm (f : FmtA) : Statement (.andnImm f) := fun _ => rfl
theorem shl (f : FmtA) : Statement (.shl f) := fun _ => rfl
theorem shlImm (f : FmtA) : Statement (.shlImm f) := fun _ => rfl
theorem shr (f : FmtA) : Statement (.shr f) := fun _ => rfl
theorem shrImm (f : FmtA) : Statement (.shrImm f) := fun _ => rfl
theorem sra (f : FmtA) : Statement (.sra f) := fun _ => rfl
theorem sraImm (f : FmtA) : Statement (.sraImm f) := fun _ => rfl
theorem rotr (f : FmtA) : Statement (.rotr f) := fun _ => rfl
theorem rotrImm (f : FmtA) : Statement (.rotrImm f) := fun _ => rfl
theorem clz (f : FmtA) : Statement (.clz f) := fun _ => rfl
theorem ctz (f : FmtA) : Statement (.ctz f) := fun _ => rfl
theorem popc (f : FmtA) : Statement (.popc f) := fun _ => rfl
theorem min (f : FmtA) : Statement (.min f) := fun _ => rfl
theorem minImm (f : FmtA) : Statement (.minImm f) := fun _ => rfl
theorem max (f : FmtA) : Statement (.max f) := fun _ => rfl
theorem maxImm (f : FmtA) : Statement (.maxImm f) := fun _ => rfl
theorem minn (f : FmtA) : Statement (.minn f) := fun _ => rfl
theorem minnImm (f : FmtA) : Statement (.minnImm f) := fun _ => rfl
theorem maxn (f : FmtA) : Statement (.maxn f) := fun _ => rfl
theorem maxnImm (f : FmtA) : Statement (.maxnImm f) := fun _ => rfl
theorem slt (f : FmtA) : Statement (.slt f) := fun _ => rfl
theorem sltImm (f : FmtA) : Statement (.sltImm f) := fun _ => rfl
theorem sltn (f : FmtA) : Statement (.sltn f) := fun _ => rfl
theorem sltnImm (f : FmtA) : Statement (.sltnImm f) := fun _ => rfl
theorem sel (f : FmtA) : Statement (.sel f) := fun _ => rfl
theorem li (f : FmtA) : Statement (.li f) := fun _ => rfl
theorem lih (f : FmtA) : Statement (.lih f) := fun _ => rfl
theorem extbN64 (f : FmtA) : Statement (.extbN64 f) := fun _ => rfl
theorem extbI64 (f : FmtA) : Statement (.extbI64 f) := fun _ => rfl
theorem insb (f : FmtA) : Statement (.insb f) := fun _ => rfl
theorem madr (f : FmtA) : Statement (.madr f) := fun _ => rfl
theorem madrPhys (f : FmtA) : Statement (.madrPhys f) := fun _ => rfl
theorem radr (f : FmtA) : Statement (.radr f) := fun _ => rfl
theorem lcor (f : FmtA) : Statement (.lcor f) := fun _ => rfl
theorem lcorLog (f : FmtA) : Statement (.lcorLog f) := fun _ => rfl
theorem whoLcore (f : FmtA) : Statement (.whoLcore f) := fun _ => rfl
theorem whoCoreword (f : FmtA) : Statement (.whoCoreword f) := fun _ => rfl
theorem whoPlace (f : FmtA) : Statement (.whoPlace f) := fun _ => rfl
theorem whoNcores (f : FmtA) : Statement (.whoNcores f) := fun _ => rfl
theorem whoStage (f : FmtA) : Statement (.whoStage f) := fun _ => rfl
theorem whoSlot (f : FmtA) : Statement (.whoSlot f) := fun _ => rfl
theorem phash (f : FmtA) : Statement (.phash f) := fun _ => rfl
theorem phashPlace (f : FmtA) : Statement (.phashPlace f) := fun _ => rfl
theorem fadd (f : FmtA) : Statement (.fadd f) := fun _ => rfl
theorem fsub (f : FmtA) : Statement (.fsub f) := fun _ => rfl
theorem fmul (f : FmtA) : Statement (.fmul f) := fun _ => rfl
theorem fma (f : FmtA) : Statement (.fma f) := fun _ => rfl
theorem fdiv (f : FmtA) : Statement (.fdiv f) := fun _ => rfl
theorem fsqrt (f : FmtA) : Statement (.fsqrt f) := fun _ => rfl
theorem fmin (f : FmtA) : Statement (.fmin f) := fun _ => rfl
theorem fmax (f : FmtA) : Statement (.fmax f) := fun _ => rfl
theorem fcmp (f : FmtA) : Statement (.fcmp f) := fun _ => rfl
theorem fcls (f : FmtA) : Statement (.fcls f) := fun _ => rfl
theorem fcvt (f : FmtA) : Statement (.fcvt f) := fun _ => rfl
theorem fexp2 (f : FmtA) : Statement (.fexp2 f) := fun _ => rfl
theorem flog2 (f : FmtA) : Statement (.flog2 f) := fun _ => rfl
theorem fmov (f : FmtA) : Statement (.fmov f) := fun _ => rfl
theorem fmovNeg (f : FmtA) : Statement (.fmovNeg f) := fun _ => rfl
theorem fmovAbs (f : FmtA) : Statement (.fmovAbs f) := fun _ => rfl
theorem fmovSgn (f : FmtA) : Statement (.fmovSgn f) := fun _ => rfl
theorem ld (f : FmtA) : Statement (.ld f) := fun _ => rfl
theorem st (f : FmtA) : Statement (.st f) := fun _ => rfl
theorem stRel (f : FmtA) : Statement (.stRel f) := fun _ => rfl
theorem ldq (f : FmtA) : Statement (.ldq f) := fun _ => rfl
theorem stq (f : FmtA) : Statement (.stq f) := fun _ => rfl
theorem stqRel (f : FmtA) : Statement (.stqRel f) := fun _ => rfl
theorem ldr (f : FmtA) : Statement (.ldr f) := fun _ => rfl
theorem amadd (f : FmtA) : Statement (.amadd f) := fun _ => rfl
theorem ammin (f : FmtA) : Statement (.ammin f) := fun _ => rfl
theorem ammax (f : FmtA) : Statement (.ammax f) := fun _ => rfl
theorem amswp (f : FmtA) : Statement (.amswp f) := fun _ => rfl
theorem amcas (f : FmtA) : Statement (.amcas f) := fun _ => rfl
theorem amdec (f : FmtA) : Statement (.amdec f) := fun _ => rfl
theorem cbcfg (f : FmtA) : Statement (.cbcfg f) := fun _ => rfl
theorem cbcfgWin (f : FmtA) : Statement (.cbcfgWin f) := fun _ => rfl
theorem cbcfgRdwin (f : FmtA) : Statement (.cbcfgRdwin f) := fun _ => rfl
theorem cbtakeFree (f : FmtA) : Statement (.cbtakeFree f) := fun _ => rfl
theorem cbtakeFill (f : FmtA) : Statement (.cbtakeFill f) := fun _ => rfl
theorem cbgiveFill (f : FmtA) : Statement (.cbgiveFill f) := fun _ => rfl
theorem cbgiveFree (f : FmtA) : Statement (.cbgiveFree f) := fun _ => rfl
theorem cbtakeWaitServed (core buf : Nat) (fill : Bool) : Statement (.cbtakeWaitServed core buf fill) := fun h => nomatch h
theorem hand (f : FmtA) : Statement (.hand f) := fun _ => rfl
theorem handInit (f : FmtA) : Statement (.handInit f) := fun _ => rfl
theorem publ (f : FmtA) : Statement (.publ f) := fun _ => rfl
theorem publLace (f : FmtA) : Statement (.publLace f) := fun _ => rfl
theorem recl (f : FmtA) : Statement (.recl f) := fun _ => rfl
theorem reclNb (f : FmtA) : Statement (.reclNb f) := fun _ => rfl
theorem reclDrop (f : FmtA) : Statement (.reclDrop f) := fun _ => rfl
theorem reclReadersDone (t : StreamId) : Statement (.reclReadersDone t) := fun h => nomatch h
theorem capq (f : FmtA) : Statement (.capq f) := fun _ => rfl
theorem capqHold (f : FmtA) : Statement (.capqHold f) := fun _ => rfl
theorem shad (f : FmtA) : Statement (.shad f) := fun _ => rfl
theorem swapm (f : FmtA) : Statement (.swapm f) := fun _ => rfl
theorem swapmAbort (f : FmtA) : Statement (.swapmAbort f) := fun _ => rfl
theorem fence (f : FmtA) : Statement (.fence f) := fun _ => rfl
theorem ftest (f : FmtA) : Statement (.ftest f) := fun _ => rfl
theorem ftestAll (f : FmtA) : Statement (.ftestAll f) := fun _ => rfl
theorem fenceTrackerComplete (core slot : Nat) (seq : BitVec 16) : Statement (.fenceTrackerComplete core slot seq) := fun h => nomatch h
theorem send (f : FmtA) : Statement (.send f) := fun _ => rfl
theorem sendRh (f : FmtA) : Statement (.sendRh f) := fun _ => rfl
theorem sendt (f : FmtA) : Statement (.sendt f) := fun _ => rfl
theorem sendtRh (f : FmtA) : Statement (.sendtRh f) := fun _ => rfl
theorem callat (f : FmtA) : Statement (.callat f) := fun _ => rfl
theorem spawn (f : FmtA) : Statement (.spawn f) := fun _ => rfl
theorem spawnAt (f : FmtA) : Statement (.spawnAt f) := fun _ => rfl
theorem join (f : FmtA) : Statement (.join f) := fun _ => rfl
theorem hset (f : FmtA) : Statement (.hset f) := fun _ => rfl
theorem hsetRd (f : FmtA) : Statement (.hsetRd f) := fun _ => rfl
theorem hmask (f : FmtA) : Statement (.hmask f) := fun _ => rfl
theorem hmaskUn (f : FmtA) : Statement (.hmaskUn f) := fun _ => rfl
theorem hmaskRd (f : FmtA) : Statement (.hmaskRd f) := fun _ => rfl
theorem chcfg (f : FmtA) : Statement (.chcfg f) := fun _ => rfl
theorem chcnt (f : FmtA) : Statement (.chcnt f) := fun _ => rfl
theorem chcntFree (f : FmtA) : Statement (.chcntFree f) := fun _ => rfl
theorem chcntHeap (f : FmtA) : Statement (.chcntHeap f) := fun _ => rfl
theorem chpop (f : FmtA) : Statement (.chpop f) := fun _ => rfl
theorem chpopCh (f : FmtA) : Statement (.chpopCh f) := fun _ => rfl
theorem chpopDrop (f : FmtA) : Statement (.chpopDrop f) := fun _ => rfl
theorem chpopChDrop (f : FmtA) : Statement (.chpopChDrop f) := fun _ => rfl
theorem wait (f : FmtE) : Statement (.wait f) := fun _ => rfl
theorem waitConditionMet (t : StreamId) : Statement (.waitConditionMet t) := fun h => nomatch h
theorem waitTimeout (t : StreamId) : Statement (.waitTimeout t) := fun h => nomatch h
theorem dacc (f : FmtA) : Statement (.dacc f) := fun _ => rfl
theorem daccClr (f : FmtA) : Statement (.daccClr f) := fun _ => rfl
theorem vld (f : FmtV) : Statement (.vld f) := fun _ => rfl
theorem vst (f : FmtV) : Statement (.vst f) := fun _ => rfl
theorem vlds (f : FmtV) : Statement (.vlds f) := fun _ => rfl
theorem vsts (f : FmtV) : Statement (.vsts f) := fun _ => rfl
theorem vgld (f : FmtV) : Statement (.vgld f) := fun _ => rfl
theorem vsct (f : FmtV) : Statement (.vsct f) := fun _ => rfl
theorem vbc (f : FmtV) : Statement (.vbc f) := fun _ => rfl
theorem vbcImm (f : FmtV) : Statement (.vbcImm f) := fun _ => rfl
theorem vbcLane (f : FmtV) : Statement (.vbcLane f) := fun _ => rfl
theorem vmvs (f : FmtV) : Statement (.vmvs f) := fun _ => rfl
theorem vmvsPred (f : FmtV) : Statement (.vmvsPred f) := fun _ => rfl
theorem vins (f : FmtV) : Statement (.vins f) := fun _ => rfl
theorem vadd (f : FmtV) : Statement (.vadd f) := fun _ => rfl
theorem vsub (f : FmtV) : Statement (.vsub f) := fun _ => rfl
theorem vmul (f : FmtV) : Statement (.vmul f) := fun _ => rfl
theorem vmulHi (f : FmtV) : Statement (.vmulHi f) := fun _ => rfl
theorem vfma (f : FmtV) : Statement (.vfma f) := fun _ => rfl
theorem vmin (f : FmtV) : Statement (.vmin f) := fun _ => rfl
theorem vmax (f : FmtV) : Statement (.vmax f) := fun _ => rfl
theorem vabs (f : FmtV) : Statement (.vabs f) := fun _ => rfl
theorem vneg (f : FmtV) : Statement (.vneg f) := fun _ => rfl
theorem vand (f : FmtV) : Statement (.vand f) := fun _ => rfl
theorem vor (f : FmtV) : Statement (.vor f) := fun _ => rfl
theorem vxor (f : FmtV) : Statement (.vxor f) := fun _ => rfl
theorem vshl (f : FmtV) : Statement (.vshl f) := fun _ => rfl
theorem vshr (f : FmtV) : Statement (.vshr f) := fun _ => rfl
theorem vsra (f : FmtV) : Statement (.vsra f) := fun _ => rfl
theorem vcmp (f : FmtV) : Statement (.vcmp f) := fun _ => rfl
theorem vpnot (f : FmtV) : Statement (.vpnot f) := fun _ => rfl
theorem vpop (f : FmtV) : Statement (.vpop f) := fun _ => rfl
theorem vsel (f : FmtV) : Statement (.vsel f) := fun _ => rfl
theorem vcmpr (f : FmtV) : Statement (.vcmpr f) := fun _ => rfl
theorem vrsum (f : FmtV) : Statement (.vrsum f) := fun _ => rfl
theorem vrmax (f : FmtV) : Statement (.vrmax f) := fun _ => rfl
theorem vrmin (f : FmtV) : Statement (.vrmin f) := fun _ => rfl
theorem vperm (f : FmtV) : Statement (.vperm f) := fun _ => rfl
theorem vexp2 (f : FmtV) : Statement (.vexp2 f) := fun _ => rfl
theorem vlog2 (f : FmtV) : Statement (.vlog2 f) := fun _ => rfl
theorem vrcp (f : FmtV) : Statement (.vrcp f) := fun _ => rfl
theorem vrsq (f : FmtV) : Statement (.vrsq f) := fun _ => rfl
theorem vdiv (f : FmtV) : Statement (.vdiv f) := fun _ => rfl
theorem vcvt (f : FmtV) : Statement (.vcvt f) := fun _ => rfl
theorem vqnt (f : FmtV) : Statement (.vqnt f) := fun _ => rfl
theorem vdqnt (f : FmtV) : Statement (.vdqnt f) := fun _ => rfl
theorem baddq (f : FmtV) : Statement (.baddq f) := fun _ => rfl
theorem vcbd (f : FmtV) : Statement (.vcbd f) := fun _ => rfl
theorem vectorLateFault (t : StreamId) : Statement (.vectorLateFault t) := fun h => nomatch h
theorem copy (f : FmtE) : Statement (.copy f) := fun _ => rfl
theorem copyb (f : FmtE) : Statement (.copyb f) := fun _ => rfl
theorem copyp (f : FmtE) : Statement (.copyp f) := fun _ => rfl
theorem gath (f : FmtE) : Statement (.gath f) := fun _ => rfl
theorem cstat (f : FmtE) : Statement (.cstat f) := fun _ => rfl
theorem cstatSeq (f : FmtE) : Statement (.cstatSeq f) := fun _ => rfl
theorem copyCompletion (core : Nat) (seq : BitVec 16) (n : Nat) : Statement (.copyCompletion core seq n) := fun h => nomatch h
theorem lace (f : FmtE) : Statement (.lace f) := fun _ => rfl
theorem ltake (f : FmtE) : Statement (.ltake f) := fun _ => rfl
theorem ltakeNb (f : FmtE) : Statement (.ltakeNb f) := fun _ => rfl
theorem lrel (f : FmtE) : Statement (.lrel f) := fun _ => rfl
theorem lstat (f : FmtE) : Statement (.lstat f) := fun _ => rfl
theorem lstatHold (f : FmtE) : Statement (.lstatHold f) := fun _ => rfl
theorem lstatTour (f : FmtE) : Statement (.lstatTour f) := fun _ => rfl
theorem laceTileRead (core : Nat) (seq : BitVec 16) : Statement (.laceTileRead core seq) := fun h => nomatch h
theorem laceOutboundStart (core : Nat) (seq : BitVec 16) : Statement (.laceOutboundStart core seq) := fun h => nomatch h
theorem laceLastByte (core : Nat) (seq : BitVec 16) : Statement (.laceLastByte core seq) := fun h => nomatch h
theorem laceHoldExpire (core slot : Nat) : Statement (.laceHoldExpire core slot) := fun h => nomatch h
theorem laceOutboundDone (core slot : Nat) : Statement (.laceOutboundDone core slot) := fun h => nomatch h
theorem laceTourComplete (core : Nat) (seq : BitVec 16) : Statement (.laceTourComplete core seq) := fun h => nomatch h
theorem mtask (f : FmtE) : Statement (.mtask f) := fun _ => rfl
theorem mqry (f : FmtE) : Statement (.mqry f) := fun _ => rfl
theorem mqryHalf (f : FmtE) : Statement (.mqryHalf f) := fun _ => rfl
theorem mqryCtr (f : FmtE) : Statement (.mqryCtr f) := fun _ => rfl
theorem mqryNear (f : FmtE) : Statement (.mqryNear f) := fun _ => rfl
theorem mcbl (f : FmtE) : Statement (.mcbl f) := fun _ => rfl
theorem mcblApply (half : Nat) : Statement (.mcblApply half) := fun h => nomatch h
theorem dseq (f : FmtE) : Statement (.dseq f) := fun _ => rfl
theorem dseqIdx (f : FmtE) : Statement (.dseqIdx f) := fun _ => rfl
theorem matrixTaskStart (half : Nat) : Statement (.matrixTaskStart half) := fun h => nomatch h
theorem matrixTaskComplete (half : Nat) : Statement (.matrixTaskComplete half) := fun h => nomatch h
theorem matrixPreempt (half points : Nat) : Statement (.matrixPreempt half points) := fun h => nomatch h
theorem halfUncorrectableError (half : Nat) : Statement (.halfUncorrectableError half) := fun h => nomatch h
theorem rampEnd (half : Nat) : Statement (.rampEnd half) := fun h => nomatch h
theorem pbind (f : FmtE) : Statement (.pbind f) := fun _ => rfl
theorem pstg (f : FmtE) : Statement (.pstg f) := fun _ => rfl
theorem pdet (f : FmtE) : Statement (.pdet f) := fun _ => rfl
theorem pqry (f : FmtE) : Statement (.pqry f) := fun _ => rfl
theorem pqryTime (f : FmtE) : Statement (.pqryTime f) := fun _ => rfl
theorem pqryEnergy (f : FmtE) : Statement (.pqryEnergy f) := fun _ => rfl
theorem pqryStage (f : FmtE) : Statement (.pqryStage f) := fun _ => rfl
theorem ppos (f : FmtE) : Statement (.ppos f) := fun _ => rfl
theorem pposDone (f : FmtE) : Statement (.pposDone f) := fun _ => rfl
theorem govt (f : FmtE) : Statement (.govt f) := fun _ => rfl
theorem govtRd (f : FmtE) : Statement (.govtRd f) := fun _ => rfl
theorem sourceReaderItem (tag entry : Nat) (catchUp : Bool) : Statement (.sourceReaderItem tag entry catchUp) := fun h => nomatch h
theorem itemDelivery (tag entry stage : Nat) (catchUp : Bool) : Statement (.itemDelivery tag entry stage catchUp) := fun h => nomatch h
theorem catchupRetire (tag entry : Nat) : Statement (.catchupRetire tag entry) := fun h => nomatch h
theorem bindingComplete (tag entry : Nat) : Statement (.bindingComplete tag entry) := fun h => nomatch h
theorem governorEvaluation (tag : Nat) : Statement (.governorEvaluation tag) := fun h => nomatch h
theorem governorDonorMask (core : Nat) : Statement (.governorDonorMask core) := fun h => nomatch h
theorem bbc (f : FmtA) : Statement (.bbc f) := fun _ => rfl
theorem bbcWriteback (core : Nat) (n : BitVec 24) : Statement (.bbcWriteback core n) := fun h => nomatch h
theorem time (f : FmtA) : Statement (.time f) := fun _ => rfl
theorem timeLo (f : FmtA) : Statement (.timeLo f) := fun _ => rfl
theorem cycl (f : FmtA) : Statement (.cycl f) := fun _ => rfl
theorem cyclS (f : FmtA) : Statement (.cyclS f) := fun _ => rfl
theorem enrg (f : FmtA) : Statement (.enrg f) := fun _ => rfl
theorem enrgL (f : FmtA) : Statement (.enrgL f) := fun _ => rfl
theorem thrs (f : FmtA) : Statement (.thrs f) := fun _ => rfl
theorem pmcr (f : FmtA) : Statement (.pmcr f) := fun _ => rfl
theorem pmcrRd (f : FmtA) : Statement (.pmcrRd f) := fun _ => rfl
theorem tracMark (f : FmtA) : Statement (.tracMark f) := fun _ => rfl
theorem tracCfg (f : FmtA) : Statement (.tracCfg f) := fun _ => rfl
theorem tracRd (f : FmtA) : Statement (.tracRd f) := fun _ => rfl
theorem traceFlush (core : Nat) : Statement (.traceFlush core) := fun h => nomatch h
theorem traceSample (core : Nat) : Statement (.traceSample core) := fun h => nomatch h
theorem ctlr (f : FmtA) : Statement (.ctlr f) := fun _ => rfl
theorem ctlw (f : FmtA) : Statement (.ctlw f) := fun _ => rfl
theorem ctlwChancfg (f : FmtA) : Statement (.ctlwChancfg f) := fun _ => rfl
theorem ctlwLctbase (f : FmtA) : Statement (.ctlwLctbase f) := fun _ => rfl
theorem eret (f : FmtA) : Statement (.eret f) := fun _ => rfl
theorem sysc (f : FmtA) : Statement (.sysc f) := fun _ => rfl
theorem ctxs (f : FmtA) : Statement (.ctxs f) := fun _ => rfl
theorem ctxl (f : FmtA) : Statement (.ctxl f) := fun _ => rfl
theorem ptag (f : FmtA) : Statement (.ptag f) := fun _ => rfl
theorem lctw (f : FmtA) : Statement (.lctw f) := fun _ => rfl
theorem gang (f : FmtA) : Statement (.gang f) := fun _ => rfl
theorem gangNext (f : FmtA) : Statement (.gangNext f) := fun _ => rfl
theorem keyi (f : FmtA) : Statement (.keyi f) := fun _ => rfl
theorem mhalf (f : FmtA) : Statement (.mhalf f) := fun _ => rfl
theorem mhalfRel (f : FmtA) : Statement (.mhalfRel f) := fun _ => rfl
theorem dlog (f : FmtA) : Statement (.dlog f) := fun _ => rfl
theorem dlogRd (f : FmtA) : Statement (.dlogRd f) := fun _ => rfl
theorem halt (f : FmtA) : Statement (.halt f) := fun _ => rfl
theorem haltQ (f : FmtA) : Statement (.haltQ f) := fun _ => rfl
theorem instructionFetch (t : StreamId) : Statement (.instructionFetch t) := fun h => nomatch h
theorem messageArrival (src : ArrivalSource) : Statement (.messageArrival src) := fun h => nomatch h
theorem heapReplay (core chan : Nat) : Statement (.heapReplay core chan) := fun h => nomatch h
theorem selection (core : Nat) : Statement (.selection core) := fun h => nomatch h
theorem successorMessage (k : Nat) : Statement (.successorMessage k) := fun h => nomatch h
theorem storePerform (core : Nat) (ack : Option Nat) : Statement (.storePerform core ack) := fun h => nomatch h
theorem grantProbeAnswer (t : StreamId) : Statement (.grantProbeAnswer t) := fun h => nomatch h
theorem remoteAccessAnswer (t : StreamId) (reply : RemoteReply) : Statement (.remoteAccessAnswer t reply) := fun h => nomatch h
theorem remoteAccessTimeout (t : StreamId) : Statement (.remoteAccessTimeout t) := fun h => nomatch h
theorem pageWalkComplete (w : WalkerId) : Statement (.pageWalkComplete w) := fun h => nomatch h
theorem handFlip (t : StreamId) : Statement (.handFlip t) := fun h => nomatch h
theorem swapmExchange (t : StreamId) : Statement (.swapmExchange t) := fun h => nomatch h
theorem lateFaultTrap (t : StreamId) : Statement (.lateFaultTrap t) := fun h => nomatch h
theorem collectorForward (row : Nat) : Statement (.collectorForward row) := fun h => nomatch h
theorem slotCommandResume (core slot : Nat) : Statement (.slotCommandResume core slot) := fun h => nomatch h
theorem slotCommandAbandon (core slot : Nat) : Statement (.slotCommandAbandon core slot) := fun h => nomatch h
theorem laceslotWrite (core slot : Nat) (v : Word) : Statement (.laceslotWrite core slot v) := fun h => nomatch h
theorem contextDescriptorWrite (core ctx word : Nat) (v : Word) : Statement (.contextDescriptorWrite core ctx word v) := fun h => nomatch h
theorem gangSwitch (tag : Nat) : Statement (.gangSwitch tag) := fun h => nomatch h
theorem resumeBroadcast (tag : Nat) : Statement (.resumeBroadcast tag) := fun h => nomatch h
theorem contextKill (tag ctx : Nat) (cause : BitVec 8) (byHost : Bool) : Statement (.contextKill tag ctx cause byHost) := fun h => nomatch h
theorem launchPlacement (tag n : Nat) : Statement (.launchPlacement tag n) := fun h => nomatch h
theorem launchWithdraw (tag : Nat) : Statement (.launchWithdraw tag) := fun h => nomatch h
theorem launchRetire (tag : Nat) (launch : BitVec 16) : Statement (.launchRetire tag launch) := fun h => nomatch h
theorem coreLost (core : Nat) : Statement (.coreLost core) := fun h => nomatch h
theorem counterClaim (core : Nat) (unit : ClaimUnit) : Statement (.counterClaim core unit) := fun h => nomatch h
theorem counterRelease (core : Nat) (unit : ClaimUnit) : Statement (.counterRelease core unit) := fun h => nomatch h
theorem halfPoolGrant (tag half : Nat) (grant : Bool) : Statement (.halfPoolGrant tag half grant) := fun h => nomatch h
theorem mappingService (tag ctx : Nat) (va : Word) (writes : List (Nat × Word)) : Statement (.mappingService tag ctx va writes) := fun h => nomatch h
theorem registerWrite (r : HostReg) (v : Word) : Statement (.registerWrite r v) := fun h => nomatch h
theorem moduleStateCommand (m : ModuleState) : Statement (.moduleStateCommand m) := fun h => nomatch h
theorem operatingPointSet (die : Nat) (p : BitVec 3) : Statement (.operatingPointSet die p) := fun h => nomatch h
theorem relockComplete (die : Nat) : Statement (.relockComplete die) := fun h => nomatch h
theorem hostStepSet (die : Nat) (k : BitVec 3) : Statement (.hostStepSet die k) := fun h => nomatch h
theorem thermalTrip (die sensor : Nat) (reading : Word) : Statement (.thermalTrip die sensor reading) := fun h => nomatch h
theorem debugStop (core : Nat) (before : Option (BitVec 6)) : Statement (.debugStop core before) := fun h => nomatch h
theorem freeze : Statement (.freeze) := fun h => nomatch h
theorem bypass : Statement (.bypass) := fun h => nomatch h
theorem samplePreload : Statement (.samplePreload) := fun h => nomatch h
theorem extest : Statement (.extest) := fun h => nomatch h
theorem idcode : Statement (.idcode) := fun h => nomatch h
theorem doorbell (tag : Nat) (i : BitVec 8) : Statement (.doorbell tag i) := fun h => nomatch h
theorem doorbellCopy (tag : Nat) : Statement (.doorbellCopy tag) := fun h => nomatch h
theorem takeWrite (tag : Nat) (v : BitVec 16) : Statement (.takeWrite tag v) := fun h => nomatch h
theorem functionLevelReset (tag : Nat) : Statement (.functionLevelReset tag) := fun h => nomatch h
theorem weltPortDown (port : Nat) : Statement (.weltPortDown port) := fun h => nomatch h
theorem launchPacket (payload : BitVec 768) : Statement (.launchPacket payload) := fun h => nomatch h
theorem blockArrival (port : Nat) (stream : BitVec 16) (index : BitVec 32) (scale : Byte) (block : Vec) : Statement (.blockArrival port stream index scale block) := fun h => nomatch h
theorem powerOn : Statement (.powerOn) := fun h => nomatch h
theorem dhcpLease (ok : Bool) : Statement (.dhcpLease ok) := fun h => nomatch h
theorem imageFetchComplete (image : FetchResult) : Statement (.imageFetchComplete image) := fun h => nomatch h
theorem bootRetryExpire : Statement (.bootRetryExpire) := fun h => nomatch h
theorem alignWindowElapsed (core slot : Nat) : Statement (.alignWindowElapsed core slot) := fun h => nomatch h
theorem memoryTrainingComplete (ok : Bool) : Statement (.memoryTrainingComplete ok) := fun h => nomatch h
theorem contextCreation (tag ctx : Nat) (d : NewContext) : Statement (.contextCreation tag ctx d) := fun h => nomatch h
theorem blockStreamBinding (port : Nat) (stream : BitVec 16) (core chan : Nat) (first : BitVec 32) : Statement (.blockStreamBinding port stream core chan first) := fun h => nomatch h

end Sys2Proof.Laws.Encodes
end

