-- ==== Sys2Proof/Tests/Slice0.lean ====
section
/-!
SUPPORT. Tests of single operations, and for each statement with hypotheses a state and operands that meet them.
-/
set_option maxRecDepth 100000
set_option Elab.async false
set_option exponentiation.threshold 1024
namespace Sys2Proof.Machine

/-! ### Ill-formed terms -/

theorem test_unused_field_a_ill_formed : (Instr.add ⟨0, 3, 1, 2, 5, 0, 0⟩).wellFormed = false := by decide
theorem test_unused_field_b_ill_formed : (Instr.jmp ⟨0, 1, 0, 0, 0, 4⟩).wellFormed = false := by decide
theorem test_unused_field_v_ill_formed : (Instr.vpnot ⟨0, 1, 0, 0, 0, 0, 0, 0, false, 0⟩).wellFormed = false := by decide
theorem test_unused_field_e_ill_formed : (Instr.lrel ⟨0, 13, 1, 0, 0, 0, 0, 3⟩).wellFormed = false := by decide
theorem test_value_outside_entry_ill_formed : (Instr.ld ⟨0x0D, 4, 5, 0, 0, 0, 16⟩).wellFormed = false := by decide
theorem test_fmt_rounding_code_ill_formed : (Instr.fmt ⟨12, 12, 12, 0, 7, false, 5⟩).wellFormed = false := by decide
theorem test_fmt_scale_code_ill_formed : (Instr.fmt ⟨12, 12, 12, 5, 7, false, 0⟩).wellFormed = false := by decide
theorem test_event_ill_formed : Instr.freeze.wellFormed = false := by decide
theorem test_add_well_formed : (Instr.add ⟨0, 3, 1, 2, 0, 0, 0⟩).wellFormed = true := by decide

/-! ### Words of the manual's examples (R22 to R31 and the encoding tables of each file) -/

theorem test_decode_scalar_a :
    decode 0x200030420000000000000000 = some (.add ⟨0, 3, 1, 2, 0, 0, 0⟩) ∧
    decode 0x210041000000FFFFFFFFFFFB = some (.addi ⟨0, 4, 4, 0, 0, 0, 0xFFFFFFFFFFFB⟩) ∧
    decode 0x200040020300000000000000 = some (.add ⟨0, 4, 0, 2, 0, 48, 0⟩) ∧
    decode 0x3C0090000000456789ABCDEF = some (.li ⟨0, 9, 0, 0, 0, 0, 0x456789ABCDEF⟩) ∧
    decode 0x3D0092400000000000000123 = some (.lih ⟨0, 9, 9, 0, 0, 0, 0x0123⟩) ∧
    decode 0x400451000000000000001000 = some (.madr ⟨1, 5, 4, 0, 0, 0, 0x1000⟩) := by decide
theorem test_decode_scalar_b :
    decode 0x482C30420010000000000000 = some (.fadd ⟨0x0B, 3, 1, 2, 0, 1, 0⟩) ∧
    decode 0x502D34800000000000000000 = some (.fcmp ⟨0x0B, 19, 18, 0, 0, 0, 0⟩) := by decide
theorem test_decode_memory_a :
    decode 0x582041400000000000000010 = some (.ld ⟨0x08, 4, 5, 0, 0, 0, 16⟩) ∧
    decode 0x582041460030000000000008 = some (.ld ⟨0x08, 4, 5, 6, 0, 3, 8⟩) ∧
    decode 0x592001401C80000000000008 = some (.stRel ⟨0x08, 0, 5, 0, 7, 8, 8⟩) ∧
    decode 0x591C05405C00000000000000 = some (.st ⟨0x07, 0, 21, 0, 23, 0, 0⟩) ∧
    decode 0x6020040E0000000000000000 = some (.amswp ⟨0x08, 0, 16, 14, 0, 0, 0⟩) ∧
    decode 0x640490000000000000000042 = some (.cbtakeFill ⟨1, 9, 0, 0, 0, 0, 0x42⟩) := by decide
theorem test_decode_memory_b :
    decode 0x680142090000000000000000 = some (.hand ⟨0, 20, 8, 9, 0, 0, 0⟩) ∧
    decode 0x6A0152000080000000000000 = some (.reclNb ⟨0, 21, 8, 0, 0, 8, 0⟩) ∧
    decode 0x6E00C0000000000000000005 = some (.fence ⟨0, 12, 0, 0, 0, 0, 5⟩) ∧
    decode 0x6F00D3000000000000000000 = some (.ftest ⟨0, 13, 12, 0, 0, 0, 0⟩) := by decide
theorem test_decode_control_and_channels_a :
    decode 0x1008108000000000FFFFFFFD = some (.br ⟨2, 1, 2, 0, 0, 0xFFFFFFFD⟩) ∧
    decode 0x1600500000000000FFFFFFFC = some (.loop ⟨0, 5, 0, 0, 0, 0xFFFFFFFC⟩) ∧
    decode 0x170000000000000000000000 = some (.end_ ⟨0, 0, 0, 0, 0, 0⟩) ∧
    decode 0x01CCC0E00000000000000000 = some (.fmt ⟨12, 12, 12, 0, 7, false, 0⟩) ∧
    decode 0x020401010100000000000000 = some (.rep ⟨4, 1, 1, 1, 0⟩) ∧
    decode 0x7A00F38000000000000186A0 = some (.wait ⟨0, 15, 14, 0, 0, 0, 0, 100000⟩) := by decide
theorem test_decode_control_and_channels_b :
    decode 0x7A01859700080000FFFFFFFF = some (.wait ⟨0, 24, 22, 23, 0, 0, 8, 0xFFFFFFFF⟩) ∧
    decode 0x7200D2090000000000000003 = some (.callat ⟨0, 13, 8, 9, 0, 0, 3⟩) ∧
    decode 0x700005940000000000000002 = some (.send ⟨0, 0, 22, 20, 0, 0, 2⟩) ∧
    decode 0x7905C0000E00000000000000 = some (.chpopChDrop ⟨1, 28, 0, 0, 3, 32, 0⟩) := by decide
theorem test_decode_vector_a :
    decode 0x8900611000B2000000000000 = some (.vadd ⟨0, 3, 1, 2, 0, 0, 11, 0, true, 0⟩) ∧
    decode 0x9700011000B0000200000000 = some (.vcmp ⟨0, 0, 1, 2, 0, 0, 11, 0, false, 2⟩) ∧
    decode 0x980000000000000000000000 = some (.vpnot ⟨0, 0, 0, 0, 0, 0, 0, 0, false, 0⟩) ∧
    decode 0x8040000005B0004000000000 = some (.vld ⟨0x10, 0, 0, 0, 0, 5, 11, 0, false, 0x40⟩) ∧
    decode 0xA500C20000D0001B00000000 = some (.vcvt ⟨0, 6, 2, 0, 0, 0, 13, 0, false, 0x1B⟩) ∧
    decode 0x928840000070000000000000 = some (.vor ⟨0x22, 2, 0, 0, 0, 0, 7, 0, false, 0⟩) := by decide
theorem test_decode_vector_b :
    decode 0x8A88A00011B0000000000000 = some (.vsub ⟨0x22, 5, 0, 0, 0, 17, 11, 0, false, 0⟩) ∧
    decode 0xA448850012B0000000000000 = some (.vdiv ⟨0x12, 4, 5, 0, 0, 18, 11, 0, false, 0⟩) ∧
    decode 0x8180040010B0000000000000 = some (.vst ⟨0x20, 0, 4, 0, 0, 16, 11, 0, false, 0⟩) ∧
    decode 0x840040081EB0000200000000 = some (.vgld ⟨0, 2, 0, 1, 0, 30, 11, 0, false, 2⟩) ∧
    decode 0x8C08020020B0000000000000 = some (.vfma ⟨2, 0, 2, 0, 0, 32, 11, 0, false, 0⟩) := by decide
theorem test_decode_engine_a :
    decode 0xC000824A2CC0000000000000 = some (.copy ⟨0, 8, 9, 10, 11, 12, 0, 0⟩) ∧
    decode 0xC30102514931000000000040 = some (.gath ⟨0, 16, 9, 17, 18, 19, 1, 64⟩) ∧
    decode 0xC800824A2C00000000000000 = some (.lace ⟨0, 8, 9, 10, 11, 0, 0, 0⟩) ∧
    decode 0xC900C0000000000000000003 = some (.ltake ⟨0, 12, 0, 0, 0, 0, 0, 3⟩) ∧
    decode 0xCA00D0000000000000000003 = some (.lrel ⟨0, 13, 0, 0, 0, 0, 0, 3⟩) ∧
    decode 0xD000824A2C00000000000000 = some (.mtask ⟨0, 8, 9, 10, 11, 0, 0, 0⟩) := by decide
theorem test_decode_engine_b :
    decode 0xD10C90000000000000000000 = some (.mqryNear ⟨3, 9, 0, 0, 0, 0, 0, 0⟩) ∧
    decode 0xD200C24D0000000000000000 = some (.mcbl ⟨0, 12, 9, 13, 0, 0, 0, 0⟩) ∧
    decode 0xD300E3C00000000000000001 = some (.dseq ⟨0, 14, 15, 0, 0, 0, 0, 1⟩) ∧
    decode 0xE00142000000000000000000 = some (.pbind ⟨0, 20, 8, 0, 0, 0, 0, 0⟩) ∧
    decode 0xE10093000000000000000008 = some (.pstg ⟨0, 9, 12, 0, 0, 0, 0, 8⟩) ∧
    decode 0xE20155000000000000000000 = some (.pdet ⟨0, 21, 20, 0, 0, 0, 0, 0⟩) ∧
    decode 0xE400A0800000000000000000 = some (.ppos ⟨0, 10, 2, 0, 0, 0, 0, 0⟩) ∧
    decode 0xE500A50B0000000000000002 = some (.govt ⟨0, 10, 20, 11, 0, 0, 0, 2⟩) := by decide
theorem test_decode_system_a :
    decode 0xF00050000000000000000010 = some (.ctlr ⟨0, 5, 0, 0, 0, 0, 0x10⟩) ∧
    decode 0xF20000000000000000000000 = some (.eret ⟨0, 0, 0, 0, 0, 0, 0⟩) ∧
    decode 0xF800A2CC0000000000000000 = some (.gang ⟨0, 10, 11, 12, 0, 0, 0⟩) ∧
    decode 0xF804A00C0000000000000000 = some (.gangNext ⟨1, 10, 0, 12, 0, 0, 0⟩) ∧
    decode 0xE80000000000000000001234 = some (.bbc ⟨0, 0, 0, 0, 0, 0, 0x1234⟩) ∧
    decode 0xE90040000000000000000000 = some (.time ⟨0, 4, 0, 0, 0, 0, 0⟩) := by decide
theorem test_decode_system_b :
    decode 0xEA0450000000000000000000 = some (.cyclS ⟨1, 5, 0, 0, 0, 0, 0⟩) ∧
    decode 0xEB0460000000000000000000 = some (.enrgL ⟨1, 6, 0, 0, 0, 0, 0⟩) ∧
    decode 0xEC0070000000000000000000 = some (.thrs ⟨0, 7, 0, 0, 0, 0, 0⟩) ∧
    decode 0xED0082400000000000000003 = some (.pmcr ⟨0, 8, 9, 0, 0, 0, 3⟩) ∧
    decode 0xEE0002800000000000000000 = some (.tracMark ⟨0, 0, 10, 0, 0, 0, 0⟩) := by decide

/-! ### Small states -/

def t0 : StreamId := ⟨0, 0, false⟩

/-- One core: core 0 of partition 0, logical core 0 of a table of one, whose slot 0 runs a firing of the running context and issues. -/
def demoCore : Core := { Core.reset with partTag := 0x80, lctBase := 0x0010000000000000 }.setSlot 0 { Slot.reset with st := 1 }
def demoPart : Part := { Part.reset.setCtx 0 { Ctx.reset with st := 2 } with running := some 0 }
def demo : State := { State.reset with cur := .stream t0, cores := [(0, demoCore)], parts := [(0, demoPart)], mem := [(3, 0x80)] }

/-- Registers of the issuing slot. -/
def State.putRegs (s : State) (xs : List (BitVec 6 × Word)) : State := xs.foldl (fun s e => s.setReg t0 e.1 e.2) s
/-- The issuing stream in supervisor mode. -/
def State.sup (s : State) : State := s.modStrm t0 fun st => { st with pl := 1 }

def outcomeAll (o : Host.Outcome State Fault Refusal) (p : State → Bool) : Bool :=
  match o with
  | .next s => p s
  | _ => false

/-- A region of this module's core 0. -/
def State.claim (s : State) (key : Nat) (st : RState) (size : BitVec 2) : State := s.setRegion key { Region.reset with st := st, size := size }
/-- VAs 0 to 2^30 map to LPDDR from 2^30 on, executable, in one page of 1 GiB. -/
def State.mapped (s : State) : State :=
  (((s.modCtx 0 0 fun x => { x with root := 0x1000 }).store 0x1000 8 0xE000000000000002).store 0x2000 8 0xE000000000000003).store
    0x3000 8 0xC8FFF80000004000
/-- An address in the vault of position 0. -/
def vault0 (off : Nat) : Word := localAddr 0 off + 0x20000000#64

def canIssueA (s : State) (t : StreamId) (e : Entry) (ok : FmtA → Bool) (f g : FmtA) : Bool :=
  s.cur == .stream t && !e.illegal t (s.strm t) && !fmtBad (s.strm t) (f.md.extractLsb' 0 3 != 0) && s.dueA t e ok f == some g &&
    s.writeGate t (queueUseA e.op g).d g.d.toNat == .go && s.readGate t (queueUseA e.op g).a g.a.toNat == .go &&
    s.readGate t (queueUseA e.op g).c g.c.toNat == .go
def canIssueV (s : State) (t : StreamId) (e : Entry) (f g : FmtV) : Bool :=
  s.cur == .stream t && !e.illegal t (s.strm t) && !fmtBad (s.strm t) (f.rnd != 0) && s.dueV t e f == some g &&
    s.writeGate t (g.qd && e.u.d) g.d.toNat == .go && s.readGate t (g.qa && e.u.a) g.a.toNat == .go && !(s.slot t).vecFaulted

theorem issuesA_of {s : State} {t : StreamId} {e : Entry} {ok : FmtA → Bool} {f g : FmtA} (h : canIssueA s t e ok f g = true) :
    s.IssuesA t e ok f g := by
  simp only [canIssueA, Bool.and_eq_true, beq_iff_eq, Bool.not_eq_true'] at h
  obtain ⟨⟨⟨⟨⟨⟨h1, h2⟩, h3⟩, h4⟩, h5⟩, h6⟩, h7⟩ := h
  exact ⟨h1, h2, h3, h4, h5, h6, h7⟩
theorem issuesV_of {s : State} {t : StreamId} {e : Entry} {f g : FmtV} (h : canIssueV s t e f g = true) : s.IssuesV t e f g := by
  simp only [canIssueV, Bool.and_eq_true, beq_iff_eq, Bool.not_eq_true'] at h
  obtain ⟨⟨⟨⟨⟨⟨h1, h2⟩, h3⟩, h4⟩, h5⟩, h6⟩, h7⟩ := h
  exact ⟨h1, h2, h3, h4, h5, h6, h7⟩

theorem mayWrite_of {s : State} {t : StreamId} {off n : Nat} (hp : s.pureOf t = none)
    (h : (!(s.core t.core).frameHit off n && !(s.core t.core).windowHit off n && (s.badPartial (localKey t.core off) n).isNone) = true) :
    s.MayWrite t off n := by
  simp only [Bool.and_eq_true, Bool.not_eq_true', Option.isNone_iff_eq_none] at h
  exact ⟨.inl h.1.1, fun v hv => (by rw [hp] at hv; cases hv), h.1.2, h.2⟩


def givesOk {α : Type} [DecidableEq α] (x : Run α) (a : α) : Bool :=
  match x with
  | .ok b => decide (b = a)
  | .error _ => false
def givesTrap {α : Type} (x : Run α) (c : Byte) (a : Word) : Bool :=
  match x with
  | .error (.trap d (some b)) => decide (d = c) && decide (b = a)
  | _ => false
theorem ok_of {α : Type} [DecidableEq α] {x : Run α} {a : α} (h : givesOk x a = true) : x = .ok a := by
  unfold givesOk at h
  split at h
  · rw [of_decide_eq_true h]
  · cases h
theorem trapAt_of {α : Type} {x : Run α} {c : Byte} {a : Word} (h : givesTrap x c a = true) : x = trapAt c a := by
  unfold givesTrap at h
  split at h
  · simp only [Bool.and_eq_true, decide_eq_true_eq] at h
    rw [h.1, h.2]; rfl
  · cases h
/-! ### Scalar integer instructions -/

def fA : FmtA := ⟨0, 3, 1, 2, 4, 0, 0⟩

theorem witness_IntegerArithmeticResults : ∀ x ∈ intForms, demo.IssuesA t0 x.2 anyFields fA fA := by
  have h : (intForms.all fun x => canIssueA demo t0 x.2 anyFields fA fA) = true := by decide
  exact fun x hx => issuesA_of (List.all_eq_true.mp h x hx)
theorem witness_BitwiseShiftAndCountResults : (Instr.shl, entInt 0x2E usedDab) ∈ intForms ∧
    demo.IssuesA t0 (entInt 0x2E usedDab) anyFields fA fA :=
  ⟨by simp [intForms], issuesA_of (by decide)⟩
/-- INSB of the whole word and of bit 63 alone. -/
theorem witness_ComparesLiteralsAndBitFields : demo.IssuesA t0 (entInt 0x3F usedDab) anyFields { fA with imm := 0x3F00 } { fA with imm := 0x3F00 } ∧
    (0x3F00 % 64 + (0x3F00 / 256 % 64 + 1) ≤ 64) ∧
    demo.IssuesA t0 (entInt 0x3F usedDab) anyFields { fA with imm := 63 } { fA with imm := 63 } ∧ 63 % 64 + (63 / 256 % 64 + 1) ≤ 64 :=
  ⟨issuesA_of (by decide), by decide, issuesA_of (by decide), by decide⟩
theorem witness_IntegerFrame : t0.slot < 5 ∧ demo.IssuesA t0 (entInt 0x20 usedDab) anyFields fA fA ∧ ∃ s', exec (.add fA) demo = .next s' :=
  ⟨by decide, issuesA_of (by decide), _, rfl⟩
/-- A destination queue with seven entries, and a source queue with one. -/
theorem witness_ResultsReachTheirDestination :
    let s := demo.modSlot t0 fun sl => (sl.setQueue 4 (List.replicate 7 0)).setQueue 0 [5]
    let g : FmtA := ⟨0, 4, 0, 2, 0, 48, 0⟩
    t0.slot < 5 ∧ g.qd = true ∧ g.qa = true ∧ g.a ≠ g.d ∧ ((s.slot t0).queue g.d.toNat).length < 8 ∧
      s.IssuesA t0 (entInt 0x20 usedDab) anyFields g g := by
  repeat' apply And.intro
  all_goals first | decide +kernel | exact issuesA_of (by decide +kernel)

/-- spec/04_registers_and_scalar.md: DIV of −7 by 2 gives −3, and REM gives −1. -/
theorem test_div_rounds_to_zero :
    let s := demo.putRegs [(1, -7), (2, 2)]
    outcomeAll (exec (.div fA) s) (fun r => r.reg t0 3 == -3) = true ∧ outcomeAll (exec (.rem fA) s) (fun r => r.reg t0 3 == -1) = true := by
  decide
/-- spec/04_registers_and_scalar.md: DIVN of 7 by 0 gives 2^64 − 1, and REMN gives 7. -/
theorem test_divn_by_zero :
    let s := demo.putRegs [(1, 7)]
    outcomeAll (exec (.divn fA) s) (fun r => r.reg t0 3 == BitVec.allOnes 64) = true ∧
      outcomeAll (exec (.remn fA) s) (fun r => r.reg t0 3 == 7) = true := by decide
/-- spec/04_registers_and_scalar.md: LI and LIH build 0x0123_4567_89AB_CDEF. -/
theorem test_li_lih : outcomeAll (exec (.li ⟨0, 9, 0, 0, 0, 0, 0x456789ABCDEF⟩) demo) (fun r =>
    outcomeAll (exec (.lih ⟨0, 9, 9, 0, 0, 0, 0x0123⟩) r) fun r => r.reg t0 9 == 0x0123456789ABCDEF) = true := by decide
/-- ADD q4, q0, s2 (R90): the entry leaves q0, the sum enters q4 with zeros above. -/
theorem test_add_queues :
    let s := (demo.putRegs [(2, 3)]).modSlot t0 fun sl => sl.setQueue 0 [5]
    outcomeAll (exec (.add ⟨0, 4, 0, 2, 0, 48, 0⟩) s) (fun r =>
      (r.slot t0).queue 4 == [8] && (r.slot t0).queue 0 == [] && (r.strm t0).pc == 1) = true := by decide
/-- R87: s0 reads zero whatever is written. -/
theorem test_s0_discards : outcomeAll (exec (.addi ⟨0, 0, 0, 0, 0, 0, 7⟩) demo) (fun r => r.reg t0 0 == 0) = true := by decide
/-- R98: MULH of −1 by 1 is −1, MULHN of the same words is 0. -/
theorem test_mulh :
    let s := demo.putRegs [(1, -1), (2, 1)]
    outcomeAll (exec (.mulh fA) s) (fun r => r.reg t0 3 == -1) = true ∧ outcomeAll (exec (.mulhn fA) s) (fun r => r.reg t0 3 == 0) = true := by
  decide
/-- R98: SRA keeps the sign; a shift count is taken modulo 64. -/
theorem test_shift_counts :
    let s := demo.putRegs [(1, 0x8000000000000000), (2, 65)]
    outcomeAll (exec (.sra fA) s) (fun r => r.reg t0 3 == 0xC000000000000000) = true ∧
      outcomeAll (exec (.shr fA) s) (fun r => r.reg t0 3 == 0x4000000000000000) = true ∧
      outcomeAll (exec (.rotr fA) s) (fun r => r.reg t0 3 == 0x4000000000000000) = true := by decide

/-! ### Engines -/

def fE : FmtE := ⟨0, 8, 9, 10, 11, 0, 0, 0⟩

/-- A lace-once region of one tile of 64 bytes in the vault of core 0, and an itinerary with one stop. -/
def demoLace : State :=
  ((((demo.claim (vaultKey 0 0) .published 0).modRegion (vaultKey 0 0) fun r => { r with lace := some 0x20010001 }).putRegs
    [(9, 0), (10, vault0 0), (11, localAddr 0 0x1000)]).setLocalWord 0 0x1000 0x0003FF0000000001)

theorem witness_LaceStartsATour :
    let s := demoLace
    t0.slot < 5 ∧ s.IssuesE t0 (entEngine 0xC8 usedDabc) ∧ s.fifoOk t0 = true ∧ s.ctlMsgBad 0 (s.reg t0 9) = false ∧
      ctlRestBad (s.reg t0 9) = false ∧ ctlFill (s.reg t0 9) = false ∧ ctlEsz (s.reg t0 9) = 1 ∧ ctlMsg (s.reg t0 9) = false ∧
      s.OwnRecord t0 (s.reg t0 11) 0x1000 64 64 ∧ (s.strm t0).snap = [] ∧
      s.itinerary 0 (s.mem.readNat (localKey 0 0x1000) 64) = some [⟨0, 3, 0xFF⟩] ∧
      s.space 0 (s.reg t0 10) = some (.vault 0 0) ∧ addrTag (s.reg t0 10) ≠ 2 ∧ s.reachable 0 (s.reg t0 10) = true ∧
      ((s.devPlace 0 (s.reg t0 10)).any fun pl => pl.module == 0x1FFF && pl.rkey == vaultKey 0 0 && pl.key == vaultKey 0 0) = true ∧
      (s.region (vaultKey 0 0)).st = .published ∧ (s.region (vaultKey 0 0)).laceLaunch = none ∧
      ((s.region (vaultKey 0 0)).lace.any fun g => gridTsz g == 1 && gridRows g == 1 && gridCols g == 1) = true := by
  repeat' apply And.intro
  all_goals first | decide +kernel | (constructor <;> decide +kernel)

theorem test_lace_marks_the_tile : outcomeAll (exec (.lace fE) demoLace) (fun r =>
    (r.region (vaultKey 0 0)).laceRead == [0] && (r.core 0).tours.length == 1 && (r.slot t0).board == 1#64 <<< 8) = true ∧
    outcomeAll (exec (.lace fE) (demoLace.modRegion (vaultKey 0 0) fun r => { r with laceRead := [0] })) (fun r =>
      r.reg t0 8 == statusWord 0 0 0x0B) = true := by decide

/-- Core 0 with a tour of sequence number 7, whose first stop is slot 3, and slot words in four states. -/
def demoTour : Tour := ⟨⟨0, false, 0, 0, 7, 8, 0⟩, 0, vault0 0, 1, [⟨0, 3, 0⟩], some 5, false, false, 0, 0, 0, 0, 1, false⟩
def laceIn (st : BitVec 3) : Word := lsMake 0x4000 st false false 0 0 0 7
def demoSlots : State := (demo.boardSet t0 8).modCore 0 fun c =>
  { (((c.setLace 0 ⟨laceIn 0, 0, 0⟩).setLace 1 ⟨laceIn 2, 0, 0⟩).setLace 2 ⟨laceIn 4, 0, 0⟩).setLace 3 ⟨laceIn 0, 0, 0⟩ with tours := [demoTour] }
def demoOut (ph : OutPhase) (sender : Option (Nat × Nat)) : State := { demoSlots with outbound := [⟨0, 7, sender, 0, 0, 3, ph, 0, false, none⟩] }

theorem witness_LaceSlotsAndTours :
    demoSlots.IssuesE t0 (entEngine 0xC9 usedD) ∧ demoSlots.IssuesE t0 (entEngine 0xCA usedD) ∧ demoSlots.IssuesE t0 (entEngine 0xCB usedDa) ∧
      lsState (demoSlots.laceWord 0 0) = 0 ∧ lsState (demoSlots.laceWord 0 1) = 2 ∧ lsState (demoSlots.laceWord 0 2) = 4 ∧
      demoSlots.lastStop 0 1 = true ∧ (demoSlots.reg t0 9).toNat < 2 ^ 16 ∧ demoSlots.tour 0 7 = some demoTour ∧
      holdLimit (demoSlots.holdCode 0 1) = some 16 ∧ (demoSlots.time - ((demoSlots.core 0).laceSlot 1).since).toNat ≤ 16 ∧
      16 < (({ demoSlots with time := 17 }).time - ((demoSlots.core 0).laceSlot 1).since).toNat ∧ demoTour.stops.length ≤ demoTour.reports ∧
      demoSlots.firingRuns 0 0 0 = true ∧ demoSlots.olderAccess t0 = false ∧ (demoSlots.slot t0).board.getLsbD 8 = true ∧
      (demoSlots.slot t0).inHandler = false ∧
      (demoSlots.modTour 0 7 fun u => { u with read := true }).tour 0 7 = some { demoTour with read := true } := by
  repeat' apply And.intro
  all_goals first | decide +kernel | (constructor <;> decide +kernel)
theorem witness_LaceSlotsAndTours_outbound :
    ((demoOut .waiting none).outbound.find? fun o => o.of 0 7 .waiting || o.of 0 7 .sending).isSome = true ∧
      ((demoOut .sending none).outbound.find? fun o => o.of 0 7 .waiting || o.of 0 7 .sending).isSome = true ∧ lsState ((demoOut .waiting none).laceWord 0 3) = 0 ∧
      demoTour.tsz ≤ lsSize ((demoOut .waiting none).laceWord 0 3) ∧ ((demoOut .sending none).outbound.find? (·.of 0 7 .sending)).isSome = true ∧
      (demoOut .sending none).Inv ∧
      ((demoOut .arrived (some (0, 1))).outbound.find? fun o => o.sender == some (0, 1) && o.phase == .arrived).isSome = true ∧
      ((demoOut .waiting none).devPlace 0 demoTour.tile).isSome = true := by
  refine ⟨by decide, by decide, by decide, by decide, by decide, ?_, by decide, by decide⟩
  show (demoOut .sending none).mem.wf = true
  decide
/-- The tile lands in the slot's storage, and the first arrival writes the tour's status. -/
theorem test_tile_arrives : outcomeAll (exec (.laceLastByte 0 7) (demoOut .sending none)) (fun r =>
    lsState (r.laceWord 0 3) == 2 && r.reg t0 8 == statusWord 1 7 0 && r.localWord 0 0 == 5) = true := by decide
theorem test_ltake_lrel : outcomeAll (exec (.ltake ⟨0, 12, 0, 0, 0, 0, 0, 1⟩) demoSlots) (fun r =>
    lsState (r.laceWord 0 1) == 3 && r.reg t0 12 == localAddr 0 0) = true ∧
    outcomeAll (exec (.lrel ⟨0, 12, 0, 0, 0, 0, 0, 0⟩) demoSlots) (fun r => r.reg t0 12 == 4) = true := by decide

/-- Core 0 with half 0 mapped as logical half 0, a private region of 2 MiB in its vault as save area at 0x10000, and a pending FMT for i8. -/
def demoHalf : State :=
  let s := (demo.claim (vaultKey 0 0) .priv 1).setHalf 0 { Half.reset with owner := some 0 }
  let s := s.setPart 0 { s.part 0 with pool := [0], halves := [(0, 0)] }
  (s.putRegs [(9, 0), (10, localAddr 0 0x1000), (11, 0x0300000000010000)]).modStrm t0 fun st => { st with fmt := some ⟨1, 1, 3, 0, 0, false, 0⟩ }
/-- A task of one element: K 1, N 1, M 1, identifier 5; A at 0x2000, B at 0x2040, C at 0x2080. -/
def demoDesc : List Word := [0x10000000005, 0, localAddr 0 0x2000, localAddr 0 0x2040, localAddr 0 0x2080, 0, 0, 0x1000001, 4, 0, 0, 0, 0, 0, 0, 0]
def demoTask0 : State := demoHalf.setLocalWords 0 0x1000 demoDesc
/-- The stream has read the descriptor (R291 step 2). -/
def demoTask : State := demoTask0.modStrm t0 fun x => { x with snap := [demoTask0.mem.readNat (localKey 0 0x1000) 128] }
def demoRec : MRec :=
  ⟨1, 0, demoTask.ticket t0 8, 0, 0, ⟨1, 1, 3, 0, 0, false, 0⟩, wordsOf 16 (demoTask.mem.readNat (localKey 0 0x1000) 128), 0x0300000000010000, none,
    false, 0⟩

theorem witness_MatrixTasksAreQueued :
    t0.slot < 5 ∧ demoTask0.IssuesE t0 ⟨0xD0, usedDabc, true, false, none⟩ ∧ demoTask.IssuesE t0 ⟨0xD0, usedDabc, true, false, none⟩ ∧
      (demoTask0.strm t0).fmt = some ⟨1, 1, 3, 0, 0, false, 0⟩ ∧ (demoTask.strm t0).fmt = some ⟨1, 1, 3, 0, 0, false, 0⟩ ∧
      (demoTask0.strm t0).snap = [] ∧ demoTask0.OwnRecord t0 (demoTask0.reg t0 10) 0x1000 64 128 := by
  repeat' apply And.intro
  all_goals first | decide +kernel | (constructor <;> decide +kernel)
theorem witness_MatrixTasksAreQueued_snap : demoTask.descSnapshot t0 fE = .ok (demoTask0.mem.readNat (localKey 0 0x1000) 128, demoTask) := rfl
theorem witness_MatrixTasksAreQueued_room : demoTask.descBad 0 demoRec = false ∧ tgtV (demoRec.word 9) = false ∧
    demoTask.halfNo 0 (demoTask.reg t0 9) = some 0 ∧ demoRec.n * (demoRec.bBytes + demoRec.scBytes) ≤ 2 ^ 21 ∧
    (demoTask.half 0).queue.length < 64 ∧ (demoTask.half 0).holdsId 0 demoRec.id = false := by
  and_intros <;> decide

theorem failAt_none {cause : Byte} {check : Touch → Bool} {ts : List Touch} (h : ∀ x ∈ ts, check x = false) :
    failAt cause check ts = .ok () := by
  have : ts.filter check = [] := List.filter_eq_nil_iff.mpr fun x hx => by simp [h x hx]
  simp [failAt, lowestFailing, this]
theorem own_vault (s : State) (p off : Nat) (h : off < 2 ^ 22) :
    s.space p (0x0300000000000000#64 + BitVec.ofNat 64 off) = some (.vault p off) := by
  have hn : (0x0300000000000000#64 + BitVec.ofNat 64 off).toNat = 0x0300000000000000 + off := by
    rw [BitVec.toNat_add, BitVec.toNat_ofNat, BitVec.toNat_ofNat]; omega
  have ht : (addrTag (0x0300000000000000#64 + BitVec.ofNat 64 off)).toNat = 3 := by
    simp only [addrTag, BitVec.extractLsb'_toNat, hn, Nat.shiftRight_eq_div_pow]; omega
  have h1 : (0x0300000000000000#64 + BitVec.ofNat 64 off).extractLsb' 22 34 = 0 := by
    apply BitVec.eq_of_toNat_eq; simp only [BitVec.extractLsb'_toNat, hn, Nat.shiftRight_eq_div_pow, show (0 : BitVec 34).toNat = 0 from rfl]; omega
  have h2 : ((0x0300000000000000#64 + BitVec.ofNat 64 off).extractLsb' 0 22).toNat = off := by
    simp only [BitVec.extractLsb'_toNat, hn, Nat.shiftRight_eq_div_pow]; omega
  unfold State.space
  simp only [ht, h1, h2]
  rfl
theorem own_vault_tag (off : Nat) (h : off < 2 ^ 22) : addrTag (0x0300000000000000#64 + BitVec.ofNat 64 off) = 3 := by
  apply BitVec.eq_of_toNat_eq
  simp only [addrTag, BitVec.extractLsb'_toNat, Nat.shiftRight_eq_div_pow, BitVec.toNat_add, BitVec.toNat_ofNat,
    show (3 : BitVec 8).toNat = 3 from rfl]
  omega
/-- What the probe asks of a stretch of the save area. -/
theorem save_touch {x : Touch} (h : x ∈ demoRec.saveTouches) : ∃ off, off + 64 ≤ vaultSize ∧ off < 0x200000 ∧ x.n = 64 ∧
    x.addr = 0x0300000000000000#64 + BitVec.ofNat 64 off ∧ x.addr.toNat % x.align = 0 ∧ addrTag x.base = 3 := by
  have hb : addrTag demoRec.save = 3 := by decide
  simp only [MRec.saveTouches, pieces, List.mem_cons, List.mem_map, List.mem_range] at h
  rcases h with rfl | ⟨i, hi, rfl⟩
  · exact ⟨0x10000, by decide, by decide, rfl, by decide, by decide, hb⟩
  · have hi' : i < 4288 := hi
    refine ⟨0x10000 + 64 * i, by simp only [vaultSize]; omega, by omega, rfl, ?_, ?_, hb⟩
    · show (0x0300000000010000#64 + BitVec.ofNat 64 (i * 64)) = _
      apply BitVec.eq_of_toNat_eq
      simp only [BitVec.toNat_add, BitVec.toNat_ofNat]
      omega
    · show (0x0300000000010000#64 + BitVec.ofNat 64 (i * 64)).toNat % 64 = 0
      simp only [BitVec.toNat_add, BitVec.toNat_ofNat]
      omega
theorem save_space {x : Touch} (h : x ∈ demoRec.saveTouches) : ∃ off, off + 64 ≤ vaultSize ∧ off < 0x200000 ∧
    demoTask.engineSpace 0 x.addr = some (.vault 0 off) ∧ ∃ pl, demoTask.devPlace 0 x.addr = some pl ∧ pl.module = 0x1FFF ∧ pl.rkey = vaultKey 0 0 := by
  obtain ⟨off, h1, h2, -, ha, -⟩ := save_touch h
  have hs : demoTask.engineSpace 0 x.addr = some (.vault 0 off) := by
    rw [ha]; simp only [State.engineSpace, own_vault _ _ _ (show off < 2 ^ 22 by omega), own_vault_tag _ (show off < 2 ^ 22 by omega)]; rfl
  have hc : (demoTask.region (vaultKey 0 0)).st ≠ .unclaimed ∧ (demoTask.region (vaultKey 0 0)).size = 1 := by decide
  refine ⟨off, h1, h2, hs, demoTask.vaultPlace 0 off (0x03#8 ++ 0#34 ++ BitVec.ofNat 22 off), ?_, rfl, ?_⟩
  · simp only [State.devPlace, hs]; rfl
  · simp [State.vaultPlace, State.vaultRecord, hc.1, hc.2, h2]
theorem low_none {f : Touch → Bool} {ts : List Touch} (h : ∀ x ∈ ts, f x = false) : lowestFailing f ts = none := by
  have : ts.filter f = [] := List.filter_eq_nil_iff.mpr fun x hx => by simp [h x hx]
  unfold lowestFailing; rw [this]; rfl
/-- A probe whose every stretch lies on this module and passes. -/
theorem probe_ok {s : State} {t : StreamId} {i : Instr} {ts must : List Touch} {wins : List (List Touch)} (hans : s.answer t = none)
    (h : ∀ x ∈ ts, s.badForm t.core x = false ∧ x.addr.toNat % x.align = 0 ∧ s.outOfLocal t.core x = false ∧ s.hitsFrames t x = false ∧
      (∀ g, s.outOfWindow t.core g x = false) ∧ (s.isDev t.core x.addr && (s.devPlace t.core x.addr).isNone) = false ∧
      (∀ c, s.pageRefuses t c x = false) ∧ s.outOfBuffer t x = false)
    (hm : ∀ x ∈ must, s.notPrivate t.core x = false) (hr : s.relocks = false)
    (ht : s.touchPages t.core ts = s) (ha : ∀ x ∈ ts, s.awayPage t.core x = none) : s.probe t i ts wins must = .ok s := by
  have none_ (g : Touch → Bool) : s.awayPages t.core (ts.filter g) = [] := by
    have : (ts.filter g).filterMap (s.awayPage t.core) = [] :=
      List.filterMap_eq_nil_iff.mpr fun x hx => ha x (List.mem_filter.mp hx).1
    simp only [State.awayPages, this]; rfl
  have hw : s.windowPages t.core ts = [] := none_ _
  have hh : s.homePages t.core ts = [] := none_ _
  unfold State.probe
  rw [hans]
  dsimp only
  rw [failAt_none fun x hx => (h x hx).1, failAt_none fun x hx => by simp [(h x hx).2.1], failAt_none fun x hx => (h x hx).2.2.1,
    failAt_none fun x hx => (h x hx).2.2.2.1, hw]
  have hwin : lowestFailing (fun x => wins.any fun g => g.contains x && s.outOfWindow t.core g x) ts = none :=
    low_none fun x hx => by simp [(h x hx).2.2.2.2.1]
  have hreach : (ts.any fun x => !s.reachable t.core x.addr) = false := by simp [State.reachable, hr]
  unfold State.windowsEnd State.probeHomes
  simp only [hw, hwin, hreach, ht, hh, bind, Except.bind, low_none fun x hx => (h x hx).2.2.2.2.2.1]
  unfold State.probeEnds
  simp only [low_none fun x hx => (h x hx).2.2.2.2.2.2.1 0x05, low_none fun x hx => (h x hx).2.2.2.2.2.2.1 0x06,
    low_none fun x hx => (h x hx).2.2.2.2.2.2.2, low_none hm]
  rfl
theorem taskProbe_ok {s : State} {t : StreamId} {f : FmtE} {h : Nat} {r : MRec} (w1 : r.aTouches.filter (s.notInCluster t.core h) = [])
    (w2 : (r.bTouches ++ r.cTouches).filter (s.notOwnOrDev t.core) = []) (w3 : r.saveTouches.filter (fun x => !s.isDev t.core x.addr) = [])
    (w4 : (r.aTouches ++ r.bTouches ++ r.cTouches ++ r.saveTouches).filter (s.badForm t.core) = [])
    (hp : s.probe t (.mtask f) (r.aTouches ++ r.bTouches ++ r.cTouches ++ r.saveTouches) [r.aRows, r.aScales]
      (r.saveTouches ++ if r.acc then r.cTouches else []) = .ok s) : s.taskProbe t f h r = .ok s := by
  unfold State.taskProbe
  have e1 : failAt 0x04 (fun _ => true) ([] ++ [] ++ [] ++ [] : List Touch) = .ok () := rfl
  simp only [w1, w2, w3, w4, hp, e1, bind, Except.bind]
theorem witness_MatrixTasksAreQueued_probe : demoTask.taskProbe t0 fE 0 demoRec = .ok demoTask ∧ demoTask.nextOrder = 1 ∧
    demoTask.ticket t0 fE.d = demoRec.tk := by
  refine ⟨?_, by decide, by decide⟩
  have hpure : demoTask.pureOf t0 = none := by decide
  have hpl : ∀ st : Bool, (demoTask.region (vaultKey 0 0)).refuses (if st = true then (demoTask.core 0).mayHold (demoTask.region (vaultKey 0 0))
      else (demoTask.core 0).holds (demoTask.region (vaultKey 0 0))) st false = none := by decide
  have hst : (demoTask.region (vaultKey 0 0)).st = .priv := by decide
  have few : ∀ x ∈ demoRec.aTouches ++ demoRec.bTouches ++ demoRec.cTouches, demoTask.notInCluster 0 0 x = false ∧
      demoTask.notOwnOrDev 0 x = false ∧ demoTask.badForm 0 x = false ∧ x.addr.toNat % x.align = 0 ∧ demoTask.outOfLocal 0 x = false ∧
      (match demoTask.engineSpace 0 x.addr with
        | some (.lm q _) => q == 0
        | _ => false) = true := by decide +kernel
  have near : ∀ x ∈ demoRec.aTouches ++ demoRec.bTouches ++ demoRec.cTouches, ∃ off, demoTask.engineSpace 0 x.addr = some (.lm 0 off) := by
    intro x hx
    have := (few x hx).2.2.2.2.2
    split at this
    · rename_i q off he; simp at this; subst this; exact ⟨off, he⟩
    · cases this
  have all : ∀ x ∈ demoRec.aTouches ++ demoRec.bTouches ++ demoRec.cTouches ++ demoRec.saveTouches, demoTask.badForm 0 x = false ∧
      x.addr.toNat % x.align = 0 ∧ demoTask.outOfLocal 0 x = false ∧ (∀ ts, demoTask.outOfWindow 0 ts x = false) ∧
      (demoTask.isDev 0 x.addr = true → ∃ pl, demoTask.devPlace 0 x.addr = some pl ∧ pl.module = 0x1FFF ∧ pl.rkey = vaultKey 0 0) := by
    intro x hx
    rcases List.mem_append.mp hx with hx | hx
    · obtain ⟨off, he⟩ := near x hx
      have f := few x hx
      exact ⟨f.2.2.1, f.2.2.2.1, f.2.2.2.2.1, fun ts => by simp [State.outOfWindow, he], by simp [State.isDev, he]⟩
    · obtain ⟨off, h1, h2, he, pl, hp⟩ := save_space hx
      obtain ⟨off', h1', h2', hn, ha, h3, hb⟩ := save_touch hx
      refine ⟨?_, h3, by simp [State.outOfLocal, he], fun ts => by simp [State.outOfWindow, he], fun _ => ⟨pl, hp⟩⟩
      have : addrTag x.addr = 3 := by rw [ha]; exact own_vault_tag _ (by omega)
      simp [State.badForm, this, hb, he, boundsCause, kindBounds, hn, h1, Space.foreign]
  have dev : ∀ x ∈ demoRec.saveTouches, demoTask.isDev 0 x.addr = true := fun x hx => by
    obtain ⟨off, -, -, he, -⟩ := save_space hx
    simp [State.isDev, he]
  have page : ∀ c, ∀ x ∈ demoRec.aTouches ++ demoRec.bTouches ++ demoRec.cTouches ++ demoRec.saveTouches,
      demoTask.pageRefuses t0 c x = false := by
    intro c x hx
    by_cases hd : demoTask.isDev 0 x.addr = true
    · obtain ⟨pl, hp, hm, hr⟩ := (all x hx).2.2.2.2 hd
      simp [State.pageRefuses, t0, hd, show demoTask.pureOf ⟨0, 0, false⟩ = none from hpure, hp, hm, hr, hpl x.store]
    · simp [State.pageRefuses, t0, hd]
  have away : ∀ x ∈ demoRec.aTouches ++ demoRec.bTouches ++ demoRec.cTouches ++ demoRec.saveTouches, demoTask.awayPage 0 x = none := by
    intro x hx
    by_cases hd : demoTask.isDev 0 x.addr = true
    · obtain ⟨pl, hp, hm, -⟩ := (all x hx).2.2.2.2 hd
      simp [State.awayPage, hd, hp, hm]
    · simp [State.awayPage, hd]
  have frames : ∀ x ∈ demoRec.aTouches ++ demoRec.bTouches ++ demoRec.cTouches ++ demoRec.saveTouches, demoTask.hitsFrames t0 x = false := by
    intro x hx
    rcases List.mem_append.mp hx with hx | hx
    · obtain ⟨off, he⟩ := near x hx
      have hf : (demoTask.core 0).fen = false := by decide
      simp [State.hitsFrames, t0, he, Core.frameHit, hf]
    · obtain ⟨off, -, -, he, -⟩ := save_space hx
      simp [State.hitsFrames, t0, he]
  have pages : ∀ ts : List Touch, (∀ x ∈ ts, ∀ va, demoTask.engineSpace 0 x.addr ≠ some (.virt va)) → demoTask.touchPages 0 ts = demoTask := by
    intro ts
    induction ts with
    | nil => intro _; rfl
    | cons x xs ih =>
      intro h
      have hx := h x (by simp)
      have step : (match demoTask.engineSpace 0 x.addr with
          | some (.virt va) => demoTask.touchPage 0 va
          | _ => demoTask) = demoTask := by
        split
        · rename_i va he; exact absurd he (hx va)
        · rfl
      show xs.foldl _ (match demoTask.engineSpace 0 x.addr with
          | some (.virt va) => demoTask.touchPage 0 va
          | _ => demoTask) = demoTask
      rw [step]
      exact ih fun y hy => h y (by simp [hy])
  have touched := pages (demoRec.aTouches ++ demoRec.bTouches ++ demoRec.cTouches ++ demoRec.saveTouches) (by
    intro x hx va
    rcases List.mem_append.mp hx with hx | hx
    · obtain ⟨off, he⟩ := near x hx; simp [he]
    · obtain ⟨off, -, -, he, -⟩ := save_space hx; simp [he])
  have dev2 : ∀ x ∈ demoRec.aTouches ++ demoRec.bTouches ++ demoRec.cTouches ++ demoRec.saveTouches,
      (demoTask.isDev 0 x.addr && (demoTask.devPlace 0 x.addr).isNone) = false := by
    intro x hx
    by_cases hd : demoTask.isDev 0 x.addr = true
    · obtain ⟨pl, hp, -⟩ := (all x hx).2.2.2.2 hd
      simp [hp]
    · simp [hd]
  have hacc : demoRec.acc = false := by decide
  have priv : ∀ x ∈ demoRec.saveTouches ++ (if demoRec.acc then demoRec.cTouches else []), demoTask.notPrivate 0 x = false := by
    intro x hx
    have hx : x ∈ demoRec.saveTouches := by simpa [hacc] using hx
    obtain ⟨off, -, -, he, pl, hp, hm, hr⟩ := save_space hx
    simp [State.notPrivate, dev x hx, hp, hr, hst]
  have probe : demoTask.probe t0 (.mtask fE) (demoRec.aTouches ++ demoRec.bTouches ++ demoRec.cTouches ++ demoRec.saveTouches)
      [demoRec.aRows, demoRec.aScales] (demoRec.saveTouches ++ if demoRec.acc then demoRec.cTouches else []) = .ok demoTask :=
    probe_ok (by decide) (fun x hx => ⟨(all x hx).1, (all x hx).2.1, (all x hx).2.2.1, frames x hx, (all x hx).2.2.2.1, dev2 x hx,
      fun c => page c x hx, by simp [State.outOfBuffer, hpure]⟩) priv (by decide) touched away
  have nil (f : Touch → Bool) (l : List Touch) (h : ∀ x ∈ l, f x = false) : l.filter f = [] :=
    List.filter_eq_nil_iff.mpr fun x hx => by simp [h x hx]
  have w1 := nil (demoTask.notInCluster 0 0) demoRec.aTouches fun x hx => (few x (by simp [hx])).1
  have w2 := nil (demoTask.notOwnOrDev 0) (demoRec.bTouches ++ demoRec.cTouches) fun x hx => (few x (by
    rcases List.mem_append.mp hx with h | h <;> simp [h])).2.1
  have w3 := nil (fun x => !demoTask.isDev 0 x.addr) demoRec.saveTouches fun x hx => by simp [dev x hx]
  have w4 := nil (demoTask.badForm 0) _ fun x hx => (all x hx).1
  exact taskProbe_ok w1 w2 w3 w4 probe
theorem witness_MatrixTasksAreQueued_table :
    demo.IssuesE t0 (entEngine 0xD2 usedDab) ∧ (demo.putRegs [(10, localAddr 0 0xBF800)]).OwnRecord t0 (localAddr 0 0xBF800) 0xBF800 8 2048 ∧
      ((wordsOf 256 0).all fun w => decide (w.toNat < 2 ^ 33)) = true ∧ demo.halfNo 0 0 = none := by
  repeat' apply And.intro
  all_goals first | decide +kernel | (constructor <;> decide +kernel)

/-- B of the task in a published region at VA 0, and the half's image of it. -/
def demoRecB : MRec := { demoRec with desc := setAt demoDesc 3 0 }
def demoHalfB (x : Half) : State := ((demo.mapped.claim (2 ^ 30) .published 2).setHalf 0 { x with owner := some 0 })
def demoImage : BImage := ⟨((demoHalfB Half.reset).imageKey demoRecB).1, [0], [], true⟩
def demoQueued : State := demoHalfB { Half.reset with queue := [demoRecB], image := some demoImage }
def demoRunning : State := (demoHalfB { Half.reset with run := some (MRun.fresh demoRecB), image := some demoImage }).boardSet t0 8
def demoTable : MRec := { demoRec with table := some (List.replicate 256 0) }

theorem witness_HalvesRunAndAreQueried_start :
    (demoQueued.half 0).run = none ∧ demoQueued.nextTask 0 = some demoRecB ∧ demoRecB.saved = false ∧
      (demoQueued.half 0).image = some demoImage ∧ demoImage.keep = true ∧ demoQueued.imageKey demoRecB = (demoImage.key, true) ∧
      demoQueued.rampTime ≠ 0 ∧ demoQueued.imageAway demoRecB = false := by
  repeat' apply And.intro
  all_goals first | decide +kernel | (constructor <;> decide +kernel)
/-- B of another module, whose image the half holds, and a load that has one piece left. -/
def demoAwayB : State := (demoHalfB Half.reset).store 0x3000 8 0xC800080000004000
def demoAwayHalf : State := demoAwayB.setHalf 0
  { Half.reset with owner := some 0, queue := [demoRecB], image := some ⟨(demoAwayB.imageKey demoRecB).1, [0], [], true⟩ }
theorem witness_HalvesRunAndAreQueried_load :
    (∃ b, (demoAwayHalf.half 0).image = some b ∧ b.keep = true ∧ demoAwayHalf.imageKey demoRecB = (b.key, true)) ∧
      demoAwayHalf.imageAway demoRecB = true ∧ demoAwayHalf.nextTask 0 = some demoRecB ∧ (MRun.fresh demoRecB).loaded < demoRecB.imagePieces.length ∧
      demoRecB.imagePieces.length = 1 ∧ (demoQueued.loadPieces 0 (MRun.fresh demoRecB) 1).2.2 = none ∧
      (demoQueued.loadPieces 0 (MRun.fresh demoRecB) 1).2.1.ready = true := by
  refine ⟨⟨_, rfl, rfl, ?_⟩, ?_⟩
  · decide +kernel
  · repeat' apply And.intro
    all_goals decide +kernel
theorem witness_HalvesRunAndAreQueried_run :
    (demoRunning.half 0).run = some (MRun.fresh demoRecB) ∧ tgtV (demoRecB.word 9) = false ∧ demoRecB.tk.slot < 5 ∧ demoRecB.tk.d ≠ 0 ∧
      demoRunning.firingRuns demoRecB.core demoRecB.tk.slot demoRecB.tk.fseq = true ∧ demoRecB.saved = false ∧
      ((demoRunning.core demoRecB.core).slot demoRecB.tk.slot).board.getLsbD demoRecB.tk.d.toNat = true ∧
      ((demoHalfB { Half.reset with queue := [demoTable] }).half 0).queue = [demoTable] ∧ demoTable.table.isSome = true := by
  repeat' apply And.intro
  all_goals first | decide +kernel | (constructor <;> decide +kernel)
/-- The task of one product, 2 times 3 in i8, leaves 6 in C and its status 0x00. -/
theorem test_task_computes : outcomeAll (exec (.matrixTaskComplete 0) (((demoRunning.setHalf 0 { Half.reset with
      owner := some 0, run := some (MRun.fresh demoRecB), image := some { demoImage with cols := [3] } }).store (localKey 0 0x2000) 1 2)))
    (fun r => r.mem.readNat (localKey 0 0x2080) 4 == 6 && (r.reg t0 8).extractLsb' 0 8 == 0) = true := by decide +kernel
theorem witness_HalvesRunAndAreQueried_queries :
    let s := { demoHalf with cur := .stream t0 }
    demo.IssuesE t0 (entEngine 0xD1 usedDa) ∧ (demo.reg t0 9).toNat < 2 ^ 16 ∧ demo.halfNo 0 0 = none ∧ s.halfNo 0 0 = some 0 ∧
      demo.IssuesE t0 (entEngine 0xD1 usedD) ∧ demo.IssuesE t0 (entEngine 0xD3 usedDa) ∧ s.nearHalf 0 0 0 = some 0 := by
  repeat' apply And.intro
  all_goals first | decide +kernel | (constructor <;> decide +kernel)

/-! ### Pipelines -/

/-- A chain record of one stage at 0x1000: source of one item at VA 0, no parameters, handler 0 with input channel 2, pool of core 0. -/
def demoChain : State :=
  let s := (demo.mapped.claim (2 ^ 30) .published 2).modCore 0 fun c => c.setHandler 0 ⟨0x8000000000000040, 0x201, 0, 0⟩
  ((s.setLocalWords 0 0x1000 [0x101, 0, 1, 0, 0, 0x10100020000]).putRegs [(8, localAddr 0 0x1000)])
def demoPool : List (Nat × Nat) := [(0, 0)]

theorem witness_ChainsAreBoundAndServed :
    let s := demoChain
    let ws := s.localWords 0 0x1000 32
    s.IssuesE t0 (entPipe 0xE0 eDa) ∧ s.OwnRecord t0 (s.reg t0 8) 0x1000 256 256 ∧ s.chainOk 0 ws = true ∧ s.chainPool 0 ws = some demoPool ∧
      (s.link 0).binds = [] ∧
      ((s.placeOf 0 (.virt (ws.getD 1 0))).any fun pl =>
        pl.module == 0x1FFF && pl.rkey == 2 ^ 30 && decide (pl.key - pl.rkey + 64 * chLen ws ≤ pageLen pl.size)) = true ∧
      (s.region (2 ^ 30)).st = .published ∧ (s.region (2 ^ 30)).lace = none ∧ s.chainHandlers ws demoPool = true ∧
      (s.link 0).freeEntry = some 0 ∧ s.reachable 0 (ws.getD 1 0) = true := by
  repeat' apply And.intro
  all_goals first | decide +kernel | (constructor <;> decide +kernel)
theorem witness_ChainsAreBoundAndServed_ids :
    demoChain.bindIds 0 ((List.range 1).map (parVa (demoChain.localWords 0 0x1000 32))) = .ok (some [(0, 0)], demoChain) := by
  have h : (List.range 1).map (parVa (demoChain.localWords 0 0x1000 32)) = [none] := by decide +kernel
  rw [h]; rfl
theorem test_pbind : outcomeAll (exec (.pbind ⟨0, 20, 8, 0, 0, 0, 0, 0⟩) demoChain) (fun r =>
    (r.link 0).binds.length == 1 && (r.reg t0 20) == 0 && (r.core 0).serve.isSome) = true := by decide +kernel

def demoSd : StageDef := ⟨⟨0x40, 0, 0, 0, 0, 0, 0⟩, false, 0, 2, 0x10002⟩
def demoReader : Reader := ⟨0, 1, 2 ^ 30, 0x1FFF, 2 ^ 30, 0⟩
def demoInst : Inst := ⟨0, 0, 0, false, demoSd, true, [(0, 0)], [], [], 0, 0, some demoReader, false, false, false, 0, []⟩
def demoBinding : Binding := ⟨0, 0, 0, 0, 0, 0, 0, ⟨0, 0, 0, 1, 0⟩, 1, [demoSd], 0, 0, none, [(0, 0)], [0], [], [], [0], [], 0, 0⟩
/-- A module with these instances of entry 0's binding; channel 2 of core 0 has 8 words. -/
def demoLink (b : Binding) (xs : List Inst) : State :=
  ((demo.mapped.claim (2 ^ 30) .published 2).modCore 0 fun c => { c with ch := { c.ch with cfg := vset c.ch.cfg 2 0x80010040 } }).setLink 0
    ⟨[b], xs, [(0, 0)], 1, 2⟩
def demoHeld : Held := ⟨false, [0, 0]⟩

theorem witness_LinkEngineSteps :
    let s := demoLink demoBinding [demoInst]
    let s1 := demoLink { demoBinding with pool := [(0, 0), (1, 1)] } [{ demoInst with held := [demoHeld, demoHeld] }]
    (s.link 0).find 0 0 false = some demoInst ∧ demoInst.reader = some demoReader ∧ demoReader.next < demoReader.stop ∧
      demoInst.held.length < 64 ∧ (s.region demoReader.rkey).st = .published ∧ (s.region demoReader.rkey).lace = none ∧
      (s.region demoReader.rkey).version = demoReader.version ∧ s.badIn (demoReader.key + 64 * demoReader.next) 64 = none ∧
      s1.deliverable { demoInst with held := [demoHeld, demoHeld] } [] [demoHeld, demoHeld] = some (demoHeld, 0) ∧
      (s1.arrive 0 2 (demoHeld.arriving 0)).isSome = true ∧ (s.link 0).bind 0 = some demoBinding ∧
      s1.time.toNat % 4096 = 0 ∧ govHigh demoSd.gov = 1 ∧
      lastCore ((s1.link 0).idle { demoBinding with pool := [(0, 0), (1, 1)] }) = some (1, 1) ∧
      ({ s1 with time := 1 }).time.toNat % 4096 ≠ 0 := by
  repeat' apply And.intro
  all_goals first | decide +kernel | (constructor <;> decide +kernel)
theorem witness_LinkEngineSteps_governor :
    let b : Binding := { demoBinding with pool := [(0, 0), (1, 1)] }
    let x : Inst := { demoInst with held := [demoHeld, demoHeld] }
    let s := demoLink b [x]
    pick s.asksBefore ((s.governed 0).filter fun g => govHigh g.2.2 != 0 && decide (govHigh g.2.2 ≤ s.occupancy g.1)) =
      some (x, b, demoSd.gov) := by decide +kernel
/-- A catch-up chain whose items are emitted, and a core that leaves an instance. -/
theorem witness_LinkEngineSteps_leaving :
    let cu : Inst := { demoInst with id := 1, catchUp := true }
    let b : Binding := { demoBinding with cu := [1] }
    let x : Inst := { demoInst with leaving := [(0, 0)] }
    let s := demoLink b [demoInst, cu]
    let s1 := demoLink demoBinding [x]
    (s.link 0).bind 0 = some b ∧ b.cu.getLast? = some 1 ∧ (s.link 0).inst 1 = some cu ∧ b.insts[b.l]? = some 0 ∧
      (s.link 0).inst 0 = some demoInst ∧ b.p ≤ cu.count ∧ (s1.link 0).insts = [x] ∧ x.leaving = [(0, 0)] ∧ x.gone = false ∧ x.drain = false ∧
      ((s1.modCore 0 fun c => c.setSlot 0 Slot.reset).core 0).runs x.sd.id.hidx = false ∧
      ((s1.core 0).chRing x.sd.chan.toNat).count = 0 := by
  repeat' apply And.intro
  all_goals first | decide +kernel | (constructor <;> decide +kernel)
theorem test_reader_fetches : outcomeAll (exec (.sourceReaderItem 0 0 false) (demoLink demoBinding [demoInst])) (fun r =>
    ((r.link 0).insts.map fun x => x.held.length) == [1]) = true := by decide +kernel
/-- PSTG of a stage firing that is not the last, and of a last one; PDET, PQRY and GOVT of a named binding. -/
theorem witness_ChainsAreBoundAndServed_stages :
    let s := (demoLink demoBinding [demoInst, { demoInst with id := 1, stage := 1 }]).putRegs [(9, localAddr 0 0xBFFF8)]
    let v : Serve := ⟨0, 0, false, 0, false, 0, false⟩
    let s1 := s.modSlot t0 fun sl => { sl with stageOf := some v }
    s1.IssuesE t0 (entPipe 0xE1 eDa) ∧ s1.space 0 (s1.reg t0 9) = some (.lm 0 0xBFFF8) ∧ 0xBFFF8 % 8 = 0 ∧ 0xBFFF8 + 8 * 1 ≤ localSize ∧
      s1.pureOf t0 = none ∧ (s1.slot t0).stageOf = some v ∧ v.last = false ∧ (s1.slot t0).emitted = none ∧ (s1.link 0).inst v.inst = some demoInst ∧
      demoInst.failed = false ∧ demoInst.gone = false ∧ (s1.link 0).fullTarget demoInst 0 = false ∧
      s.IssuesE t0 (entPipe 0xE2 eDa) ∧ s.IssuesE t0 (entPipe 0xE3 eDa) ∧ s.IssuesE t0 (entPipe 0xE4 eDa) ∧ s.IssuesE t0 (entPipe 0xE5 eDab) ∧
      s.IssuesE t0 (entPipe 0xE5 eDa) ∧ s.handleOf t0 0 = some demoBinding ∧ s.handleOf t0 0x100 = none ∧ govOk 0x100000000 = true ∧
      demoBinding.tag.toNat = 0 ∧ demoBinding.stages[0]? = some demoSd ∧ demoBinding.insts[0]? = some 0 ∧ demoInst.owner = demoBinding.entry := by
  repeat' apply And.intro
  all_goals first | decide +kernel | (constructor <;> decide +kernel)

/-! ### Power, time, counters and debug -/

def usesD : Used := ⟨true, false, false, false, false⟩

theorem witness_CountersAndTraces :
    demo.IssuesA t0 (entInt 0xE9 usesD) anyFields fA fA ∧ demo.IssuesA t0 (entInt 0xEA usesD) anyFields fA fA ∧
      demo.IssuesA t0 (entInt 0xEB usesD) anyFields fA fA ∧ demo.IssuesA t0 (entInt 0xEC usesD) anyFields fA fA ∧
      demo.IssuesA t0 (entInt 0xED ⟨true, true, false, false, false⟩) anyFields fA fA ∧
      demo.IssuesA t0 (entInt 0xEE ⟨false, true, false, false, false⟩) anyFields fA fA ∧
      demo.IssuesA t0 (entInt 0xEE ⟨true, true, true, false, false⟩) anyFields fA fA ∧
      demo.IssuesA t0 (entInt 0xEE ⟨true, false, false, false, false⟩) anyFields fA fA ∧ (demo.strm t0).pl = 0 ∧
      demo.throttled 0 0 = none ∧ demoHalf.throttled 0 0 = some (0, 0) := by
  repeat' apply And.intro
  all_goals first | decide +kernel | exact issuesA_of (by decide +kernel)
/-- The last event code 0x0B and the first reserved one; codes 0x20 to 0x22; periods 10 and 9, and a ring that is private. -/
theorem witness_CountersAndTraces_words :
    let s := ((demo.modCore 0 fun c => { c with partTag := 0xC0 }).mapped.claim (2 ^ 30) .priv 2).sup
    (s.strm t0).pl ≠ 0 ∧ eventBad 0x8000000B = false ∧ eventBad 0x8000000C = true ∧ eventBad 0x80000022 = false ∧
      eventBad 0x80000023 = true ∧ (s.core 0).pmLent = false ∧ tracBad 0x8000000000000000 0x80A00 = false ∧
      tracBad 0x8000000000000000 0x80900 = true ∧ (s.ringPrivate 0 0 (0x8000000000010000 &&& 0x00FFFFFFFFFFFFFF)).1 = true ∧
      traceEn 0x8000000000010000 = true ∧ (s.ringPrivate 0 0 (0x8000000000010001 &&& 0x00FFFFFFFFFFFFFF)).1 = false := by decide +kernel
/-- A session that takes marks (type 4) and samples at period 2^10. -/
theorem witness_CountersAndTraces_session :
    let s := demo.modCtx 0 0 fun x => { x with trace := some (0x8000000000000000, 0x80A18) }
    s.traces 0 4 = true ∧ demo.traces 0 4 = false ∧ (s.ctx 0 0).trace = some (0x8000000000000000, 0x80A18) ∧
      s.time.toNat % 2 ^ traceP 0x80A18 = 0 ∧ ((s.core 0).slot 0).st ≠ 0 ∧ (∀ j < 5, j ≠ 0 → ((s.core 0).slot j).st = 0) ∧
      s.agenda = [] := by decide +kernel
/-- A counter counts the code it names, and stands while it is lent. -/
theorem test_pm_counts :
    let c : Core := { demoCore with pm := vset demoCore.pm 0 ⟨0x80000002, 5⟩ }
    (vget (⟨0, 0⟩ : PmCtr) (c.pmCount 0x02 (some 0) 3).pm 0).count = 8 ∧ (vget (⟨0, 0⟩ : PmCtr) (c.pmCount 0x03 (some 0) 3).pm 0).count = 5 ∧
      (vget (⟨0, 0⟩ : PmCtr) (({ c with pmLent := true } : Core).pmCount 0x02 (some 0) 3).pm 0).count = 5 := by decide +kernel

theorem witness_ModuleStatesAndTime :
    let s := { demo with agenda := [.advance 8] }
    s.agenda = .advance 8 :: [] ∧ s.frozen = false ∧ s.mode = .active ∧ { demo with frozen := true }.frozen = true ∧
      (1 : BitVec 3) ≠ (s.die 0).point ∧ (0 : BitVec 3) = (s.die 0).point ∧
      ((demo.setDie 3 { demo.die 3 with relock := some 0 }).die 3).relock = some 0 ∧ (0 : Word).toNat ≤ demo.time.toNat ∧
      (∀ e ∈ demo.runningTags, demo.settled (BitVec.ofNat 6 e.1) = true) ∧ { demo with mode := .clockStopped }.mode = .clockStopped := by
  decide +kernel
/-- One running context: settled at once, and with an access at another module not; a core that is stopped. -/
theorem witness_ModuleStatesAndTime_idle :
    let s : State := { demo with mode := .idleClocked }
    let u : State := s.modSlot t0 fun sl => { sl with a := { sl.a with pend := some ⟨.remote, .ld ⟨0x08, 4, 5, 0, 0, 0, 0⟩, none, none, none⟩ } }
    demo.runningTags = [(0, 0)] ∧ s.settled 0 = true ∧ u.runningTags = [(0, 0)] ∧ u.settled 0 = false ∧
      ((demo.modCore 0 fun c => { c with dbg := some none }).core 0).dbg = some none ∧ (demo.core 0).dbg ≠ some none := by decide +kernel
/-- spec/20_power_counters_debug.md: the reset operating point runs at the nominal frequency; 8 ticks of the timer. -/
theorem test_time_advances :
    let s := demo.advance 8
    s.time = 8 ∧ (s.core 0).cycles = BitVec.ofNat 64 (demo.coreCycles 0 (demo.core 0) 8) := by decide +kernel

/-! ### Traps, calls and the system instructions -/

/-- Core 0 with a trap handler at 0x40 and the frame area at 0x10000; another with it as high as R364 allows. -/
def demoTrap : State := demo.modCore 0 fun c => { c with trapVec := 0x8000000000000040, priv := 0x8000000000000400 }
def demoTrapHigh : State := demo.modCore 0 fun c => { c with trapVec := 0x8000000000000040, priv := 0x8000000000002D80 }
/-- The access stream of the slot waits for another module. -/
def State.awaitsA (s : State) : State :=
  s.modSlot t0 fun sl => { sl with a := { sl.a with pend := some ⟨.remote, .ld ⟨0x08, 4, 5, 0, 0, 0, 0⟩, none, none, none⟩ } }
def sysNo (op : Byte) : Entry := { entSys op noFields with str := some false }

theorem witness_TrapsEnterTheHandler :
    t0.slot < 5 ∧ demoTrap.Inv ∧ ((demoTrap.slot t0).strm t0.acc).pl ≠ 1 ∧ (demoTrap.slot t0).st = 1 ∧
      (demoTrap.core 0).trapVec.getLsbD 63 = true ∧ (demoTrap.core 0).fen = true ∧ (demoTrap.core 0).frameOff 0 + 0x2000 ≤ 2 ^ 20 ∧
      (demoTrapHigh.core 0).frameOff 4 + 0x2000 = localSize ∧ (demo.core 0).trapVec.getLsbD 63 = false ∧ demoTrap.otherBusy t0 = false ∧
      demoTrap.awaitsA.otherBusy t0 = true ∧ demoTrap.IssuesB t0 := by
  repeat' apply And.intro
  all_goals first | decide +kernel | (show demoTrap.mem.wf = true; decide +kernel) | (constructor <;> decide +kernel)
/-- The access stream has trapped with cause 0x06 at `pc`. -/
def demoParked (pc : BitVec 56) : State :=
  demoTrap.modSlot t0 fun sl => { sl with a := { sl.a with pc := pc, late := [⟨0x06, 9, 0, .parked, 0, none⟩] } }
/-- The execute stream stands behind the access stream's trap at 0x40, and before it at 0. -/
theorem witness_TrapsEnterTheHandler_both :
    let s := (demoParked 0).modSlot t0 fun sl => { sl with x := { sl.x with pc := 0x40 } }
    (demoTrap.strm (otherStream t0)).parkedTrap = none ∧ (s.strm (otherStream t0)).parkedTrap = some ⟨0x06, 9, 0, .parked, 0, none⟩ ∧
      (s.slot t0).behind t0.acc = false ∧ (s.slot t0).behind true = true ∧ s.otherBusy t0 = false ∧
      ((demoParked 0x40).slot t0).behind t0.acc = true ∧ ((demoParked 0x40).strm (otherStream t0)).parkedTrap.isSome = true ∧
      (demoParked 0x40).otherBusy t0 = false ∧ demoTrap.Inv := by
  repeat' apply And.intro
  all_goals first | decide +kernel | (show demoTrap.mem.wf = true; decide +kernel)
/-- BRK in user mode enters the handler with cause 0x0F; in a core without a handler the slot is suspended. -/
theorem test_brk_enters_handler :
    outcomeAll (exec (.brk ⟨0, 0, 0, 0, 0, 5⟩) demoTrap) (fun r => (r.slot t0).st == 3 && (r.slot t0).x.pc == 0x40 && (r.slot t0).trapCause == 0x0F &&
      (r.slot t0).trapAddr == 5 && (r.slot t0).x.pl == 1) = true ∧
    outcomeAll (exec (.brk ⟨0, 0, 0, 0, 0, 5⟩) demo) (fun r => (r.slot t0).st == 2 && ((NMap.get [] r.collectors 0).length == 1)) = true := by
  decide +kernel

theorem witness_CallsReturnAndSlotsResume :
    let s := demoTrap.modCore 0 fun c => c.setHandler 63 ⟨0xA000000000000080, 0, 0, 0⟩
    let f : FmtA := { fA with imm := 63 }
    let h := demoTrap.modSlot t0 fun sl => { sl with st := 3 }
    let r := (demo.modSlot t0 fun sl => { sl with st := 2 }).modCore 0 fun c => { c with cmds := [(0, false, 0), (0, true, 0)] }
    s.IssuesA t0 (sysNo 0xF3) anyFields f f ∧ (s.strm t0).pl ≠ 1 ∧ hVALID ((s.core 0).handler 63).hw0 = true ∧
      hSUP ((s.core 0).handler 63).hw0 = true ∧ (s.core 0).fen = true ∧ s.mem.wf = true ∧ hVALID ((s.core 0).handler 62).hw0 = false ∧
      h.IssuesA t0 (sysNo 0xF2) anyFields fA fA ∧ (h.slot t0).st = 3 ∧
      (h.localWord 0 ((h.core 0).frameOff 0 + 8 * 329)).extractLsb' 14 2 = 0 ∧ (h.localWord 0 ((h.core 0).frameOff 0 + 8 * 335)).extractLsb' 14 2 = 0 ∧
      demoTrap.IssuesA t0 (sysNo 0xF2) anyFields fA fA ∧ (demoTrap.slot t0).st = 1 ∧
      (r.core 0).command 0 false = some (0, false, 0) ∧ (r.core 0).command 0 true = some (0, true, 0) ∧ (r.slot t0).st = 2 ∧
      (r.link 0).insts = [] ∧ (demo.core 0).command 0 false = none ∧ s.otherBusy t0 = false ∧ h.otherBusy t0 = false ∧
      s.awaitsA.otherBusy t0 = true ∧ h.awaitsA.IssuesA t0 (sysNo 0xF2) anyFields fA fA ∧ s.awaitsA.IssuesA t0 (sysNo 0xF3) anyFields f f := by
  repeat' apply And.intro
  all_goals first | decide +kernel | exact issuesA_of (by decide +kernel)
/-- A frame with an uncorrectable error in its last granule, and a tracker that an earlier firing of the slot left. -/
theorem witness_CallsReturnAndSlotsResume_bad :
    let h := demoTrap.modSlot t0 fun sl => { sl with st := 3 }
    let e : State := { h with bad := [localKey 0 (0x12000 - 8)] }
    let a := demo.modSlot t0 fun sl => { sl with firing := 7 <<< 32, trackers := [⟨1, 6, 1, [], [], [], [], [], []⟩, ⟨2, 7, 1, [], [], [], [], [], []⟩] }
    (h.core 0).frameOff 0 = 0x10000 ∧ h.badIn (localKey 0 0x10000) 0x2000 = none ∧
      e.badIn (localKey 0 0x10000) 0x2000 = some (localKey 0 (0x12000 - 8)) ∧ e.IssuesA t0 (sysNo 0xF2) anyFields fA fA ∧
      ((a.slot t0).trackers.filter fun x => x.fseq != (a.slot t0).fseq).map (·.seq) = [1] := by
  repeat' apply And.intro
  all_goals first | decide +kernel | exact issuesA_of (by decide +kernel)
/-- SYSC enters the handler with the pc of the next instruction saved; ERET takes pc and registers from the frame. -/
theorem test_sysc_eret :
    outcomeAll (exec (.sysc { fA with imm := 63 }) (demoTrap.modCore 0 fun c => c.setHandler 63 ⟨0xA000000000000080, 0, 0, 0⟩)) (fun r =>
      (r.slot t0).st == 4 && (r.slot t0).x.pc == 0x80 && (r.slot t0).trapPc == 1) = true ∧
    outcomeAll (exec (.eret fA) (((demoTrap.modSlot t0 fun sl => { sl with st := 3 }).setLocalWord 0 (0x10000 + 8 * 328) 1).setLocalWord 0
      (0x10000 + 8 * 5) 77)) (fun r => (r.slot t0).st == 1 && (r.slot t0).x.pc == 1 && r.reg t0 5 == 77 && (r.slot t0).x.pl == 0) = true := by
  decide +kernel

/-- Eight predicates and eight entries in a queue. -/
theorem witness_HandlerReturnRestoresTheFiring :
    let s := demoTrap.modSlot t0 fun sl => { sl.setQueue 7 (List.replicate 8 1) with preds := List.replicate 8 3 }
    t0.slot < 5 ∧ s.mem.wf = true ∧ (s.core 0).frameOff 0 + 0x2000 ≤ 2 ^ 20 ∧ (s.slot t0).x.pl ≠ 1 ∧ (s.slot t0).a.pl ≠ 1 ∧
      (s.slot t0).st = 1 ∧ (s.core 0).trapVec.getLsbD 63 = true ∧ (s.core 0).fen = true ∧ (s.slot t0).preds.length ≤ 8 ∧ s.otherBusy t0 = false ∧
      ∀ k < 8, ((s.slot t0).queue k).length ≤ 8 := by decide +kernel

theorem witness_ControlRegistersReadAndWrite :
    let s := demoTrap.sup
    t0.slot < 5 ∧ demoTrap.IssuesA t0 (entSys 0xF0 usedD) anyFields fA fA ∧ s.IssuesA t0 (entSys 0xF0 usedD) anyFields { fA with imm := 7 } { fA with imm := 7 } ∧
      (demoTrap.strm t0).pl = 0 ∧ (s.strm t0).pl ≠ 0 ∧ s.IssuesA t0 (entSys 0xF1 usedA) anyFields { fA with imm := 7 } { fA with imm := 7 } ∧
      (0x2D80 % 2 ^ 14) * 64 + 5 * 0x2000 ≤ localSize ∧ (s.core 0).chcfgStatus 0 0x80050000 = 0 ∧ (s.core 0).chcfgStatus 0 0x80040000 ≠ 0 ∧
      (s.core 0).chcfgStatus 1 0x80042FFC = 0 ∧ (s.core 0).chcfgStatus 1 0x80042FFD ≠ 0 := by
  repeat' apply And.intro
  all_goals first | decide +kernel | exact issuesA_of (by decide +kernel)

theorem witness_TablesAndHalvesAreSet :
    let s := (demo.setPart 0 { demoPart with pool := [575], halves := [(0, 3)] }).sup
    demo.mem.wf = true ∧ s.mem.wf = true ∧ s.IssuesA t0 (entSys 0xF7 usedDab) anyFields fA fA ∧ (s.strm t0).pl ≠ 0 ∧ 0 < (s.core 0).nCores ∧
      s.corePlace 0x1FFF000 = some 0 ∧ (s.core 0).valid = true ∧ s.IssuesA t0 (entSys 0xFA usedDab) anyFields fA fA ∧
      575 ∈ (s.part 0).pool ∧ (s.half 575).owner = none ∧ NMap.find (s.part 0).halves 575 = none ∧
      s.IssuesA t0 (entSys 0xFA usedDa) anyFields fA fA ∧ NMap.find (s.part 0).halves 0 = some 3 ∧ (s.half 3).run = none ∧ (s.half 3).queue = [] ∧
      (∀ e ∈ (s.part 0).halves, e.2 ≠ 575) ∧ ∃ e ∈ (s.part 0).halves, e.2 = 3 := by
  repeat' apply And.intro
  all_goals first | decide +kernel | exact issuesA_of (by decide +kernel) | exact ⟨(0, 3), by decide, rfl⟩

/-- T exactly 20,000 ticks ahead, and one tick less; two candidates of equal PASS. -/
def demoGang : State := (demo.setPart 0 ((demoPart.setCtx 0 ⟨3, 2, 5, 0, 0, 0, [], 0, 0, 0, none, 0⟩).setCtx 1 ⟨4, 1, 5, 0, 0, 0, [], 0, 0, 0, none, 0⟩)).sup
theorem witness_GangSwitchesAreRequested :
    let s := demoGang
    s.IssuesA t0 (entSys 0xF8 usedDab) anyFields fA fA ∧ s.IssuesA t0 (entSys 0xF8 usedDb) anyFields fA fA ∧ (s.strm t0).pl ≠ 0 ∧
      (s.part 0).gang = none ∧ ¬((20000 : Word).toNat < s.time.toNat + 20000) ∧ (19999 : Word).toNat < s.time.toNat + 20000 ∧
      ((s.part 0).ctx 1).st = 1 ∧ ((s.part 0).ctx 0).pass = ((s.part 0).ctx 1).pass ∧ ((s.part 0).ctx 0).tickets ≠ 0 ∧
      ((s.part 0).ctx 2).st ≠ 1 ∧ { s with cur := .command 0 0 20000 }.cur = .command 0 0 20000 := by
  repeat' apply And.intro
  all_goals first | decide +kernel | exact issuesA_of (by decide +kernel) | rfl
/-- R352: a stride of 2^20 / TICKETS. -/
theorem test_gang_next_takes_the_lower_index : outcomeAll (exec (.gangNext ⟨1, 10, 0, 12, 0, 0, 0⟩) (demoGang.putRegs [(12, 20000)])) (fun r =>
    (r.part 0).gang == some (0, 20000) && r.reg t0 10 == 0 && ((r.part 0).ctx 0).pass == 5 + 349525 && ((r.part 0).ctx 1).pass == 5) = true := by
  decide +kernel

/-- Context 1 is stopped, with its save area at VA 0x100000; VA 0 on is private to core 0. -/
def demoArea : State := ((demoGang.mapped.claim (2 ^ 30) .priv 2).modCtx 0 1 fun x =>
  { x with root := 0x1000, saveBase := 0x100000, dlog := 0xC000000000000000 })
theorem witness_AreasLogsTagsAndKeys :
    let s := demoArea
    s.mem.wf = true ∧ s.IssuesA t0 (entSys 0xF4 usedDab) anyFields fA fA ∧ s.IssuesA t0 (entSys 0xF5 usedDab) anyFields fA fA ∧
      ((s.part 0).ctx 1).st ≠ 0 ∧ ((s.part 0).ctx 1).st ≠ 4 ∧ (s.part 0).running ≠ some 1 ∧ (s.ownArea 0 0).isSome = true ∧
      ((s.areaKeys 0 1 (((s.part 0).ctx 1).area (s.core 0).lcore.toNat)).any fun l => (l.getD 0 none).isSome && (l.getD 15 none).isSome) = true ∧ (s.ctx 0 0).dlog.getLsbD 63 = false ∧
      s.IssuesA t0 (entSys 0xFB usedDa) anyFields fA fA ∧ ((s.part 0).ctx 1).dlog.getLsbD 63 = true ∧
      s.IssuesA t0 (entSys 0xF6 usedDab) anyFields fA fA ∧ s.IssuesA t0 (entSys 0xF9 usedDa) anyFields fA fA ∧
      s.corePlace 0x1FFF001 = some 1 ∧ (s.core 1).occupied = false ∧ (s.core 1).anyEnabled = false ∧ (s.core 0).occupied = true := by
  repeat' apply And.intro
  all_goals first | decide +kernel | exact issuesA_of (by decide +kernel)

theorem witness_ContextsSwitchTogether :
    let s := demoGang.setPart 0 { demoGang.part 0 with gang := some (1, 0) }
    (demoGang.part 0).gang = none ∧ (s.part 0).gang = some (1, 0) ∧ (0 : Word).toNat ≤ s.time.toNat ∧ (s.part 0).starting = false ∧
      (s.part 0).running = some 0 ∧ 0 < 8 ∧ s.settled 0 = true ∧ NMap.find s.saved 1 = none ∧
      ∀ q ∈ s.coresOf 0, (s.die (dieOf q)).relock = none := by decide +kernel
theorem test_switch_captures : 
    let s := demoGang.setPart 0 { demoGang.part 0 with gang := some (1, 0) }
    outcomeAll (exec (.gangSwitch 0) s) (fun r => (r.part 0).running == some 1 && ((r.part 0).ctx 0).st == 1 && ((r.part 0).ctx 1).st == 2 &&
      (NMap.find r.saved 0).isSome && (r.core 0).ctx == 1 && ((r.core 0).slot 0).st == 0) = true := by decide +kernel

theorem witness_DescriptorsAndRegistersAreWritten :
    let s := (demoGang.modCore 0 fun c => { c with partTag := 0xC0 })
    let s := { s with io := { s.io with boot := { s.io.boot with phase := 5 } } }
    s.mem.wf = true ∧ lsState ((s.core 0).laceSlot 15).word = 0 ∧ lsSize 0x1000000 ≤ 1024 ∧ lsBase 0x1000000 + lsSize 0x1000000 ≤ 12288 ∧
      (s.core 0).valid = true ∧ (s.core 0).isSup = true ∧ ((s.part 0).ctx 1).st = 1 ∧ (3 : Word).toNat % 8 = 3 ∧ (s.part 0).running ≠ some 1 ∧
      (s.part 0).gang = none ∧ s.io.boot.phase = 5 ∧ ((s.part 0).ctx 7).st = 0 ∧ lsState (demoSlots.laceWord 0 1) ≠ 0 ∧
      handlerOk 0x8000000000000040 0x201 0 = true ∧ handlerOk 0 0x201 0 = false ∧ s.supOf 0 = some 0 ∧ (s.core 0).nCores = 1 ∧
      (∀ e ∈ State.reset.parts, e.2.running = none) ∧ (s.part 0).running = some 0 ∧ (17 : Word).toNat < 18 := by
  decide +kernel
/-- A page of a save area becomes Private to the context and core. -/
theorem test_creation_claims_a_page :
    let s := demo.mapped
    let r := s.claimPage 0 0 3 0x1000
    ((s.walk 0 0 0x1000 false).any fun l => s.isOwn l.module && l.key == 2 ^ 30) = true ∧ (s.region (2 ^ 30)).st = .unclaimed ∧
      (r.region (2 ^ 30)).st = .priv ∧ (r.region (2 ^ 30)).hcore = 3 := by decide +kernel
/-- Context 7 has a table whose one page holds its core's save area. -/
theorem witness_DescriptorsAndRegistersAreWritten_areas :
    let s := (demo.mapped.modCore 0 fun c => { c with partTag := 0xC0 }).modCtx 0 7 fun x => { x with root := 0x1000 }
    (s.ctx 0 7).st = 0 ∧ s.supOf (tagOf 0) = some 0 ∧ 0 < (s.core 0).nCores ∧ (s.region (2 ^ 30)).st = .unclaimed ∧
      ((s.walk 0 7 ((s.ctx 0 7).area 0) false).any fun l => s.isOwn l.module && l.key == 2 ^ 30) = true := by decide +kernel
/-- An entry of level 3 is rewritten, of the table of a context that runs: its page is not claimed, or is; the frame that is mapped anew
reads as zeros. -/
def demoRemap : State := demo.mapped.store (2 ^ 31) 1 7
def remapWrites : List (Nat × Word) := [(0x3000, 0xC8FFF80000008000)]
def State.rewritten (s : State) : State := remapWrites.foldl (fun s e => s.store (lpddrKey e.1) 8 e.2.toNat) s
theorem remap_other (q k : Nat) : (demoRemap.ctx (q + 1) k).st = 0 := by
  have hp : demoRemap.parts = [(0, demoRemap.part 0)] := by decide +kernel
  have : demoRemap.part (q + 1) = Part.reset := by
    unfold State.part; rw [hp]; rfl
  unfold State.ctx; rw [this]
  by_cases h : k < 8
  · unfold Part.ctx vget Part.reset; simp [h, Ctx.reset]
  · unfold Part.ctx vget; simp [h, Ctx.reset]
theorem remap_free : ((List.range 8).all fun k => (demoRemap.pagesOf 0 (BitVec.ofNat 3 k) ++
    demoRemap.rewritten.pagesOf 0 (BitVec.ofNat 3 k)).all fun l => (demoRemap.region l.key).st == .unclaimed) = true := by decide +kernel
theorem witness_DescriptorsAndRegistersAreWritten_mapping (q k : Nat) (hk : k < 8) (h0 : (demoRemap.ctx q k).st ≠ 0) (l : Leaf)
    (hl : (l ∈ demoRemap.pagesOf (tagOf q) (BitVec.ofNat 3 k) ∧ l ∉ demoRemap.rewritten.pagesOf (tagOf q) (BitVec.ofNat 3 k)) ∨
      (l ∈ demoRemap.rewritten.pagesOf (tagOf q) (BitVec.ofNat 3 k) ∧ l ∉ demoRemap.pagesOf (tagOf q) (BitVec.ofNat 3 k))) :
    (demoRemap.region l.key).st = .unclaimed := by
  rcases q with _ | q
  · have h := List.all_eq_true.mp (List.all_eq_true.mp remap_free k (List.mem_range.mpr hk)) l
      (List.mem_append.mpr (hl.imp And.left And.left))
    exact eq_of_beq h
  · exact absurd (remap_other q k) h0
theorem witness_DescriptorsAndRegistersAreWritten_claimed : (demoRemap.ctx 0 0).st = 2 ∧ demoRemap.mem.wf = true ∧
    (∃ l ∈ demoRemap.pagesOf 0 0, l ∉ demoRemap.rewritten.pagesOf 0 0 ∧ demoRemap.isOwn l.module = true ∧
      ((demoRemap.claim (2 ^ 30) .priv 2).region l.key).st ≠ .unclaimed) ∧
    (∃ l ∈ demoRemap.rewritten.pagesOf 0 0, (∀ o ∈ demoRemap.pagesOf 0 0, o.key ≠ l.key) ∧ demoRemap.isOwn l.module = true ∧
      (demoRemap.region l.key).st = .unclaimed ∧ l.key = 2 ^ 31) := by decide +kernel
theorem test_mapping_zeroes : outcomeAll (exec (.mappingService 0 0 0 remapWrites) demoRemap) (fun r => r.mem.readNat (2 ^ 31) 1 == 0) = true := by
  decide +kernel
/-- A context whose one frame nothing claims is created. -/
theorem test_creation_zeroes : outcomeAll (exec (.contextCreation 0 5 ⟨1, 0x1000, 0, 0⟩) ({ demo.mapped.store (2 ^ 30) 1 7 with
    io := { demo.io with boot := { demo.io.boot with phase := 5 } } })) (fun r => r.mem.readNat (2 ^ 30) 1 == 0) = true := by decide +kernel

/-! ### Kills, launches, the host and boot -/

/-- Context 1 is stopped with a private region and a key; core 0 is the supervisor's. -/
def demoKill : State :=
  let s := ((demoGang.claim (2 ^ 30) .priv 0).modRegion (2 ^ 30) fun r => { r with ctx := 1 }).modCore 0 fun c => { c with partTag := 0xC0 }
  { s with keys := [(1, 4)] }
theorem witness_KillsAndHalts :
    let s := demoKill.putRegs [(1, 1), (2, 9)]
    s.IssuesA t0 (entSys 0xFC usedDab) anyFields fA fA ∧ (s.strm t0).pl ≠ 0 ∧ ((s.part 0).ctx 1).st = 1 ∧ (s.part 0).running = some 0 ∧
      ((s.part 0).ctx 7).st = 0 ∧ (s.region (2 ^ 30)).st ≠ .unclaimed ∧ (s.core 0).lost = false ∧ (s.core 0).valid = true ∧
      (s.core 1).valid = false := by
  repeat' apply And.intro
  all_goals first | decide +kernel | exact issuesA_of (by decide +kernel)
/-- HALT.q of the issuer's own context: a live launch with a handler entry, and one in the queue. -/
theorem witness_KillsAndHalts_launches :
    let l : Launch := ⟨0, 0, 0, 0, 0, .packet⟩
    let s := (demoKill.modPart 0 fun p => { p with live := [⟨5, l, [0], [], 0⟩], queue := [l] }).modCore 0 fun c => c.setHandler 3 ⟨0, 0, 0, 5⟩
    s.IssuesA t0 (entSys 0xFC usedDab) anyFields fA fA ∧ (s.strm t0).pl ≠ 0 ∧ ((s.part 0).ctx 0).st = 2 ∧ (s.part 0).running = some 0 ∧
      (∃ x ∈ (s.part 0).live, x.launch.ctx.toNat = 0 ∧ x.num ≠ 0) ∧ ((s.core 0).handler 3).launch = 5 ∧ 0 ∈ s.coresOf 0 :=
  ⟨issuesA_of (by decide +kernel), by decide +kernel, by decide +kernel, by decide +kernel, ⟨_, List.mem_singleton.mpr rfl, by decide, by decide⟩,
    by decide +kernel, by decide +kernel⟩
theorem test_halt_kills : outcomeAll (exec (.halt fA) (demoKill.putRegs [(1, 1), (2, 9)])) (fun r =>
    r.reg t0 3 == 0 && ((r.part 0).ctx 1).st == 4 && ((r.part 0).ctx 1).kill.getD 0 0 == 9 && (r.region (2 ^ 30)).st == .unclaimed &&
      NMap.find r.keys 1 == none) = true := by decide +kernel

/-- A gang image of one record: handler 3, channel 2 with 4 units and one message to it. -/
def demoImageWords : List Word := [0x80081000, 3, 0x8000000000000080, 0x201, 0, 2, 0x80040040, 0x102, 7]
def demoPlacing : Placing := ⟨⟨0, 0, 0, 0, 0, .packet⟩, [], demoImageWords⟩
def demoPlaced : Placing :=
  { demoPlacing with recs := [⟨0, [(3, 0x8000000000000080, 0x201, 0)], [(2, 0x80040040)], [], [(2, [7])]⟩], rest := [] }
def demoLaunch : State := (demo.modCore 0 fun c => { c with partTag := 0xC0 }).modPart 0 fun p => { p with placing := some demoPlacing }
theorem witness_LaunchesArePlacedAndRetired :
    let s := demoLaunch
    s.dispatches 0 = true ∧ (s.part 0).outranked = false ∧ (s.part 0).placing = some demoPlacing ∧ demoPlacing.recs = [] ∧
      s.supOf 0 = some 0 ∧ (match s.reserve 0 1 demoPlacing with
        | .ok y => y == demoPlaced
        | .error _ => false) = true ∧ (s.part 0).live.length < 65535 ∧
      (match s.reserve 0 1 { demoPlacing with rest := [0x80080001] } with
        | .ok _ => false
        | .error e => e == 0x08) = true := by decide +kernel
/-- The same launch after an act that has reserved handler 4 of the same core and lace slot 3. -/
def demoLater : Placing := { demoPlacing with recs := [⟨0, [(4, 0x8000000000000040, 0x201, 0)], [], [(3, 8)], []⟩] }
theorem witness_LaunchesArePlacedAndRetired_later :
    (match demoLaunch.reserve 0 1 demoLater with
      | .ok y => y.rest.isEmpty && y.recs.length == 2 && !y.recs.any demoLaunch.laceTaken &&
          y.recs.any (demoLaunch.modCore 0 fun c => c.setLace 3 { c.laceSlot 3 with word := 0x4000000000000000 }).laceTaken
      | .error _ => false) = true ∧
      (demoLater.recs.Pairwise fun q r => q.pos = r.pos → (∀ i ∈ q.hs, i ∉ r.hs) ∧ (∀ i ∈ q.cs, i ∉ r.cs) ∧ ∀ i ∈ q.ls, i ∉ r.ls) ∧
      ∀ r ∈ demoLater.recs, r.hs.Nodup ∧ r.cs.Nodup ∧ r.ls.Nodup ∧ ∀ i ∈ r.ls, i < 16 := by
  repeat' apply And.intro
  all_goals decide +kernel
/-- Two reserved records of one core that share nothing. -/
theorem witness_LaunchesArePlacedAndRetired_apart :
    ((demoLater.recs ++ demoPlaced.recs).Pairwise fun q r =>
      q.pos = r.pos → (∀ i ∈ q.hs, i ∉ r.hs) ∧ (∀ i ∈ q.cs, i ∉ r.cs) ∧ ∀ i ∈ q.ls, i ∉ r.ls) ∧
      demoLaunch.halts 0 = false := by decide +kernel
/-- The same launch with a lace slot that was Empty when it was reserved: it still is, or it has left Empty since. -/
theorem witness_LaunchesArePlacedAndRetired_lace :
    let y : Placing := { demoPlaced with recs := [⟨0, [], [], [(3, 8)], []⟩] }
    demoPlaced.recs.any demoLaunch.laceTaken = false ∧ y.recs.any demoLaunch.laceTaken = false ∧
      y.recs.any (demoLaunch.modCore 0 fun c => c.setLace 3 { c.laceSlot 3 with word := 0x4000000000000000 }).laceTaken = true := by decide +kernel
theorem witness_LaunchesArePlacedAndRetired_ends :
    let l : Launch := ⟨1, 3, 0, 0, 0, .packet⟩
    let s := demoLaunch.modPart 0 fun p => { p with queue := [l], live := [⟨5, demoPlacing.launch, [0], [(0, 2)], 0⟩] }
    (s.part 0).outranked = true ∧ (s.part 0).placing = some demoPlacing ∧ demoLaunch.halts 0 = false ∧
      (s.part 0).live.find? (fun l => l.num == 5) = some ⟨5, demoPlacing.launch, [0], [(0, 2)], 0⟩ ∧ (s.part 0).running = some 0 ∧
      (s.part 0).starting = false ∧ s.busy 0 ⟨5, demoPlacing.launch, [0], [(0, 2)], 0⟩ = false := by decide +kernel
theorem test_launch_goes : outcomeAll (exec (.launchPlacement 0 1) demoLaunch) (fun r =>
    (r.part 0).lastNum == 1 && (r.part 0).live.length == 1 && ((r.core 0).handler 3).launch == 1 && cfgEn ((r.core 0).cfg 2) &&
      r.mesh.length == 1) = true := by decide +kernel

/-- 255 doorbells; a slot that names context 0 with no reply. -/
theorem witness_HostLaunchesByDoorbell :
    let v : Vf := { Vf.reset with bells := [1], subs := [(8, 0x0)] }
    let s := (demo.modPart 0 fun p => { p with vf := v })
    (s.part 0).vf.bells = [1] ∧ (s.part 0).queue.length < 256 ∧ v.pending + (v.c - v.take).toNat < 256 ∧
      ((s.part 0).ctx 0).st = 2 ∧ s.replyOk 0 0 = true ∧ s.replyOk 0 0x80000000 = false ∧ ((s.part 0).ctx 7).st = 0 ∧
      (List.replicate 255 (0 : Byte)).length < 256 := by decide +kernel

/-- A queue of 254 launches has room for one beside a launch that is being placed, one of 255 only without it. -/
theorem witness_HostLaunchesByDoorbell_room :
    let q (n : Nat) : Part := { demoPart with queue := List.replicate n ⟨0, 0, 0, 0, 0, .packet⟩ }
    let placed (n : Nat) : Part := { q n with placing := some demoPlacing }
    let used (p : Part) : Nat := p.queue.length + (if p.placing = none then 0 else 1)
    used (placed 254) < 256 ∧ used (q 255) < 256 ∧ ¬used (placed 255) < 256 := by decide +kernel

/-- Entries of a launch table: an unknown tenant, one whose number names no partition, and one with a replayed number. -/
theorem witness_PacketsAndBlocksAreTaken :
    let s : State := { demo with io := { demo.io with table := [(0, ⟨7, 1, 0xFF, 3, 0, 0, 0⟩), (1, ⟨0, 0, 0xFF, 3, 0, 0, 0⟩)], boot := { demo.io.boot with phase := 5 } } }
    let x : BitVec 768 := 7
    s.io.boot.phase = 5 ∧ demo.io.boot.phase ≠ 5 ∧ (∀ e ∈ s.io.table, e.2.tenant ≠ 9) ∧
      s.io.table.find? (fun e => e.2.tenant == x.extractLsb' 0 32) = some (0, ⟨7, 1, 0xFF, 3, 0, 0, 0⟩) ∧ s.partOfGpid 1 = none ∧
      s.io.table.find? (fun e => e.2.tenant == 0) = some (1, ⟨0, 0, 0xFF, 3, 0, 0, 0⟩) ∧ s.partOfGpid 0 = some 0 ∧
      ¬((0 : Word).toNat < (0 : Word).toNat) := by decide +kernel
theorem extract_low (g : BitVec 128) (y : BitVec 640) {k n : Nat} (h : k + n ≤ 640) : (g ++ y).extractLsb' k n = y.extractLsb' k n := by
  apply BitVec.eq_of_getLsbD_eq
  intro i hi
  simp only [BitVec.getLsbD_extractLsb', BitVec.getLsbD_append, show k + i < 640 by omega, if_true]
theorem extract_high (g : BitVec 128) (y : BitVec 640) : (g ++ y).extractLsb' 640 128 = g := by
  apply BitVec.eq_of_getLsbD_eq
  intro i hi
  simp only [BitVec.getLsbD_extractLsb', BitVec.getLsbD_append, show ¬640 + i < 640 by omega, if_false, Nat.add_sub_cancel_left, hi,
    decide_true, Bool.true_and]
/-- A packet of tenant 7 with number 4 for context 0, whose last 16 bytes are its code under the entry's key. -/
def demoBody : BitVec 640 := 0x40000000000000007
def demoLaunchPacket : BitVec 768 := Config.gmac 5 demoBody ++ demoBody
theorem witness_PacketsAndBlocksAreTaken_genuine :
    let e : LaunchEntry := ⟨7, 0, 0xFF, 3, 5, 3, 0⟩
    Config.gmac e.key (demoLaunchPacket.extractLsb' 0 640) = demoLaunchPacket.extractLsb' 640 128 ∧ e.lastSeq.toNat < (demoLaunchPacket.extractLsb' 64 64).toNat ∧
      demoLaunchPacket.extractLsb' 0 32 = 7 ∧ (demoLaunchPacket.extractLsb' 128 64).toNat / 16 % 8 = 0 ∧ demoLaunchPacket.extractLsb' 256 64 = 0 ∧
      e.mask.getLsbD 0 = true ∧ (demo.ctx 0 0).st = 2 ∧ demo.replyOk 0 0 = true ∧ demo.partOfGpid 0 = some 0 := by
  unfold demoLaunchPacket
  have low (k n : Nat) (h : k + n ≤ 640) := extract_low (Config.gmac 5 demoBody) demoBody h
  rw [extract_high, low 0 640 (by decide), low 64 64 (by decide), low 0 32 (by decide), low 128 64 (by decide), low 256 64 (by decide)]
  refine ⟨by rw [show demoBody.extractLsb' 0 640 = demoBody from by decide], ?_⟩
  decide +kernel
theorem witness_PacketsAndBlocksAreTaken_blocks :
    let p := (gateways 0).headD 0
    let b : BlockStream := ⟨0, 3, p, 2, 4⟩
    let s : State := { demo with io := { demo.io with streams := [b], routes := [(5, 0)] } }
    p ∈ gateways 0 ∧ 5000 ∉ gateways 0 ∧ 0 < 2 ∧ 2 < 63 ∧ (b.chan = 2) ∧ 0 ∉ s.io.down ∧ s.portQueue 0 = [] ∧ s.io.streams.find? (fun b => b.of 0 3) = some b ∧
      s.io.streams.find? (fun b => b.of 0 4) = none ∧ NMap.find s.io.routes 5 = some 0 ∧ s.isOwn 5 = false ∧
      (s.setQueue 0 [⟨3, 4, 0, 1⟩]).portQueue 0 = [⟨3, 4, 0, 1⟩] := by decide +kernel
theorem test_block_in_order_is_delivered :
    let p := (gateways 0).headD 0
    let s : State := { demo with io := { demo.io with streams := [⟨0, 3, p, 2, 4⟩] } }
    outcomeAll (exec (.blockArrival 0 3 4 0 1) s) (fun r => r.mesh.length == 1 && r.portQueue 0 == []) = true ∧
      outcomeAll (exec (.blockArrival 0 3 5 0 1) s) (fun r => r.mesh.length == 0 && (r.portQueue 0).length == 1) = true := by decide +kernel

theorem witness_BootRunsAndRetries :
    let at_ (phase : BitVec 4) : State := { demo with io := { demo.io with boot := { demo.io.boot with phase := phase } } }
    let waits : State := { demo with io := { demo.io with boot := { demo.io.boot with phase := 2, retry := some 7 } } }
    (at_ 0).io.boot.phase = 0 ∧ (at_ 1).io.boot.phase = 1 ∧ (at_ 2).io.boot.phase = 2 ∧ (at_ 4).io.boot.phase = 4 ∧
      (at_ 4).io.boot.retry = none ∧ waits.io.boot.retry = some 7 ∧ waits.time.toNat < 7 ∧
      7 ≤ ({ waits with time := 7 } : State).time.toNat := by decide +kernel

/-- R420: the first failed lease waits a second. -/
theorem test_dhcp_failure : let s : State := { demo with io := { demo.io with boot := { demo.io.boot with phase := 1 } } }
    outcomeAll (exec (.dhcpLease false) s) (fun r => r.io.boot.code == 1 && r.io.boot.retry == some 1000000000 && r.io.boot.wait == 2000000000) =
      true := by decide +kernel

/-! ### Fetch, steps, decoding and the invariant -/

theorem witness_FetchesFillTheCache :
    let s := demo.mapped.claim (2 ^ 30) .published 2
    s.slotMoves t0 = true ∧ (s.strm t0).pend = none ∧ pcBad (s.strm t0).pc = false ∧ pcBad 0x3E = true ∧ s.icLine 0 0 = none ∧ (s.strm t0).badLine = none ∧
      (s.walk 0 0 0 true).any (fun l => s.isOwn l.module && l.key == 2 ^ 30) = true ∧ (s.region (2 ^ 30)).fetchable = true ∧
      ((demo.mapped.claim (2 ^ 30) .priv 2).region (2 ^ 30)).fetchable = false ∧ s.reachable 0 0 = true ∧
      (s.setDie (dieOf 0) { s.die (dieOf 0) with relock := some 0 }).reachable 0 0 = false := by decide +kernel

/-- ADD s3, s1, s2 stands where the first step fetches. -/
def demoStep : State := State.reset.withFetchWord 96 0x200030420000000000000000
theorem witness_StepRunsTheDecodedInstruction :
    let s0 : State := { demoStep with agenda := [] }
    demoStep.agenda = .stream t0 :: [] ∧ streamExists t0 = true ∧ s0.coreMoves 0 false = true ∧ s0.slotMoves t0 = true ∧ (s0.slot t0).firstLate = none ∧ (s0.strm t0).dueLate = none ∧
      (s0.strm t0).pend = none ∧ (s0.icLine 0 (pcLine (s0.strm t0).pc)).any (fun l =>
        lineWordOk l && slotStream l 0 == false && slotOk l 0 && slotWord l 0 == 0x200030420000000000000000) = true ∧
      (s0.strm t0).entering = false ∧ pcBad (s0.strm t0).pc = false ∧ s0.interlocked t0 ((form (.add ⟨0, 3, 1, 2, 0, 0, 0⟩)).usesRep none) = false ∧
      ((form (.add ⟨0, 3, 1, 2, 0, 0, 0⟩)).usesRep none).touches = false ∧
      ((form (.add ⟨0, 3, 1, 2, 0, 0, 0⟩)).usesRep none).vec = false ∧ (s0.slot t0).board = 0 ∧ (s0.slot t0).lost = 0 := by decide +kernel
theorem test_first_step_runs_the_word :
    (match step (State.reset.withFetchWord 96 0x3C0090000000456789ABCDEF) with
      | .next s => s.reg t0 9 == 0x456789ABCDEF && (s.strm t0).pc == 1
      | _ => false) = true := by decide +kernel
theorem test_first_step_traps_on_an_illegal_word :
    (match step (State.reset.withFetchWord 96 0xFD0000000000000000000000) with
      | .next s => (s.slot t0).trapCause == 1 && (s.slot t0).st == 2
      | _ => false) = true := by decide +kernel
theorem witness_DecodingAndEncodingAgree : (Instr.addi ⟨0, 63, 63, 63, 0, 0, 0xFFFFFFFFFFFF⟩).wellFormed = true ∧
    decode 0x3C0090000000456789ABCDEF = some (.li ⟨0, 9, 0, 0, 0, 0, 0x456789ABCDEF⟩) := by decide
theorem witness_EveryStepKeepsTheMemoryCanonical : demoStep.Inv ∧ ∃ s', step demoStep = .next s' := by
  refine ⟨?_, ?_⟩
  · show demoStep.mem.wf = true
    decide
  · have h : (match step demoStep with
      | .next _ => true
      | _ => false) = true := by decide +kernel
    split at h
    · rename_i s' he; exact ⟨s', he⟩
    · cases h

/-! ### Scalar floating point, addresses, prefixes and control flow -/

def fF : FmtA := { fA with fn := 11 }
theorem witness_FloatArithmeticRoundsOnce :
    demo.IssuesA t0 (entFp 0x48 usedDab) anyFields fF fF ∧ demo.IssuesA t0 (entFp 0x4B usedDabc) anyFields fF fF ∧
      demo.IssuesA t0 (entFp 0x4D usedDa) anyFields fF fF ∧
      demo.IssuesA t0 (entFp 0x52 ⟨true, true, false, true, false⟩) (fun g => cvtType g.c) { fF with c := 12 } { fF with c := 12 } ∧
      (demo.modStrm t0 fun st => { st with fmt := some ⟨0, 0, 0, 0, 0, false, 4⟩ }).IssuesA t0 (entFp 0x48 usedDab) anyFields fF fF :=
  ⟨issuesA_of (by decide), issuesA_of (by decide), issuesA_of (by decide), issuesA_of (by decide), issuesA_of (by decide)⟩
theorem witness_FloatMovesAndComparisons :
    demo.IssuesA t0 (entInt 0x4E usedDab) anyFields fF fF ∧ demo.IssuesA t0 (entInt 0x51 usedDa) anyFields fF fF ∧
      demo.IssuesA t0 (entInt 0x55 usedDa) anyFields fF fF ∧ demo.IssuesA t0 (entInt 0x55 usedDab) anyFields fF fF ∧ 9 ≤ 12 ∧ 12 ≤ 12 := by
  repeat' apply And.intro
  all_goals first | decide +kernel | exact issuesA_of (by decide +kernel)
theorem witness_RoundingAndSaturation : 9 ≤ 15 ∧ 15 ≤ 15 ∧ 4 ≤ 4 ∧ 2 ^ tyW 15 - 1 < 2 ^ tyW 15 ∧ 8 ≤ 8 ∧ (Val.zero false).isZero = true ∧ 1 ≠ 0 := by decide
/-- 1.0 + 1.0 = 2.0 in f32; 1.0 / 3.0 rounds up to 0x3EAAAAAB. -/
theorem test_f32 :
    let s := demo.putRegs [(1, 0x3F800000), (2, 0x3F800000), (4, 0x40400000)]
    outcomeAll (exec (.fadd fF) s) (fun r => r.reg t0 3 == 0x40000000) = true ∧
      outcomeAll (exec (.fdiv { fF with b := 4 }) s) (fun r => r.reg t0 3 == 0x3EAAAAAB) = true := by decide +kernel

theorem witness_AddressesAndCoresAreNamed :
    let g : FmtA := { fA with imm := 0xFFFFFFFFFFFF }
    let s := demo.putRegs [(1, 0), (2, 0x20000000)]
    s.IssuesA t0 (entInt 0x40 usedDab) anyFields g g ∧ (s.reg t0 2 + g.imm.signExtend 64).toNat < 2 ^ 29 ∧ s.lct 0 (s.reg t0 1).toNat = some 0 ∧
      (0x1FFFFFF : Word).toNat < 2 ^ 25 ∧ 2 ^ 29 ≤ (s.reg t0 2 + fA.imm.signExtend 64).toNat ∧ s.lct 0 1 = none ∧
      demo.IssuesA t0 (entInt 0x41 usedDabc) anyFields fA fA ∧ (-32 : Int) ≤ (-32 : Word).toInt ∧ (31 : Word).toInt ≤ 31 ∧ 31 < (32 : Word).toInt ∧
      demo.IssuesA t0 (entInt 0x42 usedDa) anyFields fA fA ∧ demo.IssuesA t0 (entInt 0x43 usedD) anyFields fA fA ∧ t0.core < 2304 ∧
      demo.IssuesA t0 (entInt 0x44 usedDab) anyFields fA fA ∧ (demo.core 0).nCores ≠ 0 := by
  repeat' apply And.intro
  all_goals first | decide +kernel | exact issuesA_of (by decide +kernel)
/-- spec/04_registers_and_scalar.md: logical core 5 at x = 13, y = 30 of the table; MADR.vault s5, s4, 0x1000. -/
theorem test_madr_vault :
    let s := ((demo.store 20 4 (0x80000000 + 30 * 64 + 13)).modCore 0 fun c => { c with lctBase := 0x0060000000000000 }).putRegs [(4, 5)]
    outcomeAll (exec (.madr ⟨1, 5, 4, 0, 0, 0, 0x1000⟩) s) (fun r =>
      r.reg t0 5 == 1#8 ++ 0x1FFF#13 ++ 30#6 ++ 13#6 ++ 1#2 ++ 0x1000#29) = true := by decide +kernel

theorem witness_PrefixesPendRepeatOrTrap :
    let r : FmtR := ⟨255, 0, 0, 0, 0⟩
    let s := demo.modStrm t0 fun st => { st with rep := some r, repcnt := 255 }
    let s1 := demo.modStrm t0 fun st => { st with fmt := some ⟨0, 0, 0, 0, 0, false, 0⟩ }
    t0.slot < 5 ∧ demo.IssuesA t0 (entInt 0x00 ⟨false, false, false, false, false⟩) anyFields fA fA ∧ demo.cur = .stream t0 ∧
      (demo.strm t0).fmt = none ∧ (demo.strm t0).rep = none ∧ (demo.strm t0).repcnt = 0 ∧ (s1.strm t0).fmt.isSome = true ∧
      (s.strm t0).rep.isSome = true ∧ s.IssuesA t0 (entInt 0x20 usedDab) anyFields fA fA ∧ r.count ≠ 0 ∧
      (entInt 0x20 usedDab).illegal t0 (s.strm t0) = false ∧ (entInt 0x20 usedDab).u.c = false ∧
      (63 : Int) < (62 : Int) + (3 - 1) * (1 : Byte).toInt ∧ (62 : Int) + (2 - 1) * (1 : Byte).toInt ≤ 63 := by
  repeat' apply And.intro
  all_goals first | decide +kernel | exact issuesA_of (by decide +kernel) | rfl
/-- Two repetitions with a stride of D: the program counter stands after the first, and the prefix is gone after the second. -/
theorem test_rep_steps_d :
    let s := (demo.putRegs [(1, 5)]).modStrm t0 fun st => { st with rep := some ⟨2, 1, 0, 0, 0⟩, repcnt := 2 }
    outcomeAll (exec (.add fA) s) (fun r => r.reg t0 3 == 5 && (r.strm t0).pc == 0 && (r.strm t0).repcnt == 1 &&
      outcomeAll (exec (.add fA) r) fun q => q.reg t0 4 == 5 && (q.strm t0).pc == 1 && (q.strm t0).rep == none) = true := by decide +kernel

/-- The line at 0 holds END in slot 0 and NOPs after it; slots 0 and 4 may be entered. -/
def endLine : Line := 0x00000011#32 ++ 0#384 ++ 0x170000000000000000000000#96
def demoLine : State := { demo with icache := [(0, [⟨0, 0, 0, endLine⟩])] }
def State.atPc (s : State) (pc : Pc) : State := s.modSlot t0 fun sl => { sl with x := { sl.x with pc := pc }, a := { sl.a with pc := pc } }

/-- A transfer from the last slot of the line to its first, one from the first slot to the last, and one that would go below slot 0. -/
theorem witness_BranchesGoToTheirTarget :
    let s := demoLine.atPc 4
    s.IssuesB t0 ∧ (slotNo (s.strm t0).pc : Int) + (-4 : BitVec 32).toInt = (0 : Nat) ∧ s.Lands t0 (pcOfNo 0) s ∧
      condHolds 0 (s.reg t0 1) (s.reg t0 2) = true ∧ condHolds 1 (s.reg t0 1) 5 = false ∧
      (s.reg t0 1).extractLsb' 56 8 = 0 ∧ s.Lands t0 ((4 : Word).extractLsb' 0 56) s ∧ s.reg t0 1 ≠ 1 ∧ s.reg t0 1 = 0 := by
  have hl (k : Nat) (h : slotTgt endLine k = true) (pc : Pc) (hp : pcSlot pc = k) (hk : k ≤ 4) (hz : pc.extractLsb' 3 3 = 0) (hv : pcLine pc = 0) :
      (demoLine.atPc 4).Lands t0 pc (demoLine.atPc 4) := by
    refine ⟨hz, by omega, ?_, .inl ⟨endLine, ?_, by decide, by rw [hp]; exact h⟩⟩
    · have hr : (demoLine.atPc 4).relocks = false := by decide +kernel
      unfold State.lineShut State.reachable
      rw [hr]; rfl
    have : (demoLine.atPc 4).icLine 0 0 = some endLine := by decide +kernel
    simp only [State.getLine, hv, t0, this]
  refine ⟨⟨rfl, rfl, by decide, by decide⟩, by decide, hl 0 (by decide) _ (by decide) (by decide) (by decide) (by decide), by decide, by decide,
    by decide, hl 4 (by decide) _ (by decide) (by decide) (by decide) (by decide), by decide, by decide⟩
theorem witness_TransfersMoveOrTrap :
    let s := demoLine.putRegs [(1, 1)]
    t0.slot < 5 ∧ s.IssuesB t0 ∧ (slotNo (s.strm t0).pc : Int) + (-1 : BitVec 32).toInt < 0 ∧ 4 < (5 : Word).toNat % 8 ∧
      (s.reg t0 1).toNat % 8 ≤ 4 ∧ s.icLine 0 (pcLine ((s.reg t0 1).extractLsb' 0 56)) = some endLine ∧ lineWordOk endLine = true ∧
      slotTgt endLine 1 = false ∧ 5 * 2 ^ 50 ≤ (slotNo 0xFFFFFFFFFFFFC4 : Int) + (1 : BitVec 32).toInt := by
  repeat' apply And.intro
  all_goals first | decide +kernel | (constructor <;> decide +kernel)
/-- The target's line is cached and whole. -/
theorem witness_TransfersMoveOrTrap_line (s : State) (hs : s = demoLine.putRegs [(1, 1)]) :
    s.lineShut t0 (pcLine ((s.reg t0 1).extractLsb' 0 56)) = false ∧ s.getLine t0 0 = .line endLine s ∧
      pcLine ((s.reg t0 1).extractLsb' 0 56) = 0 := by
  have hl : s.icLine t0.core 0 = some endLine := by rw [hs]; decide +kernel
  refine ⟨?_, by simp only [State.getLine, hl], by rw [hs]; decide +kernel⟩
  have hr : s.relocks = false := by rw [hs]; decide +kernel
  unfold State.lineShut State.reachable
  rw [hr]; rfl
/-- A cached line whose line word fails, while device memory holds the whole line. -/
theorem witness_BranchesGoToTheirTarget_again :
    let bad : Line := 0xFFFFFFFF#32 ++ 0#480
    let s : State := { ((demo.mapped.claim (2 ^ 30) .published 2).store (2 ^ 30) 64 endLine.toNat) with icache := [(0, [⟨0, 0, 0, bad⟩])] }
    s.icLine 0 0 = some bad ∧ lineWordOk bad = false ∧ s.reread t0 0 bad = .fresh endLine ∧ lineWordOk endLine = true ∧
      slotTgt endLine 4 = true := by decide +kernel
theorem test_branch_checks_tgt :
    outcomeAll (exec (.jr ⟨0, 1, 0, 0, 0, 0⟩) (demoLine.putRegs [(1, 4)])) (fun r => (r.strm t0).pc == 4) = true ∧
      outcomeAll (exec (.jr ⟨0, 1, 0, 0, 0, 0⟩) (demoLine.putRegs [(1, 3)])) (fun r => (r.slot t0).trapCause == 2) = true := by decide +kernel

/-- A peer of core 1 that is stalled at the same ALIGN, and one that is not. -/
def demoPeer (w : Option Wait) : State :=
  (demoLine.modCore 1 fun c => { c with partTag := 0x80 }.setSlot 0 { Slot.reset with st := 1, x := { Strm.reset with pend := w } })
def demoAlign : Wait := ⟨.align, .align ⟨0, 0, 0, 3, 0, 5⟩, some 0, none, none⟩
theorem witness_AlignIsReleasedAndEndFrees :
    let s := demoPeer (some demoAlign)
    let s1 := demoPeer none
    let s2 := s1.modStrm t0 fun st => { st with pend := some demoAlign }
    s.IssuesB t0 ∧ s.peers t0 = [⟨1, 0, false⟩] ∧ (s.peers t0).all (s.peerReady (s.strm t0).pc) = true ∧
      (s1.peers t0).all (s1.peerReady (s1.strm t0).pc) = false ∧ (s1.strm t0).pend = none ∧ (0x10000 : BitVec 32).toNat % 2 ^ 16 = 0 ∧
      (0xFFFF : BitVec 32).toNat % 2 ^ 16 ≠ 0 ∧ (s2.strm t0).pend = some demoAlign ∧ (0 : Word).toNat ≤ s2.time.toNat ∧
      demoLine.IssuesB t0 ∧ (demoLine.slot t0).st = 1 ∧ (demoLine.slot t0).stageOf = none ∧ demoLine.mayEnd t0 = true ∧
      (demoLine.slot t0).succ = [] := by
  repeat' apply And.intro
  all_goals first | decide +kernel | (constructor <;> decide +kernel)
/-- The firing of a first stage that has a second; END is next, and the second stage has room or none. -/
def demoStageEnd (held : List Held) : State :=
  let b : Binding := { demoBinding with stages := [demoSd, demoSd], insts := [0, 1], l := 1 }
  (demoLine.setLink 0 ⟨[b], [demoInst, { demoInst with id := 1, stage := 1, held := held }], [(0, 0)], 1, 2⟩).modSlot t0 fun sl =>
    { sl with stageOf := some ⟨0, 0, false, 0, false, 0, false⟩ }
theorem witness_AlignIsReleasedAndEndFrees_stage :
    let s := demoStageEnd []
    let full := demoStageEnd (List.replicate 64 demoHeld)
    s.IssuesB t0 ∧ (s.slot t0).st = 1 ∧ (s.slot t0).emitted = none ∧ (s.link 0).inst 0 = some demoInst ∧ demoInst.failed = false ∧
      demoInst.gone = false ∧ s.mayEnd t0 = true ∧ (s.slot t0).succ = [] ∧ (s.link 0).fullTarget demoInst 0 = false ∧
      (full.link 0).fullTarget demoInst 0 = true ∧ (full.link 0).inst 0 = some demoInst ∧ full.mayEnd t0 = true ∧
      ((s.link 0).insts.map (·.id)).Nodup ∧ ((s.link 0).targets demoInst 0).map (·.id) = [1] := by
  repeat' apply And.intro
  all_goals first | decide +kernel | exact ⟨rfl, rfl, by decide +kernel, by decide +kernel⟩ | rfl
/-- Successors at the own core and at module 5, by a port that is up. -/
theorem witness_AlignIsReleasedAndEndFrees_successors :
    let s := demoLine.modSlot t0 fun sl => { sl with succ := [0x1FFF000] }
    s.mayEnd t0 = true ∧ s.storesDone t0 = true ∧ s.isOwn (shModule 0x1FFF000) = true ∧ (s.lct 0 (shLcore 0x1FFF000).toNat).isSome = true ∧
      s.isOwn (shModule 0x5000) = false ∧ s.portDown (shModule 0x5000) = false := by decide +kernel
theorem test_end_frees : outcomeAll (exec (.end_ ⟨0, 0, 0, 0, 0, 0⟩) demoLine) (fun r => (r.slot t0).st == 0) = true := by decide +kernel


/-! ### Vector instructions -/

def fV : FmtV := ⟨0, 2, 0, 1, 3, 4, 3, 0, false, 0⟩
/-- A stack of predicates of the issuing slot. -/
def State.putPreds (s : State) (ps : List Word) : State := s.modSlot t0 fun sl => { sl with preds := ps }
/-- Vector registers of the issuing slot. -/
def State.putVecs (s : State) (xs : List (BitVec 5 × Vec)) : State := xs.foldl (fun s e => s.setVreg t0 e.1 e.2) s

theorem laneForms_issue : ∀ x ∈ laneForms, demo.IssuesV t0 x.2 fV fV := by
  have h : (laneForms.all fun x => canIssueV demo t0 x.2 fV fV) = true := by decide +kernel
  exact fun x hx => issuesV_of (List.all_eq_true.mp h x hx)
theorem stackForms_issue (d : Nat) (hd : d = 0 ∨ d = 1 ∨ d = 7 ∨ d = 8) :
    ∀ e ∈ [entVec 0x97 vAbs false, entVec 0x98 vNone false, entVec 0x99 vNone false],
      (demo.putPreds (List.replicate d 5)).IssuesV t0 e fV fV := by
  have h : ([0, 1, 7, 8].all fun d => [entVec 0x97 vAbs false, entVec 0x98 vNone false, entVec 0x99 vNone false].all fun e =>
      canIssueV (demo.putPreds (List.replicate d 5)) t0 e fV fV) = true := by decide +kernel
  intro e he
  refine issuesV_of (List.all_eq_true.mp (List.all_eq_true.mp h d ?_) e he)
  obtain rfl | rfl | rfl | rfl := hd <;> simp
/-- Stacks of 0, 1, 7 and 8 predicates; every lane-wise form issues. -/
theorem witness_LaneResultsAndPredicates :
    (∀ x ∈ laneForms, demo.IssuesV t0 x.2 fV fV) ∧ (((demo.putPreds (List.replicate 7 5)).slot t0).preds.length < 8) ∧
      8 ≤ (((demo.putPreds (List.replicate 8 5)).slot t0).preds.length) ∧ 0 < (((demo.putPreds (List.replicate 1 5)).slot t0).preds.length) ∧
      ((demo.putPreds (List.replicate 0 5)).slot t0).preds.length = 0 :=
  ⟨laneForms_issue, by decide, by decide, by decide, by decide⟩
theorem witness_Reductions : ∀ x ∈ laneForms, demo.IssuesV t0 x.2 fV fV := laneForms_issue
theorem witness_ConversionsAndBlocks :
    let g : FmtV := { fV with ty := 1, imm := 27 }
    (9 ≤ g.imm.toNat % 16 ∧ g.imm.toNat % 16 ≤ 11) ∧ demo.IssuesV t0 (entVec 0xA6 vDabs true) g g ∧
      demo.IssuesV t0 (entVec 0xA5 vDa true) fV fV ∧ demo.IssuesV t0 (entVec 0xA7 vDas true) fV fV ∧
      demo.IssuesV t0 (entVec 0xA8 vDabs true) g g := by
  repeat' apply And.intro
  all_goals first | decide +kernel | exact issuesV_of (by decide +kernel)
/-- VCBD with a table that ends where local memory ends. -/
theorem witness_ConversionsAndBlocks_tables :
    let s := demo.putRegs [(4, localAddr 0 (localSize - 2048))]
    s.IssuesV t0 (entVec 0xA9 vDas false) fV fV ∧ s.ownLocal t0 (s.reg t0 4) = .ok (localSize - 2048) ∧ (s.reg t0 4).toNat % 8 = 0 ∧
      s.drained t0 = true ∧ s.badIn (localKey 0 (localSize - 2048)) 2048 = none :=
  ⟨issuesV_of (by decide +kernel), ok_of (by decide +kernel), by decide +kernel, by decide +kernel, by decide +kernel⟩

/-- R159: VADD of i32 lanes wraps, and a lane whose predicate bit is clear keeps its value. -/
theorem test_vadd_wraps :
    let s := (demo.putVecs [(0, 0x7FFFFFFF00000001), (1, 0x0000000100000002), (2, 0x0000000700000007)]).putPreds [0x0F]
    outcomeAll (exec (.vadd { fV with p := true }) s) (fun r => laneOf 32 (r.vreg t0 2) 0 == 3 && laneOf 32 (r.vreg t0 2) 1 == 7) = true ∧
      outcomeAll (exec (.vadd fV) s) (fun r => laneOf 32 (r.vreg t0 2) 1 == 0x80000000) = true := by decide +kernel
/-- R161: VRSUM of the bytes −1 and 2 with 62 zeros is 1. -/
theorem test_vrsum : outcomeAll (exec (.vrsum { fV with ty := 1 }) (demo.putVecs [(0, 0x02FF)])) (fun r => r.reg t0 4 == 1) = true := by
  decide +kernel
/-- R155: VCMP of a ninth predicate traps 0x09. -/
theorem test_vcmp_full_stack_traps : outcomeAll (exec (.vcmp fV) (demo.putPreds (List.replicate 8 5)))
    (fun r => (r.slot t0).trapCause == 9) = true := by decide +kernel

theorem witness_VectorFrame : ∀ d, d = 0 ∨ d = 1 ∨ d = 7 ∨ d = 8 → t0.slot < 5 ∧
    (∀ e ∈ [entVec 0x97 vAbs false, entVec 0x98 vNone false, entVec 0x99 vNone false],
      (demo.putPreds (List.replicate d 5)).IssuesV t0 e fV fV) ∧ (∀ x ∈ laneForms, demo.IssuesV t0 x.2 fV fV) ∧
    ∃ s', exec (.vadd fV) demo = .next s' :=
  fun d hd => ⟨by decide, stackForms_issue d hd, laneForms_issue, _, rfl⟩

/-! ### Vector memory -/

/-- s[4] at the last 64 bytes of core 0's local memory; v[1] holds i32 lane numbers. -/
def demoVm : State := (demo.putRegs [(4, localAddr 0 (localSize - 64))]).putVecs [(1, BitVec.ofNat 512
  ((List.range 16).foldl (fun x j => x + 2 ^ (32 * j) * j) 0))]
def offVm (j : Nat) : Nat := localSize - 64 + 4 * j
def okLane (s : State) (addr : Nat → Word) (j : Nat) : Bool :=
  addrTag (addr j) == addrTag (s.reg t0 4) && s.space 0 (addr j) == some (.lm 0 (offVm j)) && offVm j + 4 ≤ localSize &&
    (addr j).toNat % 4 == 0 && (s.badIn (localKey 0 (offVm j)) 4).isNone && !(s.core 0).frameHit (offVm j) 4 &&
    !(s.core 0).windowHit (offVm j) 4 && (s.badPartial (localKey 0 (offVm j)) 4).isNone
theorem okLanes {s : State} {addr : Nat → Word} (h : ((List.range 16).all (okLane s addr)) = true) (hp : s.pureOf t0 = none) :
    ∀ j < 16, s.OwnBytes t0 (s.reg t0 4) (addr j) 4 (offVm j) ∧ s.badIn (localKey 0 (offVm j)) 4 = none ∧ s.MayWrite t0 (offVm j) 4 := by
  intro j hj
  have hk := List.all_eq_true.mp h j (List.mem_range.mpr hj)
  simp only [okLane, Bool.and_eq_true, beq_iff_eq, decide_eq_true_eq, Option.isNone_iff_eq_none, Bool.not_eq_true'] at hk
  obtain ⟨⟨⟨⟨⟨⟨⟨h1, h2⟩, h3⟩, h4⟩, h5⟩, h6⟩, h7⟩, h8⟩ := hk
  exact ⟨⟨h1, h2, h3, h4⟩, h5, .inl h6, fun v hv => (by rw [hp] at hv; cases hv), h7, h8⟩
/-- The three ways to form addresses reach the same sixteen words. -/
theorem witness_VectorMemoryMovesLanesOrFaults :
    let g : FmtV := { fV with imm := 4 }
    let x : FmtV := { fV with imm := 2 }
    demoVm.Inv ∧ demoVm.drained t0 = true ∧ demoVm.relocking (dieOf 0) = false ∧ (demoVm.core 0).sbuf.length ≤ 16 ∧ memW fV / 8 = 4 ∧
      (∀ e ∈ [entVec 0x80 vDs false, entVec 0x81 vAs false, entVec 0x82 vDs false, entVec 0x83 vAs false, entVec 0x84 vDbs false, entVec 0x85 vAbs false],
        demoVm.IssuesV t0 e fV fV ∧ demoVm.IssuesV t0 e g g ∧ demoVm.IssuesV t0 e x x) ∧
      (∀ addr ∈ [unitAddr demoVm t0 fV, strideAddr demoVm t0 g, indexAddr demoVm t0 x], ∀ j < 16,
        demoVm.OwnBytes t0 (demoVm.reg t0 4) (addr j) 4 (offVm j) ∧ demoVm.badIn (localKey 0 (offVm j)) 4 = none ∧
          demoVm.MayWrite t0 (offVm j) 4) := by
  have hi : ([entVec 0x80 vDs false, entVec 0x81 vAs false, entVec 0x82 vDs false, entVec 0x83 vAs false, entVec 0x84 vDbs false,
      entVec 0x85 vAbs false].all fun e => [fV, { fV with imm := 4 }, { fV with imm := 2 }].all fun g => canIssueV demoVm t0 e g g) = true := by
    decide +kernel
  have hl : ([unitAddr demoVm t0 fV, strideAddr demoVm t0 { fV with imm := 4 }, indexAddr demoVm t0 { fV with imm := 2 }].all fun addr =>
      (List.range 16).all (okLane demoVm addr)) = true := by decide +kernel
  refine ⟨?_, by decide +kernel, by decide +kernel, by decide +kernel, by decide, fun e he => ?_, fun addr ha => ?_⟩
  · show demoVm.mem.wf = true
    decide +kernel
  · have h := List.all_eq_true.mp (List.all_eq_true.mp hi e he)
    exact ⟨issuesV_of (h _ (by simp)), issuesV_of (h _ (by simp)), issuesV_of (h _ (by simp))⟩
  · exact okLanes (List.all_eq_true.mp hl addr ha) (by decide +kernel)
/-- A lane at the end of local memory fails at issue; an address in a Private region of another core fails late. -/
def demoLaneTrap : State := demo.putRegs [(4, localAddr 0 (localSize - 60))]
def demoLaneLate : State := (demo.mapped.claim (2 ^ 30) .unclaimed 2).putRegs [(4, 64)]
theorem witness_VectorMemoryMovesLanesOrFaults_precise : ∀ store : Bool,
    demoLaneTrap.elemChecks t0 (demoLaneTrap.reg t0 4) (memW fV / 8) store (demoLaneTrap.elems t0 fV addrUnit) = trapAt 0x08 (localAddr 0 localSize) ∧
      demoLaneTrap.IssuesV t0 (entVec 0x80 vDs false) fV fV ∧ demoLaneTrap.IssuesV t0 (entVec 0x81 vAs false) fV fV :=
  fun store => ⟨trapAt_of (by cases store <;> decide +kernel), issuesV_of (by decide +kernel), issuesV_of (by decide +kernel)⟩
theorem witness_VectorMemoryMovesLanesOrFaults_late :
    let w := demoLaneLate
    let es := w.elems t0 fV addrUnit
    (∀ store : Bool, w.elemChecks t0 (w.reg t0 4) (memW fV / 8) store es = .ok ()) ∧ w.drained t0 = true ∧ w.elemsBehind t0 es = false ∧
      w.elemsShut 0 es = false ∧ (w.core 0).sbuf = [] ∧ (∃ l s1, (w.touchElems 0 es).elemsRead 0 (memW fV / 8) es = (.error l, s1)) ∧
      (∃ l s1, (w.touchElems 0 es).elemsProbe 0 (memW fV / 8) es es = (some l, s1)) ∧
      w.IssuesV t0 (entVec 0x80 vDs false) fV fV ∧ w.IssuesV t0 (entVec 0x81 vAs false) fV fV := by
  refine ⟨fun store => ok_of (by cases store <;> decide +kernel), ?_, ?_, ?_, ?_, ?_, ?_, ?_⟩
  rotate_left 4
  · have h : (match (demoLaneLate.touchElems 0 (demoLaneLate.elems t0 fV addrUnit)).elemsRead 0 (memW fV / 8) (demoLaneLate.elems t0 fV addrUnit) with
      | (.error _, _) => true
      | _ => false) = true := by decide +kernel
    split at h
    · rename_i l s1 he; exact ⟨l, s1, he⟩
    · cases h
  · have h : (match (demoLaneLate.touchElems 0 (demoLaneLate.elems t0 fV addrUnit)).elemsProbe 0 (memW fV / 8) (demoLaneLate.elems t0 fV addrUnit)
        (demoLaneLate.elems t0 fV addrUnit) with
      | (some _, _) => true
      | _ => false) = true := by decide +kernel
    split at h
    · rename_i l s1 he; exact ⟨l, s1, he⟩
    · cases h
  all_goals first | decide +kernel | exact ⟨issuesV_of (by decide +kernel), issuesV_of (by decide +kernel)⟩
/-- A vector fault and a late fault that are due, with the access stream at a boundary and with one under way. -/
theorem witness_VectorMemoryMovesLanesOrFaults_taken : ∀ k ∈ [LateKind.vector, LateKind.due],
    let s := demo.modStrm t0 fun st => { st with late := [⟨0x0C, 64, 0, k, 0, none⟩] }
    s.slotMoves t0 = true ∧ (s.slot t0).firstLate = none ∧ (s.strm t0).unfinished = false ∧ s.otherBusy t0 = false ∧
      (s.strm t0).late.find? (fun x => x.kind == k) = some ⟨0x0C, 64, 0, k, 0, none⟩ ∧ demo.awaitsA.otherBusy t0 = true ∧
      (demo.awaitsA.slot t0).firstLate = none := by decide +kernel
/-- Bytes of vector store 3 on their way to module 5, at the response limit. -/
def demoLost : SBEntry := ⟨0, 0, false, 0, 0x40, 0, 5, 0, 0xF, 0, false, some 0, 0x40, some (3, 0x44)⟩
theorem witness_VectorMemoryMovesLanesOrFaults_lost :
    let s := { demo.modCore 0 fun c => { c with sbuf := [demoLost] } with time := demo.limit.setWidth 64 }
    (s.strm t0).pend = none ∧ s.oldestLdr t0 true = none ∧ demoLost.slot < 5 ∧ demoLost.vec = some (3, 0x44) ∧
      ((s.core 0).sbuf.find? fun e => e.module != 0x1FFF && e.sent.any fun at_ => decide (s.limit.toNat ≤ (s.time - at_).toNat)) =
        some demoLost ∧ s.firingRuns 0 demoLost.slot demoLost.fseq = true := by decide +kernel
/-- R166: where lanes of a scatter overlap, the highest lane's bytes stand. -/
theorem test_vsct_highest_lane_wins :
    let s := (demo.putRegs [(4, localAddr 0 0x100)]).putVecs [(0, 0x1111111122222222)]
    outcomeAll (exec (.vsct fV) s) (fun r => r.mem.readNat (localKey 0 0x100) 4 == 0) = true ∧
      outcomeAll (exec (.vst fV) s) (fun r => r.mem.readNat (localKey 0 0x100) 8 == 0x1111111122222222) = true := by decide +kernel

/-! ### Scalar memory -/

def fM : FmtA := { fA with fn := 4, c := 5 }
/-- The access stream of the slot. -/
def ta : StreamId := ⟨0, 0, true⟩
theorem ownBytes_of {s : State} {t : StreamId} {base ea : Word} {n off : Nat} (h : (addrTag ea == addrTag base &&
    s.space t.core ea == some (.lm t.core off) && decide (off + n ≤ localSize) && ea.toNat % n == 0) = true) : s.OwnBytes t base ea n off := by
  simp only [Bool.and_eq_true, beq_iff_eq, decide_eq_true_eq] at h
  exact ⟨h.1.1.1, h.1.1.2, h.1.2, h.2⟩
/-- s[1] at the last 64 bytes of core 0's local memory, and entries in q0 and q4. -/
def demoMem : State := (demo.putRegs [(1, localAddr 0 (localSize - 64)), (5, 0x1122334455667788)]).modSlot t0 fun sl =>
  (sl.setQueue 4 [7]).setQueue 0 [9]
theorem witness_LocalLoadsAndStoresOrTrap :
    let s := demoMem
    let a : State := { demoMem with cur := .stream ta }
    let q : FmtA := { fM with d := 0, c := 4 }
    s.Inv ∧ a.Inv ∧ s.OwnBytes t0 (s.reg t0 1) (s.memEa t0 fM) (accessBytes fM) (localSize - 64) ∧
      a.OwnBytes ta (a.reg ta 1) (a.memEa ta q) 64 (localSize - 64) ∧ a.MayWrite ta (localSize - 64) 64 ∧ s.MayWrite t0 (localSize - 64) 8 ∧
      s.drained t0 = true ∧ a.drained ta = true ∧ s.badIn (localKey 0 (localSize - 64)) 64 = none ∧
      s.IssuesA t0 (entMem 0x58 usedDab none) anyFields fM fM ∧ s.IssuesA t0 (entMem 0x59 usedAbc none) anyFields fM fM ∧
      a.IssuesA ta (entMem 0x5A usedDab (some true)) anyFields q q ∧ a.IssuesA ta (entMem 0x5B usedAbc (some true)) anyFields q q := by
  repeat' apply And.intro
  all_goals first | decide +kernel | exact ownBytes_of (by decide +kernel) | exact issuesA_of (by decide +kernel) |
    exact mayWrite_of (by decide +kernel) (by decide +kernel) | (show (State.mem _).wf = true; decide +kernel)
/-- An address without the base's tag, a misaligned one, the first one past local memory, and a granule with an error. -/
theorem witness_LocalLoadsAndStoresOrTrap_traps :
    let r := demo.putRegs [(2, localAddr 0 0)]
    let m := demo.putRegs [(1, localAddr 0 4)]
    let b := demo.putRegs [(1, localAddr 0 localSize)]
    let e : State := { demoMem with bad := [localKey 0 (localSize - 64)] }
    let mine (s : State) (off : Nat) : Prop := s.IssuesA t0 (entMem 0x58 usedDab none) anyFields fM fM ∧
      addrTag (s.memEa t0 fM) = addrTag (s.reg t0 1) ∧ s.space 0 (s.memEa t0 fM) = some (.lm 0 off)
    addrTag (r.memEa t0 fM) ≠ addrTag (r.reg t0 1) ∧ (mine m 4 ∧ (m.memEa t0 fM).toNat % accessBytes fM ≠ 0) ∧
      (mine b localSize ∧ (b.memEa t0 fM).toNat % accessBytes fM = 0 ∧ localSize < localSize + accessBytes fM) ∧
      (mine e (localSize - 64) ∧ (e.memEa t0 fM).toNat % accessBytes fM = 0 ∧ localSize - 64 + accessBytes fM ≤ localSize ∧
        (e.badIn (localKey 0 (localSize - 64)) (accessBytes fM)).isSome = true) := by
  repeat' apply And.intro
  all_goals first | decide +kernel | exact issuesA_of (by decide +kernel)
/-- R187: LD of i8 extends the sign, of n8 it does not; ST writes its width alone. -/
theorem test_ld_extends :
    let s := demo.putRegs [(1, localAddr 0 0x100), (5, 0x1122334455667788)]
    outcomeAll (exec (.st { fM with b := 0, fn := 2 }) s) (fun r => r.localWord 0 0x100 == 0x7788 &&
      outcomeAll (exec (.ld { fM with b := 0, fn := 1 }) r) (fun q => q.reg t0 3 == 0xFFFFFFFFFFFFFF88)) = true := by decide +kernel

/-- Core 0 holds the Private region at vault offset 0 and has its grant; one core over, the region is Private to another. -/
def demoDev : State := ((demo.claim (vaultKey 0 0) .priv 0).putRegs [(1, vault0 0x40), (5, 0x77)]).modCore 0 fun c =>
  { c with grants := [vaultKey 0 0] }
def demoOther : State := demoDev.modRegion (vaultKey 0 0) fun r => { r with hcore := 9 }
def place0 : Place := demoDev.vaultPlace 0 0x40 (vault0 0x40)
theorem ownPlace0 (i : Instr) (s : State) (hs : s = demoDev ∨ s = demoOther) :
    s.OwnPlace t0 i (s.reg t0 1) (s.memEa t0 fM) 8 place0 := by
  have h : [demoDev, demoOther].all (fun s =>
      addrTag (s.memEa t0 fM) == addrTag (s.reg t0 1) && s.space 0 (s.memEa t0 fM) == some (.vault 0 0x40) && (boundsCause (.vault 0 0x40) 8).isNone &&
        s.vaultPlace 0 0x40 (s.memEa t0 fM) == place0 && (s.memEa t0 fM).toNat % 8 == 0 && place0.module == 0x1FFF) = true := by decide +kernel
  have hk := List.all_eq_true.mp h s (by obtain rfl | rfl := hs <;> simp)
  simp only [Bool.and_eq_true, beq_iff_eq, Option.isNone_iff_eq_none] at hk
  obtain ⟨⟨⟨⟨⟨h1, h2⟩, h3⟩, h4⟩, h5⟩, h6⟩ := hk
  exact ⟨h1, ⟨_, h2, h3, by show Except.ok _ = _; rw [h4]⟩, h5, h6⟩
def entry0 (sent : Bool) : SBEntry := ⟨0, 0, false, 0, vaultKey 0 0x40, vaultKey 0 0, 0x1FFF, 0, 1, 5, false, if sent then some 0 else none, vault0 0x40, none⟩
def demoSent (sent : Bool) : State := demo.modCore 0 fun c => { c with sbuf := [entry0 sent] }
def probingAt (st : RState) : State := (demoDev.claim (vaultKey 0 0) st 0).modStrm t0 fun x =>
  { x with pend := some ⟨.probe, .st fM, none, none, some (vault0 0x40)⟩ }
theorem witness_DeviceAccessesAndAtomics :
    accessBytes fM = 8 ∧ demoDev.IssuesA t0 (entMem 0x58 usedDab none) anyFields fM fM ∧ demoDev.IssuesA t0 (entMem 0x59 usedAbc none) anyFields fM fM ∧
      demoOther.IssuesA t0 (entMem 0x58 usedDab none) anyFields fM fM ∧
      ∀ i, demoDev.OwnPlace t0 i (demoDev.reg t0 1) (demoDev.memEa t0 fM) 8 place0 ∧
        demoOther.OwnPlace t0 i (demoOther.reg t0 1) (demoOther.memEa t0 fM) 8 place0 :=
  ⟨by decide, issuesA_of (by decide +kernel), issuesA_of (by decide +kernel), issuesA_of (by decide +kernel),
    fun i => ⟨ownPlace0 i demoDev (.inl rfl), ownPlace0 i demoOther (.inr rfl)⟩⟩
theorem witness_DeviceAccessesAndAtomics_regions :
    (demoDev.region place0.rkey).refuses ((demoDev.core 0).holds (demoDev.region place0.rkey)) false false = none ∧
      demoDev.badIn place0.key 8 = none ∧
      (demoOther.region place0.rkey).refuses ((demoOther.core 0).holds (demoOther.region place0.rkey)) false false = some 0x06 ∧
      place0.key % 8 = 0 ∧ demoDev.pureOf t0 = none ∧ demoDev.reachable 0 (demoDev.memEa t0 fM) = true ∧
      (∀ l ∈ (demoDev.core 0).ldrs, l.slot ≠ t0.slot) ∧ place0.rkey ∈ (demoDev.core 0).grants ∧ (demoDev.core 0).sbuf.length < 16 := by
  repeat' apply And.intro
  all_goals decide +kernel
theorem witness_DeviceAccessesAndAtomics_buffer :
    ((demoSent false).core 0).sbuf = [entry0 false] ∧ ((demoSent true).core 0).sbuf = [entry0 true] ∧ (entry0 true).module = 0x1FFF := by
  decide +kernel
theorem witness_DeviceAccessesAndAtomics_probe : ∀ st ∈ [RState.priv, RState.published],
    (((probingAt st).space 0 (vault0 0x40)).bind ((probingAt st).placeOf 0)).map (·.rkey) = some (vaultKey 0 0) ∧
      ((probingAt st).region (vaultKey 0 0)).refuses (((probingAt st).core 0).mayHold ((probingAt st).region (vaultKey 0 0))) true false =
        if st = .priv then none else some 0x05 := by decide +kernel
/-- R224: a buffered store is read by its own core at once, and memory keeps its bytes. -/
theorem test_store_buffer_forwards : outcomeAll (exec (.st { fM with b := 0 }) demoDev) (fun r =>
    r.mem.readNat (vaultKey 0 0x40) 8 == 0 && (r.core 0).sbuf.length == 1 &&
      outcomeAll (exec (.ld { fM with b := 0 }) r) (fun q => q.reg t0 3 == 0x77)) = true := by decide +kernel

/-- Every atomic at the last word of local memory, and AMDEC on records with no, one and two children left. -/
theorem witness_DeviceAccessesAndAtomics_atomics :
    let s := demo.putRegs [(1, localAddr 0 (localSize - 8))]
    s.Inv ∧ (∀ e ∈ [entMem 0x5D usedDab none, entMem 0x5E usedDab none, entMem 0x5F usedDab none, entMem 0x60 usedDab none,
        entMem 0x61 usedDabc none, entMem 0x62 usedDa none], s.IssuesA t0 e anyFields fM fM) ∧
      s.OwnBytes t0 (s.reg t0 1) (s.reg t0 1 + BitVec.ofInt 64 fM.imm.toInt) 8 (localSize - 8) ∧ s.MayWrite t0 (localSize - 8) 8 ∧
      s.badIn (localKey 0 (localSize - 8)) 8 = none ∧ (s.localWord 0 (localSize - 8)).toNat % 2 ^ 32 = 0 ∧
      ((s.setLocalWord 0 (localSize - 8) 1).localWord 0 (localSize - 8)).toNat % 2 ^ 32 = 1 ∧
      ((s.setLocalWord 0 (localSize - 8) 2).localWord 0 (localSize - 8)).toNat % 2 ^ 32 = 2 := by
  have h : ([entMem 0x5D usedDab none, entMem 0x5E usedDab none, entMem 0x5F usedDab none, entMem 0x60 usedDab none,
      entMem 0x61 usedDabc none, entMem 0x62 usedDa none].all fun e =>
        canIssueA (demo.putRegs [(1, localAddr 0 (localSize - 8))]) t0 e anyFields fM fM) = true := by decide +kernel
  refine ⟨?_, fun e he => issuesA_of (List.all_eq_true.mp h e he), ownBytes_of (by decide +kernel), mayWrite_of (by decide +kernel) (by decide +kernel),
    by decide +kernel, by decide +kernel, by decide +kernel, by decide +kernel⟩
  show (State.mem _).wf = true
  decide +kernel
/-- LDR of the one and of thirty words that end where local memory ends. -/
theorem witness_DeviceAccessesAndAtomics_ldr :
    ∀ d ∈ [(1 : BitVec 6), 30],
      let s := demo.putRegs [(1, localAddr 0 (localSize - 8 * d.toNat)), (5, targetWord 3 0x1FFF 0)]
      let g : FmtA := { fM with d := d }
      s.IssuesA t0 (entMem 0x5C usedDabc none) (fun f => f.d != 0 && f.d.ule 30) g g ∧ addrTag (s.memEa t0 g) = addrTag (s.reg t0 1) ∧
        s.space 0 (s.memEa t0 g) = some (.lm 0 (localSize - 8 * d.toNat)) ∧ (s.memEa t0 g).toNat % 8 = 0 ∧
        localSize - 8 * d.toNat + 8 * d.toNat ≤ localSize ∧ s.checkTarget t0 (s.reg t0 5) = .ok () ∧
        ∀ k < d.toNat, s.badIn (localKey 0 (localSize - 8 * d.toNat + 8 * k)) 8 = none := by
  intro d hd
  simp only [List.mem_cons, List.not_mem_nil, or_false] at hd
  obtain rfl | rfl := hd
  all_goals exact ⟨issuesA_of (by decide +kernel), by decide +kernel, by decide +kernel, by decide +kernel, by decide, ok_of (by decide +kernel), by decide +kernel⟩
/-- R189: AMADD of the widest byte wraps in its byte and answers the old value, signed. -/
theorem test_amadd_wraps : outcomeAll (exec (.amadd { fM with fn := 1 }) ((demo.putRegs [(1, localAddr 0 0x100), (2, 2)]).setLocalWord 0 0x100 0x7FF))
    (fun r => r.reg t0 3 == -1 && r.localWord 0 0x100 == 0x701) = true := by decide +kernel

/-! ### Circular buffers -/

/-- Buffer 0 has two units, one of them filled; the count stands in s[2]. -/
def demoBuf (lsize : BitVec 4) (fill free : BitVec 12) (k : Word) : State := (demo.modCore 0 fun c => c.setBuffer 0 ⟨fill, free, 0, 1, lsize, 0x10⟩).putRegs [(2, k)]
/-- Counts of 0, 1, 2 and 3 units in a buffer of two units, and a buffer that is off. -/
theorem witness_CircularBuffers : ∀ k ∈ [(0 : Word), 1, 2, 3],
    let s := demoBuf 2 1 1 k
    let nb : FmtA := { fA with md := 8 }
    let g : FmtA := { fA with imm := 0 }
    s.IssuesA t0 (entMem 0x64 usedDb none) bufCount g g ∧ s.IssuesA t0 (entMem 0x64 usedDb none) bufCount nb nb ∧
      s.IssuesA t0 (entMem 0x65 usedB none) bufCount g g ∧ s.IssuesA t0 (entMem 0x63 usedDa none) anyFields g g ∧
      s.IssuesA t0 (entMem 0x63 usedD none) anyFields g g ∧ (s.core 0).takes = [] ∧ (∀ l ∈ (s.core 0).ldrs, l.slot ≠ t0.slot) ∧ (demoBuf 0 0 0 k).IssuesA t0 (entMem 0x65 usedB none) bufCount g g ∧
      ((s.core 0).buffer 0).lsize ≠ 0 ∧ ((s.core 0).buffer 0).fill = 1 ∧ ((s.core 0).buffer 0).free = 1 ∧ (((demoBuf 0 0 0 k).core 0).buffer 0).lsize = 0 := by
  intro k hk
  simp only [List.mem_cons, List.not_mem_nil, or_false] at hk
  obtain rfl | rfl | rfl | rfl := hk
  all_goals
    repeat' apply And.intro
    all_goals first | decide +kernel | exact issuesA_of (by decide +kernel)
/-- Configuration words at the edges of R193's checks: reserved bits, LSIZE 12 and 13, and the last and first bad BASE. -/
theorem witness_CircularBuffers_cbcfg :
    (let ok (w : Nat) : Bool := w / 2 ^ 14 % 16 ≤ 12 && w % 2 ^ 14 + 2 ^ (w / 2 ^ 14 % 16 - 1) ≤ 12288
    2 ^ 18 ≤ 2 ^ 18 + 0x4000 ∧ 12 < (13 * 2 ^ 14 : Nat) / 2 ^ 14 % 16 ∧ ok (0x4000 + 12287) = true ∧ ok (0x4000 + 12288) = false ∧
      ok (12 * 2 ^ 14 + 10240) = true ∧ ok (12 * 2 ^ 14 + 10241) = false) ∧
    (let win (w : Nat) : Bool := decide (w < 2 ^ 32) && w / 2 ^ 28 % 8 == 0 &&
      (w / 2 ^ 31 % 2 == 0 || (w / 2 ^ 14 % 2 ^ 14 != 0 && decide (w % 2 ^ 14 + w / 2 ^ 14 % 2 ^ 14 ≤ 12288)))
    win (2 ^ 31 + 12288 * 2 ^ 14) = true ∧ win (2 ^ 31 + 12288 * 2 ^ 14 + 1) = false ∧ win (2 ^ 31) = false ∧ win 0 = true ∧
      win (2 ^ 32) = false ∧ win (2 ^ 28) = false) := by decide
/-- A take of one unit that waits at the front of its list. -/
def demoTake (fill : Bool) : State := ((demoBuf 2 1 1 1).modCore 0 fun c => { c with takes := [⟨0, false, 0, fill, 1⟩] }).modStrm t0 fun x =>
  { x with pend := some ⟨.cbtake, if fill then .cbtakeFill fA else .cbtakeFree fA, none, none, none⟩ }
theorem witness_CircularBuffers_waits : ∀ fill : Bool, ((demoTake fill).core 0).takes = [⟨0, false, 0, fill, 1⟩] ∧
    ((demoTake fill).strm t0).pend = some ⟨.cbtake, if fill then .cbtakeFill fA else .cbtakeFree fA, none, none, none⟩ ∧
    ((demoTake fill).reg t0 2) = 1 ∧ (((demoTake fill).core 0).buffer 0) = ⟨1, 1, 0, 1, 2, 0x10⟩ := by decide +kernel
/-- R194: a take of the one filled unit moves cpos round the end and answers the unit's address. -/
theorem test_cbtake_wraps : outcomeAll (exec (.cbtakeFill fA) (demoBuf 2 1 1 1)) (fun r =>
    r.reg t0 3 == localAddr 0 ((0x10 + 1) * 64) && (r.core 0).buffer 0 == ⟨0, 1, 0, 0, 2, 0x10⟩) = true ∧
    outcomeAll (exec (.cbtakeFill { fA with md := 8 }) (demoBuf 2 1 1 2)) (fun r => r.reg t0 3 == 0) = true := by decide +kernel

/-! ### Capabilities -/

theorem finds_of {s : State} {a : Word} {k : Nat} (h : (match s.capPlace t0 a with
    | .ok x => x.1.rkey == k && x.1.module == 0x1FFF
    | .error _ => false) = true) : ∃ pl s1, s.Finds t0 a pl s1 ∧ pl.rkey = k := by
  split at h
  · rename_i x hx
    simp only [Bool.and_eq_true, beq_iff_eq] at h
    exact ⟨x.1, x.2, ⟨hx, h.2⟩, h.1⟩
  · cases h
def capForms : List Entry := [entMem 0x68 usedDabc none, entMem 0x68 usedDab none, entMem 0x69 usedDab none, entMem 0x69 usedDabc none,
  entMem 0x6A usedDa none, entMem 0x6B usedDa none, entMem 0x6C usedDab none, entMem 0x6D usedDab none, entMem 0x6D usedDa none]
/-- The region at vault offset 0 in state `st` held by core 0, and the Private one after it; s[1] names the first, s[2] holds `w`. -/
def demoCap (st : RState) (w : Word) : State :=
  (((demo.claim (vaultKey 0 0) st 0).claim (vaultKey 0 0x10000) .priv 0).modRegion (vaultKey 0 0) fun r => { r with partner := vaultKey 0 0x10000 }).putRegs
    [(1, vault0 0), (2, w), (5, 0x00010001)]
def states : List RState := [.unclaimed, .priv, .published, .handing, .shadowed]
/-- The words of s[2]: a target on another module and on this core, reader counts at their end, and the other region. -/
def capWords : List Word := [targetWord 1 5 0, targetWord 1 0x1FFF 0, 0xFFFF, 0x10000, vault0 0x10000]
theorem capForms_issue : ∀ st ∈ states, ∀ w ∈ capWords, ∀ e ∈ capForms, (demoCap st w).IssuesA t0 e anyFields fA fA := by
  have h : (states.all fun st => capWords.all fun w => capForms.all fun e => canIssueA (demoCap st w) t0 e anyFields fA fA) = true := by decide +kernel
  intro st hs w hw e he
  exact issuesA_of (List.all_eq_true.mp (List.all_eq_true.mp (List.all_eq_true.mp h st hs) w hw) e he)
theorem cap_found : ∀ st ∈ states, ∀ w ∈ capWords,
    ∃ pl s1, (demoCap st w).Finds t0 ((demoCap st w).reg t0 1) pl s1 ∧ pl.rkey = vaultKey 0 0 := by
  have h : (states.all fun st => capWords.all fun w => match (demoCap st w).capPlace t0 ((demoCap st w).reg t0 1) with
    | .ok x => x.1.rkey == vaultKey 0 0 && x.1.module == 0x1FFF
    | .error _ => false) = true := by decide +kernel
  intro st hs w hw
  exact finds_of (List.all_eq_true.mp (List.all_eq_true.mp h st hs) w hw)

/-- HAND waits in one state with a buffered store to its region and in one with none. -/
def demoHand (busy : Bool) : State := ((demoCap .handing (targetWord 1 5 0)).modStrm t0 fun x => { x with pend := some ⟨.hand, .hand fA, none, none, none⟩ }).modCore 0
  fun c => { c with sbuf := if busy then [⟨0, 0, false, 0, vaultKey 0 0x40, vaultKey 0 0, 0x1FFF, 0, 1, 5, false, none, 0, none⟩] else [] }
theorem witness_HandoverMovesTheCapability :
    (demoCap .priv (targetWord 1 5 0)).pureOf t0 = none ∧ (demoCap .priv (targetWord 1 5 0)).checkTarget t0 (targetWord 1 5 0) = .ok () ∧
      (demoCap .priv (targetWord 1 0x1FFF 0)).checkTarget t0 (targetWord 1 0x1FFF 0) = .ok () ∧
      (∀ st ∈ states, ((demoCap st (targetWord 1 5 0)).region (vaultKey 0 0)).st = st) ∧
      (demoCap .priv (targetWord 1 5 0)).isOwn 5 = false ∧ ((demoCap .priv 0).core 0).holds ((demoCap .priv 0).region (vaultKey 0 0)) = true ∧
      ((demoCap .priv 0).core 0).lcore = 0 ∧ (∀ b : Bool, (demoHand b).regionDrained 0 (vaultKey 0 0) = !b) ∧
      (∀ b : Bool, ((demoHand b).strm t0).pend = some ⟨.hand, .hand fA, none, none, none⟩) ∧ ((demoCap .unclaimed 0).strm t0).pl = 0 ∧
      ((demoCap .unclaimed 0).sup.strm t0).pl ≠ 0 := by
  refine ⟨by decide +kernel, ok_of (by decide +kernel), ok_of (by decide +kernel), ?_, ?_, ?_, ?_, ?_, ?_, ?_, ?_⟩ <;> decide +kernel
theorem witness_HandoverMovesTheCapability_forms : ∀ st ∈ states, ∀ w ∈ capWords,
    (∀ e ∈ capForms, (demoCap st w).IssuesA t0 e anyFields fA fA) ∧
      ∃ pl s1, (demoCap st w).Finds t0 ((demoCap st w).reg t0 1) pl s1 ∧ pl.rkey = vaultKey 0 0 :=
  fun st hs w hw => ⟨capForms_issue st hs w hw, cap_found st hs w hw⟩
theorem witness_HandoverMovesTheCapability_init :
    let s := (demoCap .unclaimed (targetWord 1 5 0)).sup
    s.IssuesA t0 (entMem 0x68 usedDab none) anyFields fA fA ∧ (s.strm t0).pl ≠ 0 ∧ s.checkTarget t0 (s.reg t0 2) = .ok () ∧
      (∃ pl s1, s.Finds t0 (s.reg t0 1) pl s1 ∧ pl.rkey = vaultKey 0 0) ∧ (s.region (vaultKey 0 0)).st = .unclaimed :=
  ⟨issuesA_of (by decide +kernel), by decide +kernel, ok_of (by decide +kernel), finds_of (by decide +kernel), by decide +kernel⟩

/-- A grid of one tile of 64 bytes, and one that does not fit the region; RECL waits with and without readers left. -/
theorem witness_PublishAndReclaim :
    let pend (n : BitVec 16) : State := ((demoCap .published 0).modStrm t0 fun x => { x with pend := some ⟨.recl, .recl fA, none, none, none⟩ }).modRegion (vaultKey 0 0)
      fun r => { r with readers := n }
    gridOk 0x20010001 0 = true ∧ gridOk 0x20010400 0 = true ∧ gridOk 0x20010401 0 = false ∧ (0xFFFF : Word).toNat < 2 ^ 16 ∧ 2 ^ 16 ≤ (0x10000 : Word).toNat ∧
      (demoCap .priv 0xFFFF).regionDrained 0 (vaultKey 0 0) = true ∧ (demoCap .priv 0xFFFF).pureOf t0 = none ∧
      ((demoCap .published 0).core 0).holds ((demoCap .published 0).region (vaultKey 0 0)) = true ∧
      ((demoCap .published 0).region (vaultKey 0 0)).readers = 0 ∧ ((pend 1).region (vaultKey 0 0)).readers ≠ 0 ∧
      ((pend 0).strm t0).pend = some ⟨.recl, .recl fA, none, none, none⟩ ∧ ((pend 0).region (vaultKey 0 0)).readers = 0 := by decide +kernel
theorem witness_CapabilitiesAreReadAndShadowed :
    let s := demoCap .published (vault0 0x10000)
    let w := (demoCap .shadowed 0xFFFF).modStrm t0 fun x => { x with pend := some ⟨.swapm, .swapm fA, none, none, none⟩ }
    (∃ q s2, s.Finds t0 (s.reg t0 2) q s2 ∧ q.rkey = vaultKey 0 0x10000) ∧ vaultKey 0 0x10000 ≠ vaultKey 0 0 ∧
      (s.region (vaultKey 0 0)).st = .published ∧ (s.region (vaultKey 0 0x10000)).st = .priv ∧ (s.core 0).holds (s.region (vaultKey 0 0x10000)) = true ∧
      (w.region (vaultKey 0 0)).st = .shadowed ∧ (w.region (vaultKey 0 0)).side = false ∧ (w.region (vaultKey 0 0)).partner = vaultKey 0 0x10000 ∧
      (w.core 0).holds (w.region (vaultKey 0 0)) = true ∧ (w.strm t0).pend = some ⟨.swapm, .swapm fA, none, none, none⟩ ∧
      w.regionDrained 0 (vaultKey 0 0x10000) = true ∧ (w.reg t0 2).toNat < 2 ^ 16 ∧ s.pureOf t0 = none := by
  refine ⟨finds_of (by decide +kernel), ?_⟩
  decide +kernel

/-- SHAD of a pair of one size and home whose engines have drained, and of one region that is no pair; SWAPM issues on a shadow, on a region
that is none, and with a reader count that is too large; SWAPM_EXCHANGE finds no tour that reads, or a buffered store of the partner. -/
theorem witness_CapabilitiesAreReadAndShadowed_pair :
    let s := demoCap .published (vault0 0x10000)
    let b := (demoCap .shadowed 0xFFFF).modCore 0 fun c =>
      { c with sbuf := [⟨0, 0, false, 0, vaultKey 0 0x10040, vaultKey 0 0x10000, 0x1FFF, 0, 1, 5, false, none, 0, none⟩] }
    ((match s.capPlace t0 (s.reg t0 1) with
      | .ok x => (match x.2.capPlace t0 (s.reg t0 2) with
        | .ok y => x.1.size == y.1.size && x.1.home == y.1.home && x.1.rkey == vaultKey 0 0 && y.1.rkey == vaultKey 0 0x10000 && y.1.module == 0x1FFF
        | .error _ => false)
      | .error _ => false) = true) ∧
      s.enginesDrained 0 (vaultKey 0 0) = true ∧ s.enginesDrained 0 (vaultKey 0 0x10000) = true ∧ s.pureOf t0 = none ∧
      ((demoCap .published 0xFFFF).region (vaultKey 0 0)).st ≠ .shadowed ∧ 2 ^ 16 ≤ ((demoCap .shadowed 0x10000).reg t0 2).toNat ∧
      b.regionDrained 0 (vaultKey 0 0x10000) = false ∧ b.tourReads (vaultKey 0 0) = false ∧ b.tourReads (vaultKey 0 0x10000) = false := by
  decide +kernel
/-- R213: PUBL of three readers: the CAPQ word then reads state 2, READERS 3, VERSION 1, held and in the vault. -/
theorem test_publ_capq : outcomeAll (exec (.publ fA) (demoCap .priv 3)) (fun r => r.reg t0 3 == 0 &&
    outcomeAll (exec (.capq fA) r) (fun q => q.reg t0 3 == 0x000000010003010A)) = true := by decide +kernel
/-- R216, R217: SHAD, then SWAPM exchanges what the two addresses read once the exchange comes. -/
theorem test_shad_swapm : outcomeAll (exec (.shad fA) (demoCap .published (vault0 0x10000))) (fun r => r.reg t0 3 == 0 &&
    (r.region (vaultKey 0 0)).st == .shadowed && (r.region (vaultKey 0 0x10000)).side) = true := by decide +kernel
/-- R211: HAND to another module sends its message and leaves the region Private to the new holder. -/
theorem test_hand_flips : outcomeAll (exec (.handFlip t0) (demoHand false)) (fun r => r.reg t0 3 == 0 && (r.strm t0).pend.isNone &&
    (r.region (vaultKey 0 0)).hmod == 5 && (r.region (vaultKey 0 0)).st == .priv && r.weltOut.length == 1) = true := by decide +kernel

/-! ### Fences and answers -/

def tracker (n : BitVec 16) : Tracker := ⟨n, 0, 1, [0], [], [], [], [], []⟩
/-- Seven and eight trackers; number 3 waits for a store that is still in the buffer, or has nothing left. -/
def demoFence (n : Nat) (busy : Bool) : State := (demo.modSlot t0 fun sl => { sl with trackers := (List.range n).map fun k => tracker (BitVec.ofNat 16 k) }).modCore 0
  fun c => { c with sbuf := if busy then [⟨0, 0, false, 0, vaultKey 0 0x40, vaultKey 0 0, 0x1FFF, 0, 1, 5, false, none, 0, none⟩] else [] }
theorem witness_FencesAndAnswers :
    t0.slot < 5 ∧ t0.acc = false ∧ (∀ n ∈ [7, 8], ((demoFence n true).slot t0).trackers.length = n) ∧
      (((demoFence 4 true).slot t0).trackers = [tracker 0, tracker 1] ++ tracker 2 :: [tracker 3]) ∧
      (∀ y ∈ [tracker 0, tracker 1], y.seq ≠ (tracker 2).seq) ∧ tracker 2 ∉ [tracker 0, tracker 1] ∧ tracker 2 ∉ [tracker 3] ∧
      (∀ b : Bool, (demoFence 4 b).trackerDone 0 (tracker 2) = !b) ∧ ((demoFence 7 true).openTrackers 0 0).length = 7 ∧
      8 ≤ ((demoFence 8 true).openTrackers 0 0).length ∧ (demoFence 8 false).openTrackers 0 0 = [] ∧
      ((demoFence 4 true).openTrackers 0 (0x2000000000010003 / 2 ^ 23 % 8)).any (fun y => y.seq == BitVec.ofNat 16 0x2000000000010003) = true := by
  decide +kernel
theorem witness_FencesAndAnswers_forms : ∀ n ∈ [7, 8], ∀ e ∈ [entMem 0x6E usedD none, entMem 0x6F usedDa none, entMem 0x6F usedD none,
    entInt 0xE8 ⟨false, false, false, false, false⟩], (demoFence n true).IssuesA t0 e anyFields fA fA := by
  have h : ([7, 8].all fun n => [entMem 0x6E usedD none, entMem 0x6F usedDa none, entMem 0x6F usedD none,
    entInt 0xE8 ⟨false, false, false, false, false⟩].all fun e => canIssueA (demoFence n true) t0 e anyFields fA fA) = true := by decide +kernel
  exact fun n hn e he => issuesA_of (List.all_eq_true.mp (List.all_eq_true.mp h n hn) e he)
/-- LD of the last word of a local memory of module 5, at its limit; and a walk of a mapped page and of one that is not. -/
theorem witness_FencesAndAnswers_answers :
    let a : Word := 0x01#8 ++ 5#13 ++ 0#6 ++ 0#6 ++ 0#2 ++ BitVec.ofNat 29 (localSize - 8)
    let s := (demo.putRegs [(1, a)]).modStrm t0 fun x => { x with pend := some ⟨.remote, .ld fM, some 7, none, some a⟩, snap := List.replicate 8 0 }
    let w (root : Bool) : State := let d := if root then demo.mapped else demo
      { (d.modStrm t0 fun x => { x with pend := some ⟨.walk, .ld fM, none, none, some 64⟩ }) with stations := [(0, ⟨[], [⟨0, 0, granuleOf 64, [t0]⟩]⟩)] }
    (s.strm t0).pend = some ⟨.remote, .ld fM, some 7, none, some a⟩ ∧ addrTag (s.memEa t0 fM) = addrTag (s.reg t0 1) ∧
      s.space 0 (s.memEa t0 fM) = some (.away 5 0 0 (localSize - 8)) ∧ (s.memEa t0 fM).toNat % accessBytes fM = 0 ∧
      localSize - 8 + accessBytes fM ≤ localSize ∧ (s.strm t0).snap.length = accessBytes fM ∧ (7 : Word).toNat ≤ { s with time := 7 }.time.toNat ∧ ¬((7 : Word).toNat ≤ { s with time := 6 }.time.toNat) ∧
      (∀ b : Bool, ((w b).station 0).walks = [⟨0, 0, granuleOf 64, [t0]⟩] ∧
        (w b).joined ⟨0, 0, granuleOf 64, [t0]⟩ t0 = true ∧ ((w b).walk 0 0 (granuleOf 64) false).isSome = b) := by decide +kernel
/-- BBC inside and outside the area; and a write-back that stands in the list. -/
theorem witness_FencesAndAnswers_counters :
    let s := demo.modCtx 0 0 fun x => { x with bbcBase := 0x9000000000000000 }
    let o := demo.modCore 0 fun c => { c with bbcOut := [(0, 15, 3)] }
    (s.ctx 0 0).bbcBase.getLsbD 63 = true ∧ 15 < 2 ^ min 24 ((s.ctx 0 0).bbcBase.toNat / 2 ^ 58 % 32) ∧
      ¬(16 < 2 ^ min 24 ((s.ctx 0 0).bbcBase.toNat / 2 ^ 58 % 32)) ∧ (demo.ctx 0 0).bbcBase.getLsbD 63 = false ∧
      (o.core 0).bbcOut.find? (fun e => e.2.1 == (15#24).toNat) = some (0, 15, 3) := by decide +kernel
/-- The counter's page is Private to the context, Private to another one, or nobody's. -/
theorem witness_FencesAndAnswers_pages :
    let s (st : RState) (c : BitVec 3) : State := (((demo.mapped.claim (2 ^ 30) st 2).modRegion (2 ^ 30) fun r => { r with ctx := c }).modCtx 0 0
      fun x => { x with bbcBase := 0x9000000000000000 }).modCore 0 fun c => { c with bbcOut := [(0, 15, 3)] }
    let mine (u : State) : Bool := (u.region (2 ^ 30)).st == .priv && (u.region (2 ^ 30)).tag == (u.core 0).tag && (u.region (2 ^ 30)).ctx == (u.core 0).ctx
    (∀ st ∈ [RState.priv, .unclaimed], ∀ c ∈ [(0 : BitVec 3), 1], ((s st c).core 0).bbcOut = [(0, 15, 3)] ∧
      ((s st c).walk 0 0 120 false).any (fun l => (s st c).isOwn l.module && l.key == 2 ^ 30) = true) ∧
      mine (s .priv 0) = true ∧ mine (s .priv 1) = false ∧ mine (s .unclaimed 0) = false := by decide +kernel
/-- R231: the token names slot, mask and number, and FTEST of a token whose tracker stands answers 0. -/
theorem test_fence_token : outcomeAll (exec (.fence { fA with imm := 1 }) (demoFence 0 true)) (fun r => r.reg t0 3 == 0x2000000000010000 &&
    outcomeAll (exec (.ftest { fA with a := 3 }) r) (fun q => q.reg t0 3 == 0)) = true := by decide +kernel

/-! ### Messages, tasks, handlers and channels -/

/-- Channel 5 with a ring of 32 words at unit 0x40, in which one message of three words stands; taken by the firing as input 0 or not. -/
def demoRing (taken : Bool) : State :=
  let s := (demo.modCore 0 fun c => { c with ch := { c.ch with cfg := vset c.ch.cfg 5 0x80040040 } }).ringPut 0 5 [header 0 0 2 5 0 false false, 7, 8] 0
  if taken then (s.modCore 0 fun c => c.setRing 5 ⟨3, (c.chRing 5).msgs.map fun m => { m with taken := true }⟩).modSlot t0 fun sl =>
    { sl with taken := [⟨0, 5, 0, 0⟩], entry := ⟨0xA000000000000080, 0x0501, 0, 0⟩ }
  else s
def targets : List Word := [targetWord 1 0x1FFF 0, targetWord 62 0x1FFF 0, targetWord 1 5 0, targetWord 0 0x1FFF 0, targetWord 63 0x1FFF 0, targetWord 1 0x1FFF 1, 0]
/-- SEND of no, one and eight words, the last eight ending with s63; SENDT of none and 31 that end where local memory ends. -/
theorem witness_MessagesAreSentAndPopped :
    let s (w : Word) : State := demo.putRegs [(1, w), (5, w)]
    (∀ w ∈ targets, ∀ g ∈ [{ fA with b := 0, c := 5 }, { fA with imm := 1, c := 5 }, { fA with b := 56, imm := 8, c := 5 }],
      (s w).IssuesA t0 (entMem 0x70 usedAb none) sendCount g g ∧ (s w).IssuesA t0 (entMem 0x70 usedAbc none) sendCount g g) ∧
    (∀ w ∈ targets, (demo.putRegs [(1, localAddr 0 (localSize - 248)), (5, w)]).IssuesA t0 (entMem 0x71 usedDac none) (fun f => f.d.ult 32 && f.d != 0)
      { fA with d := 31, c := 5 } { fA with d := 31, c := 5 }) ∧
    (demo.putRegs [(1, localAddr 0 0)]).IssuesA t0 (entMem 0x71 usedDac none) (fun f => f.d.ult 32) { fA with d := 0, c := 5 } { fA with d := 0, c := 5 } := by
  have h : (targets.all fun w => [{ fA with b := 0, c := 5 }, { fA with imm := 1, c := 5 }, { fA with b := 56, imm := 8, c := 5 }].all fun g =>
      canIssueA (demo.putRegs [(1, w), (5, w)]) t0 (entMem 0x70 usedAb none) sendCount g g &&
        canIssueA (demo.putRegs [(1, w), (5, w)]) t0 (entMem 0x70 usedAbc none) sendCount g g) = true := by decide +kernel
  have k : (targets.all fun w => canIssueA (demo.putRegs [(1, localAddr 0 (localSize - 248)), (5, w)]) t0 (entMem 0x71 usedDac none)
      (fun f => f.d.ult 32 && f.d != 0) { fA with d := 31, c := 5 } { fA with d := 31, c := 5 }) = true := by decide +kernel
  refine ⟨fun w hw g hg => ?_, fun w hw => issuesA_of (List.all_eq_true.mp k w hw), issuesA_of (by decide +kernel)⟩
  have := List.all_eq_true.mp (List.all_eq_true.mp h w hw) g hg
  rw [Bool.and_eq_true] at this
  exact ⟨issuesA_of this.1, issuesA_of this.2⟩
theorem witness_MessagesAreSentAndPopped_targets :
    let s := demo.putRegs [(1, localAddr 0 (localSize - 248))]
    let w := targetWord 1 0x1FFF 0
    (tgtV w = true ∧ tgtChan w ≠ 0 ∧ tgtChan w ≠ 63 ∧ tgtChan w ≠ 62) ∧ s.isOwn (tgtModule w) = true ∧ s.lct 0 (tgtCore w).toNat = some 0 ∧
      s.isOwn (tgtModule (targetWord 1 5 0)) = false ∧ s.portDown (tgtModule (targetWord 1 5 0)) = false ∧ tgtV 0 = false ∧
      tgtChan (targetWord 62 0x1FFF 0) = 62 ∧ (s.strm t0).pl = 0 ∧ s.lct 0 (tgtCore (targetWord 1 0x1FFF 1)).toNat = none ∧
      (s.space 0 (s.reg t0 1) = some (.lm 0 (localSize - 248)) ∧ (localSize - 248) % 8 = 0 ∧ localSize - 248 + 8 * (31#6).toNat ≤ localSize ∧
        s.badIn (localKey 0 (localSize - 248)) (8 * (31#6).toNat) = none) := by decide +kernel
/-- Each form that stores or reads a record finds it whole, and CHPOP may write where it stores. -/
theorem witness_MessagesAreSentAndPopped_records :
    let s := demo.putRegs [(1, localAddr 0 (localSize - 248))]
    let p (b : Bool) : State := (demoRing b).putRegs [(1, localAddr 0 (localSize - 24))]
    (∀ d ∈ [(0 : BitVec 6), 31], addrTag (s.reg t0 1 + BitVec.ofInt 64 fA.imm.toInt) = addrTag (s.reg t0 1) ∧
      s.OwnRecord t0 (s.reg t0 1 + BitVec.ofInt 64 fA.imm.toInt) (localSize - 248) 8 (8 * d.toNat)) ∧
    ∀ b : Bool, addrTag ((p b).memEa t0 fA) = addrTag ((p b).reg t0 1) ∧ (localSize - 24) % 8 = 0 ∧ localSize - 24 + 8 * 3 ≤ localSize ∧
      (p b).MayWrite t0 (localSize - 24) (8 * 3) := by
  refine ⟨fun d hd => ?_, fun b => ?_⟩
  · simp only [List.mem_cons, List.not_mem_nil, or_false] at hd
    obtain rfl | rfl := hd
    all_goals exact ⟨by decide, by decide, by decide, by decide, by decide⟩
  · cases b
    all_goals exact ⟨by decide +kernel, by decide, by decide, mayWrite_of (by decide +kernel) (by decide +kernel)⟩
/-- A message that the firing took and one that none has, stored where local memory ends; and firings without input 0 or without a message. -/
theorem witness_MessagesAreSentAndPopped_pops :
    let s (b : Bool) : State := (demoRing b).putRegs [(1, localAddr 0 (localSize - 24))]
    let m (b : Bool) : RingMsg := ⟨0, 0, 3, 0, b, false⟩
    (∀ b : Bool, (s b).mem.wf = true ∧ (s b).space 0 ((s b).memEa t0 fA) = some (.lm 0 (localSize - 24)) ∧
      ((s b).ringWords 0 5 (m b)).length = 3 ∧ ((s b).badPartial (localKey 0 (localSize - 24)) 24) = none ∧
      ((s b).core 0).frameHit (localSize - 24) 24 = false ∧ ((s b).core 0).windowHit (localSize - 24) 24 = false) ∧
      (s true).declared t0 0 = true ∧ (s true).popTaken t0 0 = some (5, m true) ∧ (s false).popUntaken t0 5 = some (5, m false) ∧
      (s false).declared t0 0 = false ∧ (s true).popUntaken t0 5 = none ∧
      (((s true).modSlot t0 fun sl => { sl with taken := [] }).popTaken t0 0) = none := by decide +kernel
/-- A message whose last word has an uncorrectable error; its header has none. -/
theorem witness_MessagesAreSentAndPopped_bad :
    let s : State := { demoRing true with bad := [localKey 0 0x1010] }
    let m : RingMsg := ⟨0, 0, 3, 0, true, false⟩
    s.badRing 0 5 m 3 = some (localAddr 0 0x1010) ∧ s.badRing 0 5 m 1 = none ∧ (demoRing true).badRing 0 5 m 3 = none ∧
      { s with bad := [localKey 0 0x1000] }.badRing 0 5 m 1 = some (localAddr 0 0x1000) := by decide +kernel
theorem witness_MessagesAreSentAndPopped_popforms : ∀ b : Bool,
    let s := (demoRing b).putRegs [(1, localAddr 0 (localSize - 24))]
    let g : FmtA := { fA with c := 5 }
    s.IssuesA t0 (entMem 0x79 usedDab none) anyFields fA fA ∧ s.IssuesA t0 (entMem 0x79 usedDabc none) (fun f => popChan f.c) g g ∧
      s.IssuesA t0 (entMem 0x79 usedD none) anyFields fA fA ∧ s.IssuesA t0 (entMem 0x79 usedDc none) (fun f => popChan f.c) g g := by
  intro b
  cases b
  all_goals
    repeat' apply And.intro
    all_goals exact issuesA_of (by decide +kernel)
/-- R138: SEND of two words to the own core: the header names sender 0, length 2 and channel 1. -/
theorem test_send : outcomeAll (exec (.send { fA with imm := 2 }) (demo.putRegs [(1, targetWord 1 0x1FFF 0), (2, 11), (3, 12)])) (fun r =>
    r.mesh.map (·.words) == [[header 0 0 2 1 0 false false, 11, 12]]) = true := by decide +kernel
/-- R140: CHPOP stores the message and answers its header; a second pop answers 0. -/
theorem test_chpop : outcomeAll (exec (.chpopCh { fA with c := 5 }) ((demoRing false).putRegs [(1, localAddr 0 0x100)])) (fun r =>
    r.reg t0 3 == header 0 0 2 5 0 false false && r.localWords 0 0x100 3 == [header 0 0 2 5 0 false false, 7, 8] &&
      outcomeAll (exec (.chpopCh { fA with c := 5 }) r) (fun q => q.reg t0 3 == 0)) = true := by decide +kernel

/-- A packet of four words with handler 3 that ends where local memory ends. -/
def demoPacket : State := (demo.putRegs [(1, localAddr 0 (localSize - 32))]).setLocalWord 0 (localSize - 32) (taskHeader 9 0 3 0 false)
theorem witness_TasksAreSpawnedAndJoined :
    let s := demoPacket
    let g : FmtA := { fA with c := 0 }
    t0.slot < 5 ∧ (s.space 0 (s.reg t0 1) = some (.lm 0 (localSize - 32)) ∧ (localSize - 32) % 32 = 0 ∧
        packetLen (s.localWord 0 (localSize - 32)) = 4 ∧ localSize - 32 + 8 * 4 ≤ localSize ∧ s.badIn (localKey 0 (localSize - 32)) 32 = none) ∧
      taskOk (s.localWord 0 (localSize - 32)) = true ∧ g.c = 0 ∧ (∀ path : BitVec 32, path.toNat % max 1 (s.core 0).nCores = 0) ∧
      s.lct 0 0 = some 0 ∧ s.lct 0 1 = none :=
  ⟨by decide, by decide +kernel, by decide +kernel, rfl, fun path => by
    rw [show max 1 (demoPacket.core 0).nCores = 1 by decide +kernel]; exact Nat.mod_one _, by decide +kernel, by decide +kernel⟩
theorem witness_TasksAreSpawnedAndJoined_forms :
    let g : FmtA := { fA with c := 0 }
    demoPacket.IssuesA t0 (entMem 0x72 usedDabc none) (fun f => f.b.ule 60) { g with b := 60 } { g with b := 60 } ∧
      demoPacket.IssuesA t0 (entMem 0x73 usedDac none) anyFields g g ∧ demoPacket.IssuesA t0 (entMem 0x73 usedDabc none) anyFields g g ∧
      demoPacket.IssuesA t0 (entMem 0x74 usedDabc none) anyFields g g := by
  refine ⟨issuesA_of ?_, issuesA_of ?_, issuesA_of ?_, issuesA_of ?_⟩ <;> decide +kernel
/-- A packet with one successor word, and a record of two result slots of which `next` are named already, whose handle stands in s[5]. -/
def demoJoin (next : Nat) : State :=
  (((demo.putRegs [(1, localAddr 0 0x2000), (5, successorHandle true 0 0x1000 0x1FFF 0)]).setLocalWord 0 0x2000 (taskHeader 9 0 3 1 false)).setLocalWord
    0 0x1000 (0#16 ++ BitVec.ofNat 8 next ++ 2#8 ++ 2#32))
theorem witness_TasksAreSpawnedAndJoined_joins : ∀ n ∈ [0, 2],
    let s := demoJoin n
    let j := s.reg t0 5
    s.IssuesA t0 (entMem 0x73 usedDac none) anyFields { fA with c := 5 } { fA with c := 5 } ∧
      s.IssuesA t0 (entMem 0x73 usedDabc none) anyFields { fA with c := 5 } { fA with c := 5 } ∧
      s.mem.wf = true ∧ s.OwnRecord t0 (s.reg t0 1) 0x2000 32 (8 * packetLen (s.localWord 0 0x2000)) ∧ taskOk (s.localWord 0 0x2000) = true ∧
      thNsucc (s.localWord 0 0x2000) = 1 ∧ s.isOwn (shModule j) = true ∧ s.lct 0 (shLcore j).toNat = some 0 ∧ shRes j = true ∧
      shOffset j = 0x1000 ∧ s.badIn (localKey 0 0x1000) 8 = none ∧ recNslot (s.localWord 0 0x1000) = 2 ∧ recNext (s.localWord 0 0x1000) = n ∧
      (s.core 0).frameHit 0x1000 8 = false ∧ (∀ path : BitVec 32, s.lct 0 (path.toNat % max 1 (s.core 0).nCores) = some 0) ∧
      shRes (0 : Word) = false := by
  intro n hn
  simp only [List.mem_cons, List.not_mem_nil, or_false] at hn
  obtain rfl | rfl := hn
  all_goals
    repeat' apply And.intro
    all_goals first
      | (intro path; rw [show max 1 ((demoJoin _).core 0).nCores = 1 by decide +kernel, Nat.mod_one]; decide +kernel)
      | decide +kernel | exact issuesA_of (by decide +kernel) | (constructor <;> decide +kernel)
/-- R148: SPAWN with a join handle sends the packet with the record's next slot in its successor word, and the record's NEXT advances. -/
theorem test_spawn_joins : outcomeAll (exec (.spawn { fA with c := 5 }) (demoJoin 1)) (fun r => recNext (r.localWord 0 0x1000) == 2 &&
    (r.mesh.map fun p => p.words.getLastD 0) == [successorHandle true 1 0x1000 0x1FFF 0]) = true := by decide +kernel
/-- JOIN of one child at the last place of local memory where it fits, of 64, and of 0 and 65. -/
theorem witness_TasksAreSpawnedAndJoined_join :
    let s := demo.putRegs [(1, localAddr 0 (localSize - 128)), (2, 1)]
    s.mem.wf = true ∧ s.space 0 (s.reg t0 1) = some (.lm 0 (localSize - 128)) ∧ (localSize - 128) % 64 = 0 ∧ (s.reg t0 2).toNat = 1 ∧
      localSize - 128 + (72 + 32 * 1) ≤ localSize ∧ (s.core 0).frameHit (localSize - 128) (72 + 32 * 1) = false ∧
      localSize < localSize - 128 + (72 + 32 * 2) ∧ localSize - 2176 + (72 + 32 * 64) ≤ localSize ∧ (64 : Nat) < 65 := by decide +kernel
/-- R146: JOIN of two children at 0x1000 answers the handle of result slot 0. -/
theorem test_join : outcomeAll (exec (.join { fA with imm := 3, c := 5 }) (demo.putRegs [(1, localAddr 0 0x1000), (2, 2), (5, 77)])) (fun r =>
    r.reg t0 3 == successorHandle true 0 0x1000 0x1FFF 0) = true := by decide +kernel
/-- R148: SPAWN advances the child number and puts the packet into channel 0 of a core. -/
theorem test_spawn : outcomeAll (exec (.spawn { fA with c := 0 }) demoPacket) (fun r => (r.slot t0).child == 1 &&
    r.reg t0 3 == (phash 0 0).setWidth 64 && r.mesh.map (·.chan) == [0] && r.mesh.map (·.dst) == [0]) = true := by decide +kernel

/-- Entry 3 is a supervisor entry or a user one; the words of a well-formed entry of one input stand in s[1], s[2], s[5]. -/
def demoEntry (sup : Bool) : State := (demo.modCore 0 fun c => c.setHandler 3 ⟨if sup then 0xA000000000000080 else 0x8000000000000080, 0x0501, 0, 0⟩).putRegs
  [(1, 0x8000000000000080), (2, 0x0501), (5, 0)]
theorem witness_HandlersAndChannels :
    hSUP ((demoEntry true).core 0 |>.handler 3).hw0 = true ∧ hSUP ((demoEntry false).core 0 |>.handler 3).hw0 = false ∧
      hVALID ((demoEntry false).core 0 |>.handler 3).hw0 = true ∧ hSUP (0x8000000000000080 : Word) = false ∧
      handlerOk 0x8000000000000080 0x0501 0 = true ∧ handlerOk 0x8000000000000080 0 0 = false ∧ ((demoEntry false).strm t0).pl = 0 ∧
      ((demoEntry false).sup.strm t0).pl ≠ 0 ∧ ((demoRing false).core 0).chcfgStatus 5 0x80040040 = 0 ∧ ((demoRing true).core 0).chcfgStatus 5 0x80040080 = 0x04 ∧
      ((demoRing false).core 0 |>.chRing 5).count = 1 ∧ ((demoRing false).core 0 |>.chRing 5).count < 2 ^ 16 ∧ (64 : Word).toNat ≤ 64 ∧ 64 < (65 : Word).toNat := by
  decide +kernel
theorem witness_HandlersAndChannels_forms : ∀ b : Bool, ∀ p : Bool,
    let s := if p then (demoEntry b).sup else demoEntry b
    let g : FmtA := { fA with imm := 3, c := 5 }
    let k : FmtA := { fA with imm := 131 }
    s.IssuesA t0 (entMem 0x75 usedDabc none) anyFields g g ∧ s.IssuesA t0 (entMem 0x75 usedD none) anyFields k k ∧ k.imm.toNat / 64 < 3 ∧
      s.IssuesA t0 (entMem 0x76 usedD none) anyFields g g ∧ s.IssuesA t0 (entMem 0x77 usedDa none) anyFields g g ∧
      s.IssuesA t0 (entMem 0x78 usedD none) anyFields g g ∧ s.IssuesA t0 (entMem 0x7B usedDa none) anyFields g g := by
  intro b p
  cases b <;> cases p
  all_goals
    refine ⟨issuesA_of ?_, issuesA_of ?_, ?_, issuesA_of ?_, issuesA_of ?_, issuesA_of ?_, issuesA_of ?_⟩ <;> decide +kernel
/-- R139: HMASK answers the old MASK and sets it; R143: DACC of a handler number above 64 answers 0. -/
theorem test_hmask_dacc : outcomeAll (exec (.hmask { fA with imm := 3 }) (demoEntry false)) (fun r => r.reg t0 3 == 0 &&
    outcomeAll (exec (.hmaskUn { fA with imm := 3 }) r) (fun q => q.reg t0 3 == 1 && !hMASK ((q.core 0).handler 3).hw0)) = true ∧
    outcomeAll (exec (.dacc fA) (demo.putRegs [(1, 65), (3, 9)])) (fun r => r.reg t0 3 == 0) = true := by decide +kernel

/-! ### Waits, arrivals, selection and successors -/

/-- Conditions of each KIND that hold and that do not: a message in channel 5, a fence, s9 in the scoreboard, lace slot 1, the time. -/
def demoWait : State := ((demoRing false).modSlot t0 fun sl => { sl with board := 0x200 }).modCore 0 fun c => c.setLace 1 ⟨0x2000000, 0, 0⟩
def conditions : List Word := [0, 0x1000000000000105, 0x1000000000000205, 0x3000000000000008, 0x3000000000000009, 0x4000000000000001, 0x4000000000000000,
  0x5000000000000000, 0x5000000000000001]
theorem witness_WaitsEndWithTheirConditions :
    demoWait.IssuesE t0 ⟨0x7A, usedDabce, false, false, none⟩ ∧ (demoWait.strm t0).pend = none ∧ (conditions.any condBad = false) ∧
      condBad 0x1000000000000005 = true ∧ condBad 0x6000000000000000 = true ∧ (demoWait.strm t0).deadline = none ∧
      ((((demoWait.modStrm t0 fun x => { x with pend := some ⟨.wait, .wait fE, some 0, none, none⟩ }).strm t0).pend) = some ⟨.wait, .wait fE, some 0, none, none⟩) ∧
      conditions.map condKind = [0, 1, 1, 3, 3, 4, 4, 5, 5] ∧
      (conditions.filter fun w => condKind w != 0 && condKind w != 4).map (demoWait.condHoldsNow t0) = [true, false, true, false, true, false] ∧
      (0xFFFFFFFF : BitVec 32) ≠ 0 := by
  repeat' apply And.intro
  all_goals first | decide +kernel | (constructor <;> decide +kernel)
/-- R152: two conditions in mode 0: the bit of the one that holds; in mode 1 the stream waits. -/
theorem test_wait : let s := demoWait.putRegs [(9, 0x3000000000000008), (10, 0x3000000000000009)]
    outcomeAll (exec (.wait { fE with imm := 0xFFFFFFFF }) s) (fun r => r.reg t0 8 == 1) = true ∧
      outcomeAll (exec (.wait { fE with mode := 1, imm := 0xFFFFFFFF }) s) (fun r => (r.strm t0).pend.isSome) = true := by decide +kernel

/-- A message of three words to channel 5 of core 0, and core 0 as it takes it, loses it, or holds it. -/
def packet5 : Packet := ⟨0, 0, 0, 0, 5, [header 0 0 2 5 0 false false, 7, 8], targetWord 5 0x1FFF 0, none⟩
def demoArrive (cfg5 cfg63 : Word) (heap : List HeapMsg) (lost : Bool) : State := { demo.modCore 0 fun c =>
  { c with lost := lost, ch := { c.ch with cfg := vset (vset c.ch.cfg 5 cfg5) 63 cfg63, heap := heap } } with mesh := [packet5, packet5] }
theorem witness_ArrivalsReachTheirRing :
    let s := demoArrive 0x80040040 0x80040050 [] false
    let full := demoArrive 0x80040040 0x80040050 [⟨5, packet5.words, 0⟩] false
    let none_ := demoArrive 0x80040040 0 [⟨5, packet5.words, 0⟩] false
    s.mesh[0]? = some packet5 ∧ s.mesh[1]? = some packet5 ∧ (∃ q ∈ s.mesh.take 1, q.src = packet5.src ∧ q.dst = packet5.dst ∧ q.chan = packet5.chan) ∧
      s.mesh.take 0 = [] ∧ s.readAhead packet5 = false ∧ packet5.src < 2304 ∧ 2304 ≤ { packet5 with src := nCorePositions }.src ∧ (s.core 0).port = none ∧ (s.core 0).valid = true ∧ (s.core 0).tag = packet5.tag ∧ ((demoArrive 0 0 [] true).core 0).lost = true ∧
      cfgEn (((demoArrive 0 0 [] false).core 0).cfg 5) = false ∧ cfgEn ((s.core 0).cfg 5) = true ∧ (s.core 0).heapCount 5 = 0 ∧
      packet5.words.length ≤ (s.core 0).freeWords 5 ∧ (full.core 0).heapCount 5 ≠ 0 ∧ packet5.words.length + 1 ≤ (full.core 0).heapRoom ∧
      (none_.core 0).heapRoom < packet5.words.length + 1 ∧ (full.core 0).replayable = some ⟨5, packet5.words, 0⟩ ∧
      ((({ s with cores := [] } : State).core 0).valid && (({ s with cores := [] } : State).core 0).tag == packet5.tag) = false := by decide +kernel
/-- A ring of 32 words takes 32. -/
theorem witness_ArrivalsReachTheirRing_ring : (demoArrive 0x80040040 0 [] false).mem.wf = true ∧
    (List.replicate 32 (1 : Word)).length ≤ cfgCap (((demoArrive 0x80040040 0 [] false).core 0).cfg 5) * 8 ∧
      0 < cfgCap (((demoArrive 0x80040040 0 [] false).core 0).cfg 5) * 8 := by decide +kernel
/-- A message of the same slot on another channel, or of another slot, is on its way; an older read is; the port holds a message. -/
theorem witness_ArrivalsReachTheirRing_order :
    let s := demoArrive 0x80040040 0 [] false
    let mine : Packet := { packet5 with sender := some ⟨0, false, 0⟩ }
    let near : Packet := { mine with chan := 6 }
    s.behindSlot [near] mine = true ∧ s.behindSlot [{ near with sender := some ⟨1, false, 0⟩ }] mine = false ∧ s.behindSlot [] mine = false ∧
      (s.modCore 0 fun c => { c with ldrs := [⟨0, 0, false, 0, 0, 1, localAddr 0 0x1000, false, 0, []⟩] }).readAhead mine = true ∧
      s.readAhead mine = false ∧ ((s.modCore 0 fun c => { c with port := some mine }).core 0).port ≠ none := by decide +kernel
/-- R117, R120: the message stands at the start of the ring. -/
theorem test_arrival : outcomeAll (exec (.messageArrival (.mesh 0)) (demoArrive 0x80040040 0 [] false)) (fun r =>
    r.localWords 0 0x1000 3 == packet5.words && r.mesh.length == 1 && ((r.core 0).chRing 5).count == 1) = true := by decide +kernel

/-- Entries 3 and 7 wait for a message of channel 5; entry 7 has the higher priority. -/
def demoSel : State := (demoRing false).modCore 0 fun c => ((c.setHandler 3 ⟨0x8000000000000080, 0x0501, 0, 0⟩).setHandler 7
  ⟨0x9000000000000100 + 0x0004000000000000, 0x0501, 0, 0⟩).setSlot 0 { Slot.reset with st := 1 }
theorem witness_SelectionAndSuccessors :
    let s := demoSel
    let s0 := s.dropDead 0 ((s.core 0).untaken 0).length
    s.selects 0 = true ∧ ((s0.core 0).slot 1).st = 0 ∧ (∀ j < 1, ((s0.core 0).slot j).st ≠ 0) ∧ (s0.best 0).isSome = true ∧ (s0.core 0).dbg = none := by
  decide +kernel
/-- A record of two children with two result slots at 0x1000, and messages to it. -/
def succ0 (handle : Word) : SuccMsg := ⟨0, 0, 0, 0, 0, 0, handle, [1, 2, 3, 4], none⟩
def demoSucc (count : BitVec 32) (handle : Word) : State := { demo.setLocalWord 0 0x1000 (0#24 ++ 2#8 ++ count) with succs := [succ0 handle] }
theorem witness_SelectionAndSuccessors_successors :
    let h (res : Bool) (slot : BitVec 6) : Word := successorHandle res slot 0x1000 0x1FFF 0
    (∀ n ∈ [0, 1, 2], ∀ b : Bool, ∀ k ∈ [1, 2],
      let w := h b (BitVec.ofNat 6 k)
      let s := demoSucc (BitVec.ofNat 32 n) w
      s.mem.wf = true ∧ s.succs[0]? = some (succ0 w) ∧ recCount (s.localWord 0 (shOffset w)) = BitVec.ofNat 32 n ∧
        recNslot (s.localWord 0 (shOffset w)) = 2 ∧ shRes w = b ∧ shSlot w = k) ∧ ((demoSucc 1 0).core 0).port = none ∧ ((demoSucc 1 0).core 0).valid = true ∧
      ((demoSucc 1 0).core 0).tag = 0 ∧ ((demoSucc 1 0).core 0).lost = false ∧ (succ0 0).src < 2304 ∧ 0x1000 + 8 * (1 + 4 + 4 * 1) + 32 ≤ localSize ∧
      localSize < 0xBFFC0 + 8 * (1 + 4 + 4 * 1) + 32 ∧ (succ0 0).result.length = 4 := by decide +kernel
/-- What holds a successor message up: an earlier one of the same pair, a packet of its firing, and a port that holds a message. -/
theorem witness_SelectionAndSuccessors_waits :
    let m : SuccMsg := { succ0 0 with sender := some ⟨0, false, 0⟩ }
    let s : State := { demo with succs := [m, m] }
    let p : State := { s with mesh := [{ packet5 with sender := some ⟨0, true, 0⟩ }] }
    (∃ n ∈ s.succs.take 1, n.src = m.src ∧ n.dst = m.dst) ∧ s.succs.take 0 = [] ∧ p.packetAhead m = true ∧ s.packetAhead m = false ∧
      ((s.modCore 0 fun c => { c with port := some packet5 }).core 0).port ≠ none ∧ (s.core 0).port = none ∧
      2304 ≤ ({ m with src := nCorePositions } : SuccMsg).src := by decide +kernel
/-- R145: the result of four words lands in its slot and the count drops. -/
theorem test_successor : outcomeAll (exec (.successorMessage 0) (demoSucc 2 (successorHandle true 1 0x1000 0x1FFF 0))) (fun r =>
    r.localWords 0 (0x1000 + 8 * (1 + 4 + 4)) 4 == [1, 2, 3, 4] && recCount (r.localWord 0 0x1000) == 1) = true := by decide +kernel
theorem witness_SelectionAndSuccessors_reports :
    let r : Report := ⟨0, 0, 0, [1, 2, 3, 4, 5, 6], none, none⟩
    let s (cfg : Word) : State := { demo.modCore 0 fun c => { c with partTag := 0xC0, ch := { c.ch with cfg := vset c.ch.cfg 62 cfg } } with collectors := [(0, [r])] }
    (∀ b : Bool, NMap.get [] (s (if b then 0x80040040 else 0)).collectors 0 = [r] ∧ (s (if b then 0x80040040 else 0)).supOf 0 = some 0) ∧
      cfgEn (((s 0).core 0).cfg 62) = false ∧ cfgEn (((s 0x80040040).core 0).cfg 62) = true ∧ 6 ≤ ((s 0x80040040).core 0).freeWords 62 ∧
      ((s 0).core 0).lost = false := by decide +kernel
/-- A fault message of another module for core 0, in the partition that it names. -/
theorem witness_SelectionAndSuccessors_named :
    let r : Report := ⟨0, 0, 0, [1, 2, 3, 4, 5, 6], none, some 0⟩
    let s : State := { demo with collectors := [(0, [r])] }
    NMap.get [] s.collectors 0 = [r] ∧ r.dst = some 0 ∧ (s.core 0).valid = true ∧ (s.core 0).tag = r.tag := by decide +kernel

/-! ### Copies -/

def fC : FmtE := { fE with e := 12 }
/-- A copy of two elements of eight bytes within local memory; s[12] holds `len`. -/
def demoCopy (len : Word) : State := demo.putRegs [(9, 0x30), (10, localAddr 0 0x100), (11, localAddr 0 0x200), (12, len)]
def fullFifo (s : State) : State := s.modCore 0 fun c => { c with reqs := List.replicate 32 ⟨⟨0, false, 0, 0, 0, 0, 0⟩, 0, 0, 0, [], none, 0, 0, [], [], false⟩ }
theorem run_ok {α : Type} {x : Run α} (h : (match x with
    | .ok _ => true
    | .error _ => false) = true) : ∃ s1, x = .ok s1 := by
  split at h
  · exact ⟨_, rfl⟩
  · cases h
/-- Lengths at the bounds of R250, and a request with and without a free entry. -/
theorem witness_CopiesAreQueuedAndMoved :
    let s := demoCopy 16
    t0.slot < 5 ∧ (∀ e ∈ [entEngine 0xC0 usedDabce, entEngine 0xC1 usedDabce, entEngine 0xC2 usedDabce, entEngine 0xC3 usedDabce, entEngine 0xC4 usedD,
        entEngine 0xC4 usedDa], s.IssuesE t0 e) ∧ s.fifoOk t0 = true ∧ (fullFifo s).fifoOk t0 = false ∧
      s.ctlMsgBad 0 0x30 = false ∧ ctlRestBad 0x30 = false ∧ ctlRestBad 0x31 = true ∧ (0xFFFFFFF8 : Word).toNat < 2 ^ 32 ∧ (0xFFFFFFF8 : Word).toNat % 8 = 0 ∧
      ¬((0x100000000 : Word).toNat < 2 ^ 32) ∧ (12 : Word).toNat % 8 ≠ 0 ∧ ctlMsg 0x30 = false ∧ (0x30 : Word).toNat < 2 ^ 16 ∧
      let ts := copyTouches 0x30 (s.reg t0 10) (s.reg t0 11) [(2, 8, 8)] 2
      (∃ s1, s.probe t0 (.copy fC) ts [ts] = .ok s1) ∧ ∃ s1, s.probe t0 (.copyb fC) ts [ts] = .ok s1 := by
  have h : ([entEngine 0xC0 usedDabce, entEngine 0xC1 usedDabce, entEngine 0xC2 usedDabce, entEngine 0xC3 usedDabce, entEngine 0xC4 usedD,
    entEngine 0xC4 usedDa].all fun e => (demoCopy 16).cur == .stream t0 && !e.illegal t0 ((demoCopy 16).strm t0)) = true := by decide +kernel
  refine ⟨by decide, fun e he => ?_, ?_⟩
  rotate_left
  · repeat' apply And.intro
    all_goals first | decide +kernel | exact run_ok (by decide +kernel)
  have := List.all_eq_true.mp h e he
  simp only [Bool.and_eq_true, beq_iff_eq, Bool.not_eq_true'] at this
  exact ⟨this.1, this.2⟩
/-- A parameter block of one dimension of two elements in the vault, and one of no dimensions. -/
def demoBlock (n : Nat) : State := ((demoCopy (vault0 0x100)).claim (vaultKey 0 0) .published 0).store (vaultKey 0 0x100) 192
  (n + 2 * 2 ^ 64 + 8 * 2 ^ 384 + 8 * 2 ^ 960)
/-- The block's snapshot has these dimensions; the probe that follows it passes; or it answers a status. -/
def snapIs (s : State) (want : Option (List (Nat × Int × Int))) : Bool :=
  match s.blockSnapshot t0 fC with
  | .ok (.ok b, _) => blockDims b false 8 == want
  | _ => false
def snapProbed (s : State) (dims : List (Nat × Int × Int)) : Bool :=
  let ts := copyTouches 0x30 (s.reg t0 10) (s.reg t0 11) dims (dimsTotal dims)
  match s.blockSnapshot t0 fC with
  | .ok (.ok _, s1) => (match s1.probe t0 (.copyp fC) ts [ts] with
    | .ok _ => true
    | .error _ => false)
  | _ => false
def snapStatus (s : State) (want : Byte) : Bool :=
  match s.blockSnapshot t0 fC with
  | .ok (.error st, _) => st == want
  | _ => false
theorem witness_CopiesAreQueuedAndMoved_block :
    snapIs (demoBlock 1) (some [(2, 8, 8)]) = true ∧ snapIs (demoBlock 0) none = true ∧ snapProbed (demoBlock 1) [(2, 8, 8)] = true ∧
      ((demoBlock 1).strm t0).snap = [] ∧
      snapStatus ((demoBlock 1).modRegion (vaultKey 0 0) fun r => { r with st := .unclaimed }) 0x0F = true ∧
      snapIs ((demoBlock 0).modStrm t0 fun x => { x with snap := [(demoBlock 1).mem.readNat (vaultKey 0 0x100) 192] }) (some [(2, 8, 8)]) = true := by
  decide +kernel
/-- A gather of one row of eight bytes whose 4-byte index stands in the last four bytes of local memory, and one of no rows. -/
theorem witness_CopiesAreQueuedAndMoved_gather : ∀ len ∈ [(2 ^ 20 + localSize - 4 : Nat), 0],
    let s := demoCopy (BitVec.ofNat 64 len)
    let f : FmtE := { fC with imm := 8 }
    let row := f.imm.toNat % 2 ^ 20
    let n := len / 2 ^ 20 % 2 ^ 20
    let off := len % 2 ^ 20
    len < 2 ^ 41 ∧ row % 8 = 0 ∧ off % 4 = 0 ∧ (n = 0 ∨ off + n * 4 ≤ localSize) ∧ ctlFill 0x30 = false ∧
      ∃ s1, s.probe t0 (.gath f) ((List.range (n * row / 8)).map (fun k => (⟨s.reg t0 11, plusOff (s.reg t0 11) (k * 8 : Nat), 8, 8, true⟩ : Touch)) ++
        gathList 0 (s.reg t0 12)) [] = .ok s1 := by
  intro len hl
  simp only [List.mem_cons, List.not_mem_nil, or_false] at hl
  obtain rfl | rfl := hl
  all_goals exact ⟨by decide +kernel, by decide +kernel, by decide +kernel, by decide +kernel, by decide +kernel, run_ok (by decide +kernel)⟩
/-- A request with one of its two elements moved. -/
def req0 : Req := ⟨(demoCopy 16).ticket t0 8, 0x30, localAddr 0 0x100, localAddr 0 0x200, [(2, 8, 8)], none, 2, 1, [], [], false⟩
def demoMove : State := (((demoCopy 16).boardSet t0 8).setLocalWord 0 0x108 77).modCore 0 fun c => { c with reqs := [req0] }
theorem witness_CopiesAreQueuedAndMoved_moves :
    let s := demoMove
    s.mem.wf = true ∧ (s.core 0).reqs.find? (fun r => r.tk.seq == 0) = some req0 ∧ req0.gather = none ∧ req0.done < req0.total ∧
      s.engineSpace 0 (plusOff req0.src (elemOffs req0.dims req0.done).1) = some (.lm 0 0x108) ∧ 0x108 + ctlEsz req0.ctl ≤ localSize ∧
      s.badIn (localKey 0 0x108) (ctlEsz req0.ctl) = none ∧ s.engineSpace 0 (plusOff req0.dst (elemOffs req0.dims req0.done).2) = some (.lm 0 0x208) ∧
      s.badPartial (localKey 0 0x208) (ctlEsz req0.ctl) = none ∧ req0.tk.slot < 5 ∧ ctlMsg req0.ctl = false ∧ req0.tk.d ≠ 0 ∧
      s.firingRuns 0 req0.tk.slot req0.tk.fseq = true ∧ (s.slot ⟨0, req0.tk.slot, req0.tk.acc⟩).board.getLsbD req0.tk.d.toNat = true ∧
      ∀ k < req0.total, s.engineSpace 0 (req0.elemDst k) = some (.lm 0 (0x200 + 8 * k)) := by decide +kernel
/-- The last element has been seen new, or what it delivers has been read. -/
theorem witness_CopiesAreQueuedAndMoved_early :
    let r : Req := { req0 with early := [(1, 0, 77)] }
    let a : Req := { req0 with ahead := [(1, 99)] }
    (demoMove.reqOpen 0 req0 1 = true ∧ (∀ x ∈ r.early, r.done ≤ x.1 ∧ x.1 < r.total)) ∧ (r.early.any fun x => x.1 == r.done) = true ∧
      (a.ahead.find? fun x => x.1 == a.done) = some (1, 99) ∧ (req0.early.any fun x => x.1 == req0.done) = false ∧
      (req0.ahead.find? fun x => x.1 == req0.done) = none := by decide +kernel
/-- R255, R257: the last element moves, and the status says two elements. -/
theorem test_copy_moves :
    let r := demoMove.runReq 0 req0 1
    r.localWord 0 0x208 = 77 ∧ r.localWord 0 0x200 = 0 ∧ r.reg t0 8 = statusWord 2 0 0 ∧ (r.core 0).reqs = [] := by decide +kernel

/-! ### The manual's worked examples -/

/-- spec/03_number_formats.md, after R74: 1 + 2^-11 + 2^-40 reaches f16 as 1 + 2^-10. -/
theorem test_chain_f64_f16 : chain 12 9 0 0x3FF0020000001000 = 0x3C01 := by decide +kernel
/-- spec/03_number_formats.md, after R77: code 0x1A5B with entry 0x0000_0001_5291_7F03. -/
theorem test_cb2 : cb2 0x1A5B 0x0000000152917F03 = [-7, 1, -31, -15, 3, -19, 5, -11] := by decide +kernel
/-- spec/04_registers_and_scalar.md, R111: FCVT.i8.i64 of 300 gives 127. -/
theorem test_fcvt_saturates : outcomeAll (exec (.fcvt { fA with fn := 1, c := 4 }) (demo.putRegs [(1, 300)])) (fun r => r.reg t0 3 == 127) = true := by
  decide +kernel
/-- spec/06_vector_lanes.md, after R171: BADDQ.i8.e8m0 with s9 = 0x7B7A. -/
theorem test_baddq : outcomeAll (exec (.baddq ⟨0, 4, 1, 2, 0, 9, 1, 0, false, 0x10⟩) ((demo.putVecs [(1, 0x2060), (2, 0xF864)]).putRegs [(9, 0x7B7A)]))
    (fun r => (r.vreg t0 4).extractLsb' 0 256 == 0x044A && r.reg t0 9 == 0x7C) = true := by decide +kernel
/-- spec/12_copy_engine.md, the transposed tile: the source and destination offsets of its sixteen elements. -/
theorem test_transposed_tile : (List.range 16).map (elemOffs [(4, 4, 16), (4, 64, 4)]) =
    (List.range 16).map fun k => (((64 * (k / 4) + 4 * (k % 4) : Nat) : Int), ((16 * (k % 4) + 4 * (k / 4) : Nat) : Int)) := by decide +kernel
/-- spec/14_matrix_engines.md, one element at four slice counts: λ and C(0,0) for s = 1 to 4. -/
def sliceData (slc : BitVec 3) : MData := ⟨.sliced, ⟨11, 11, 11, 0, slc, false, 0⟩, 2, [0x3E99999A3FC00000], [0], [0x3F80000040000000], [0], []⟩
def sliceResult (slc : BitVec 3) : Nat :=
  let d := sliceData slc
  let lam := d.lambda 1 2 0 0 false (.zero false)
  cellResult d.f lam (d.pairs.foldl (fun c pq => d.addBlock 1 2 lam 0 0 pq 0 c) ⟨0, false, false, false, false⟩)
theorem test_slice_example : (sliceData 0).expA 0 = 1 ∧ (sliceData 0).expB 0 = 2 ∧ (sliceData 3).lambda 1 2 0 0 false (.zero false) = -225 ∧
    (sliceData 3).digitA 1 0 1 4 = 52 ∧ [0, 1, 2, 3].map (fun k => sliceResult (BitVec.ofNat 3 k)) = [0x40540000, 0x40533400, 0x40533330, 0x40533333] := by
  decide +kernel
/-- spec/18_partitions_time_traps.md, three contexts: slice 4 chooses context 0, and a T one tick short answers 0x07. -/
def threeContexts : State :=
  let x (tickets : BitVec 16) (pass : Word) (st : BitVec 3) : Ctx := ⟨tickets, st, pass, 0, 0, 0, [], 0, 0, 0, none, 0⟩
  { (demo.setPart 0 (((demoPart.setCtx 0 (x 4096 256 1)).setCtx 1 (x 2048 512 2)).setCtx 2 (x 1024 1024 1))).sup with time := 5000000 }
theorem test_three_contexts :
    outcomeAll (exec (.gangNext ⟨1, 10, 0, 12, 0, 0, 0⟩) (threeContexts.putRegs [(12, 5020000)])) (fun r =>
      r.reg t0 10 == 0x000 && ((r.part 0).ctx 0).pass == 512 && ((r.part 0).ctx 1).pass == 512 && ((r.part 0).ctx 2).pass == 1024) = true ∧
    outcomeAll (exec (.gangNext ⟨1, 10, 0, 12, 0, 0, 0⟩) (threeContexts.putRegs [(12, 5019999)])) (fun r => r.reg t0 10 == 0x07) = true := by
  decide +kernel
/-- spec/05_firings_and_channels.md, a call with a waited reply: the packet and the child number of CALLAT. -/
theorem test_callat : outcomeAll (exec (.callat ⟨0, 13, 8, 9, 0, 0, 3⟩) (demo.putRegs [(9, 7)])) (fun r => (r.slot t0).child == 1 &&
    (r.mesh.map fun p => p.words.drop 2) == [[7, 0, 0, 0, 0x83FFF000, 0, 0]] &&
    ((r.mesh.headD ⟨0, 0, 0, 0, 0, [], 0, none⟩).words.getD 1 0).extractLsb' 0 32 == 0x21810000) = true := by decide +kernel

end Sys2Proof.Machine
end

section
/-!
PROOF. The results of the scalar integer arithmetic, OP 0x20 to 0x29 (R98, R99).
-/
namespace Sys2Proof.Machine

/-! ### From a form's body to what it computes -/

/-- An instruction whose body always answers with a result computes that result. -/
theorem computes_of_body {mk : FmtA → Instr} {e : Entry} {ok : FmtA → Bool} {body : StreamId → FmtA → State → Run State}
    {r : State → StreamId → FmtA → Word} (hexec : ∀ f s, exec (mk f) s = issueA e ok body f s)
    (hbody : ∀ t g s, body t g s = .ok (s.resultA t g (r s t g))) : Computes mk e ok r := by
  intro f g s t h
  rw [hexec, issueA_issues h, hbody, finish_ok]

section
variable {mk : FmtA → Instr} {e : Entry} {ok : FmtA → Bool} {op op' : Word → Word → Word}

theorem computes_of_regForm (hop : ∀ a b, op a b = op' a b) (hexec : ∀ f s, exec (mk f) s = issueA e ok (regForm op) f s) :
    Computes mk e ok (ofReg op') :=
  computes_of_body hexec fun _ _ _ => by simp only [regForm, ofReg, hop]

theorem computes_of_immForm (hop : ∀ a b, op a b = op' a b) (hexec : ∀ f s, exec (mk f) s = issueA e ok (immForm op) f s) :
    Computes mk e ok (ofImm op') :=
  computes_of_body hexec fun _ _ _ => by simp only [immForm, immS, ofImm, hop]

theorem computes_of_immFormN (hop : ∀ a b, op a b = op' a b) (hexec : ∀ f s, exec (mk f) s = issueA e ok (immFormN op) f s) :
    Computes mk e ok (ofImmN op') :=
  computes_of_body hexec fun _ _ _ => by simp only [immFormN, immZ, ofImmN, hop]
end

/-! ### The operations as arithmetic on integers (R98) -/

theorem add_eq_ofInt_toInt (a b : Word) : a + b = BitVec.ofInt 64 (a.toInt + b.toInt) := by
  rw [BitVec.ofInt_add, BitVec.ofInt_toInt, BitVec.ofInt_toInt]

theorem sub_eq_ofInt_toInt (a b : Word) : a - b = BitVec.ofInt 64 (a.toInt - b.toInt) := by
  rw [BitVec.sub_eq_add_neg, Int.sub_eq_add_neg, BitVec.ofInt_add, BitVec.ofInt_neg, BitVec.ofInt_toInt, BitVec.ofInt_toInt]

theorem mul_eq_ofInt_toInt (a b : Word) : a * b = BitVec.ofInt 64 (a.toInt * b.toInt) := by
  rw [BitVec.ofInt_mul, BitVec.ofInt_toInt, BitVec.ofInt_toInt]

/-- The upper half of a double word holds the quotient by 2^64, rounded down for a negative number too. -/
theorem extractLsb'_high_ofInt (z : Int) : (BitVec.ofInt 128 z).extractLsb' 64 64 = BitVec.ofInt 64 (z / 2 ^ 64) := by
  apply BitVec.eq_of_toNat_eq
  rw [BitVec.extractLsb'_toNat, BitVec.toNat_ofInt, BitVec.toNat_ofInt, Nat.shiftRight_eq_div_pow]
  omega

theorem mulHigh_eq (a b : Word) : mulHigh a b = BitVec.ofInt 64 (a.toInt * b.toInt / 2 ^ 64) := by
  have product : a.signExtend 128 * b.signExtend 128 = BitVec.ofInt 128 (a.toInt * b.toInt) := (BitVec.ofInt_mul ..).symm
  rw [mulHigh, product, extractLsb'_high_ofInt]

theorem mulHighN_eq (a b : Word) : mulHighN a b = BitVec.ofNat 64 (a.toNat * b.toNat / 2 ^ 64) := by
  have product : (a.setWidth 128 * b.setWidth 128).toNat = a.toNat * b.toNat := by
    have bound : a.toNat * b.toNat < 2 ^ 128 := Nat.lt_of_lt_of_eq (Nat.mul_lt_mul'' a.isLt b.isLt) (Nat.pow_add 2 64 64).symm
    rw [BitVec.toNat_mul, BitVec.toNat_setWidth_of_le (by decide), BitVec.toNat_setWidth_of_le (by decide), Nat.mod_eq_of_lt bound]
  rw [mulHighN, BitVec.extractLsb', product, Nat.shiftRight_eq_div_pow]

/-! ### Division (R99) -/

theorem divS_eq (a b : Word) : divS a b = if b = 0 then BitVec.allOnes 64 else BitVec.ofInt 64 (a.toInt.tdiv b.toInt) := by
  have quotient : a.sdiv b = BitVec.ofInt 64 (a.toInt.tdiv b.toInt) :=
    BitVec.eq_of_toInt_eq (by rw [BitVec.toInt_sdiv, BitVec.toInt_ofInt])
  rw [divS, quotient]

theorem divU_eq (a b : Word) : divU a b = if b = 0 then BitVec.allOnes 64 else BitVec.ofNat 64 (a.toNat / b.toNat) := by
  rw [divU, BitVec.udiv_def]

theorem remS_eq (a b : Word) : remS a b = if b = 0 then a else BitVec.ofInt 64 (a.toInt - b.toInt * a.toInt.tdiv b.toInt) := by
  rw [remS, ← Int.tmod_def, ← BitVec.toInt_srem, BitVec.ofInt_toInt]

theorem remU_eq (a b : Word) : remU a b = if b = 0 then a else BitVec.ofNat 64 (a.toNat % b.toNat) := by
  rw [remU, BitVec.umod_def]

/-- The quotient 2^63 of MIN(i64) by −1 is no i64 and wraps; its remainder is zero. -/
theorem divS_intMin_neg_one : divS (BitVec.intMin 64) (BitVec.allOnes 64) = BitVec.intMin 64 := by decide
theorem remS_intMin_neg_one : remS (BitVec.intMin 64) (BitVec.allOnes 64) = 0 := by decide

/-- Settles O1: each form runs its operation once, and each operation is the arithmetic that R98 and R99 give. -/
theorem integerArithmeticResults : Obligations.IntegerArithmeticResults := by
  refine ⟨⟨computes_of_regForm add_eq_ofInt_toInt fun _ _ => rfl, computes_of_immForm add_eq_ofInt_toInt fun _ _ => rfl, ?addi,
      computes_of_regForm sub_eq_ofInt_toInt fun _ _ => rfl, computes_of_immForm sub_eq_ofInt_toInt fun _ _ => rfl,
      computes_of_regForm mul_eq_ofInt_toInt fun _ _ => rfl, computes_of_immForm mul_eq_ofInt_toInt fun _ _ => rfl,
      computes_of_regForm mulHigh_eq fun _ _ => rfl, computes_of_immForm mulHigh_eq fun _ _ => rfl,
      computes_of_regForm mulHighN_eq fun _ _ => rfl, computes_of_immFormN mulHighN_eq fun _ _ => rfl⟩,
    computes_of_regForm divS_eq fun _ _ => rfl, computes_of_immForm divS_eq fun _ _ => rfl,
    computes_of_regForm divU_eq fun _ _ => rfl, computes_of_immFormN divU_eq fun _ _ => rfl,
    computes_of_regForm remS_eq fun _ _ => rfl, computes_of_immForm remS_eq fun _ _ => rfl,
    computes_of_regForm remU_eq fun _ _ => rfl, computes_of_immFormN remU_eq fun _ _ => rfl,
    (divS_eq _ _).symm.trans divS_intMin_neg_one, (remS_eq _ _).symm.trans remS_intMin_neg_one⟩
  case addi =>
    refine computes_of_body (fun _ _ => rfl) fun t g s => ?_
    simp only [immS, BitVec.ofInt_add, BitVec.ofInt_toInt]

end Sys2Proof.Machine
end

section
/-!
PROOF. The scalar floating-point instructions that round nothing: FMIN, FMAX, FCMP, FCLS and the FMOVs (R109, R110, R112).
-/
namespace Sys2Proof.Machine

theorem computes_of_fpResult {mk : FmtA → Instr} {e : Entry} {ok : FmtA → Bool} {n : State → StreamId → FmtA → Nat}
    {r : State → StreamId → FmtA → Word} (hr : ∀ s t g, BitVec.ofNat 64 (n s t g) = r s t g)
    (hexec : ∀ f s, exec (mk f) s = issueA e ok (fpResult n) f s) : Computes mk e ok r :=
  computes_of_body hexec fun _ _ _ => by simp only [fpResult, hr]

/-! ### Sign and magnitude (R112) -/

theorem tyW_pos (c : Nat) : 0 < tyW c := Nat.two_pow_pos _

/-- The low w bits are the sign bit and the magnitude. -/
theorem mod_tyW_eq_sign_add_mag (c bits : Nat) : bits % 2 ^ tyW c = signOf c bits * 2 ^ (tyW c - 1) + magOf c bits := by
  obtain ⟨w, hw⟩ := Nat.exists_eq_succ_of_ne_zero (Nat.ne_of_gt (tyW_pos c))
  rw [signOf, magOf, hw, Nat.succ_sub_one, Nat.pow_succ, Nat.mod_mul, Nat.add_comm, Nat.mul_comm]

/-- FCMP's mask is the bit of the one relation that holds (R110). -/
theorem ofNat_fcmpMask (x y : Val) : BitVec.ofNat 64 (fcmpMask x y) =
    if x.isNan || y.isNan then 8 else match x.cmp y with | .lt => 1 | .eq => 2 | .gt => 4 := by
  unfold fcmpMask
  split
  · rfl
  · cases x.cmp y <;> rfl

/-- The zeros compare equal (R110). -/
theorem zero_cmp_zero (n m : Bool) : (Val.zero n).cmp (Val.zero m) = .eq := by
  cases n <;> cases m <;> rfl

/-! ### The fields of an encoding of the types f16, bf16, f32 and f64 (R61) -/

/-- The exponent field, the fraction field, and the fraction's top bit, which tells a quiet NaN. -/
def expOf (c bits : Nat) : Nat := bits / 2 ^ (fty c).fb % 2 ^ (fty c).eb
def fracOf (c bits : Nat) : Nat := bits % 2 ^ (fty c).fb
def quietOf (c bits : Nat) : Nat := bits / 2 ^ ((fty c).fb - 1) % 2

theorem quietOf_eq_zero_or_one (c bits : Nat) : quietOf c bits = 0 ∨ quietOf c bits = 1 := Nat.mod_two_eq_zero_or_one _

/-- What FCLS's operand formats have in common: a sign, an exponent and a fraction make up the width, and the
exponent that is all ones is not zero and holds the infinities and NaNs. -/
structure FTy.Ieee (c : Nat) : Prop where
  float : isFloat c = true
  width : tyW c = (fty c).w
  fields : (fty c).w = (fty c).fb + (fty c).eb + 1
  frac : 0 < (fty c).fb
  top : 2 ^ (fty c).eb - 1 ≠ 0
  inf : (fty c).hasInf = true
  notE4m3 : c ≠ 13

theorem ieee_of_le {c : Nat} (h9 : 9 ≤ c) (h12 : c ≤ 12) : FTy.Ieee c := by
  obtain rfl | rfl | rfl | rfl : c = 9 ∨ c = 10 ∨ c = 11 ∨ c = 12 := by omega
  all_goals constructor <;> decide

/-- Cutting an encoding off above a field leaves the field. -/
theorem mod_pow_div_mod_pow {n k w : Nat} (bits : Nat) (h : n + k ≤ w) : bits % 2 ^ w / 2 ^ n % 2 ^ k = bits / 2 ^ n % 2 ^ k := by
  obtain ⟨m, rfl⟩ := Nat.exists_eq_add_of_le h
  rw [Nat.add_assoc, Nat.pow_add, Nat.mod_mul_right_div_self, Nat.mod_mod_of_dvd _ (Nat.pow_dvd_pow 2 (Nat.le_add_right k m))]

theorem mod_pow_mod_pow {n w : Nat} (bits : Nat) (h : n ≤ w) : bits % 2 ^ w % 2 ^ n = bits % 2 ^ n :=
  Nat.mod_mod_of_dvd _ (Nat.pow_dvd_pow 2 h)

/-- A number's top bit says whether the number has at least the weight of that bit. -/
theorem pow_pred_le_mod_pow_iff {w : Nat} (hw : 0 < w) (bits : Nat) : 2 ^ (w - 1) ≤ bits % 2 ^ w ↔ bits / 2 ^ (w - 1) % 2 = 1 := by
  obtain ⟨n, rfl⟩ := Nat.exists_eq_succ_of_ne_zero (Nat.ne_of_gt hw)
  have below : bits % 2 ^ n < 2 ^ n := Nat.mod_lt _ (Nat.two_pow_pos n)
  rw [Nat.succ_sub_one, Nat.pow_succ, Nat.mod_mul]
  obtain h | h := Nat.mod_two_eq_zero_or_one (bits / 2 ^ n) <;> rw [h] <;> omega

/-- The bit that R110 gives to the class of an operand, read off the fields. -/
def fclsBit (c bits : Nat) : Nat :=
  if expOf c bits = 2 ^ (fty c).eb - 1 then
    (if fracOf c bits = 0 then (if signOf c bits = 1 then 0 else 7) else if quietOf c bits = 1 then 9 else 8)
  else if expOf c bits = 0 then
    (if fracOf c bits = 0 then (if signOf c bits = 1 then 3 else 4) else if signOf c bits = 1 then 2 else 5)
  else if signOf c bits = 1 then 1
  else 6

theorem fclsBit_lt (c bits : Nat) : fclsBit c bits < 10 := by
  unfold fclsBit
  repeat' split
  all_goals decide

section
variable {c : Nat} (h : FTy.Ieee c) (bits : Nat)
include h

theorem valOf_eq_of_fields : valOf c bits =
    if expOf c bits = 2 ^ (fty c).eb - 1 then (if fracOf c bits = 0 then .inf (signOf c bits = 1) else .nan)
    else if expOf c bits = 0 then .fin (signOf c bits = 1) (fracOf c bits) (1 - ((fty c).bias : Int) - (fty c).fb) false
    else .fin (signOf c bits = 1) (2 ^ (fty c).fb + fracOf c bits) ((expOf c bits : Int) - (fty c).bias - (fty c).fb) false := by
  have sign : bits % 2 ^ (fty c).w / 2 ^ ((fty c).w - 1) % 2 = signOf c bits := by
    rw [signOf, h.width]
    exact mod_pow_div_mod_pow (k := 1) bits (by rw [h.fields]; omega)
  have mag : bits % 2 ^ (fty c).w % 2 ^ ((fty c).w - 1) = bits % 2 ^ ((fty c).fb + (fty c).eb) := by
    rw [mod_pow_mod_pow bits (Nat.sub_le _ 1), h.fields, Nat.add_sub_cancel]
  have exp : bits % 2 ^ ((fty c).fb + (fty c).eb) / 2 ^ (fty c).fb = expOf c bits := by
    rw [Nat.pow_add, Nat.mod_mul_right_div_self, expOf]
  have frac : bits % 2 ^ ((fty c).fb + (fty c).eb) % 2 ^ (fty c).fb = fracOf c bits := mod_pow_mod_pow bits (Nat.le_add_right _ _)
  simp [valOf, floatVal, h.float, h.width, sign, mag, exp, frac, h.inf, h.notE4m3]

theorem fclsMask_eq_pow_fclsBit : fclsMask c bits = 2 ^ fclsBit c bits := by
  have fieldsLe : (fty c).fb + (fty c).eb ≤ (fty c).w := by rw [h.fields]; omega
  have sign : 2 ^ ((fty c).w - 1) ≤ bits % 2 ^ (fty c).w ↔ signOf c bits = 1 := by
    rw [pow_pred_le_mod_pow_iff (by rw [h.fields]; omega), signOf, h.width]
  have exp : bits % 2 ^ (fty c).w / 2 ^ (fty c).fb % 2 ^ (fty c).eb = expOf c bits := mod_pow_div_mod_pow bits fieldsLe
  have frac : bits % 2 ^ (fty c).w % 2 ^ (fty c).fb = fracOf c bits := mod_pow_mod_pow bits (Nat.le_trans (Nat.le_add_right _ _) fieldsLe)
  have quiet : 2 ^ ((fty c).fb - 1) ≤ fracOf c bits ↔ quietOf c bits = 1 := pow_pred_le_mod_pow_iff h.frac bits
  simp only [fclsMask, fclsBit, sign, exp, frac, quiet, apply_ite (fun k => 2 ^ k)]

/-- The class of each bit (R110): the infinities, the zeros, the normal numbers, the subnormal numbers and the NaNs. -/
theorem fclsBit_classifies :
    let v := valOf c bits
    let b := fclsBit c bits
    let neg := signOf c bits = 1
    let ex := expOf c bits
    let top := 2 ^ (fty c).eb - 1
    (b = 0 ↔ v = .inf true) ∧ (b = 7 ↔ v = .inf false) ∧
    (b = 3 ↔ v.isZero = true ∧ neg) ∧ (b = 4 ↔ v.isZero = true ∧ ¬neg) ∧
    (b = 1 ↔ ex ≠ 0 ∧ ex ≠ top ∧ neg) ∧ (b = 6 ↔ ex ≠ 0 ∧ ex ≠ top ∧ ¬neg) ∧
    (b = 2 ↔ ex = 0 ∧ v.isZero = false ∧ neg) ∧ (b = 5 ↔ ex = 0 ∧ v.isZero = false ∧ ¬neg) ∧
    (b = 8 ↔ v.isNan = true ∧ quietOf c bits = 0) ∧ (b = 9 ↔ v.isNan = true ∧ quietOf c bits = 1) := by
  have hv := valOf_eq_of_fields h bits
  have htop := h.top
  by_cases hex : expOf c bits = 2 ^ (fty c).eb - 1
  · by_cases hfr : fracOf c bits = 0
    · -- an infinity
      by_cases hs : signOf c bits = 1 <;> simp [hv, fclsBit, hex, hfr, hs, htop, Val.isZero, Val.isNan]
    · -- a NaN
      obtain hq | hq := quietOf_eq_zero_or_one c bits <;> simp [hv, fclsBit, hex, hfr, hq, htop, Val.isZero, Val.isNan]
  · by_cases h0 : expOf c bits = 0
    · by_cases hfr : fracOf c bits = 0
      · -- a zero
        by_cases hs : signOf c bits = 1 <;> simp [hv, fclsBit, h0, hfr, hs, htop.symm, Val.isZero, Val.isNan]
      · -- a subnormal number
        by_cases hs : signOf c bits = 1 <;> simp [hv, fclsBit, h0, hfr, hs, htop.symm, Val.isZero, Val.isNan]
    · -- a normal number
      by_cases hs : signOf c bits = 1 <;> simp [hv, fclsBit, hex, h0, hs, Val.isZero, Val.isNan]

theorem fclsMask_eq_pow_iff (k : Nat) : fclsMask c bits = 2 ^ k ↔ fclsBit c bits = k := by
  rw [fclsMask_eq_pow_fclsBit h, Nat.pow_right_inj Nat.one_lt_two]
end

/-- Settles O35: the minimum, the maximum and the moves run the operation of their rule once, FCMP's mask is one bit, and FCLS's mask is
the bit of the class that the operand's fields give. -/
theorem floatMovesAndComparisons : Obligations.FloatMovesAndComparisons := by
  refine ⟨⟨?fmin, ?fmax, ?fcmp, ?fcls, ?fmov, ?neg, ?abs, ?sgn⟩, ?classes, zero_cmp_zero⟩
  case fmin | fmax | fcls => exact computes_of_fpResult (fun _ _ _ => rfl) fun _ _ => rfl
  case fcmp => exact computes_of_fpResult (fun _ _ _ => ofNat_fcmpMask _ _) fun _ _ => rfl
  case fmov => exact computes_of_fpResult (fun _ _ _ => congrArg _ (mod_tyW_eq_sign_add_mag _ _)) fun _ _ => rfl
  case neg | sgn => exact computes_of_fpResult (fun _ _ _ => congrArg _ (Nat.add_comm _ _)) fun _ _ => rfl
  case abs => exact computes_of_fpResult (fun _ _ _ => by simp only [Nat.zero_mul, Nat.zero_add, magOf, fpTy]) fun _ _ => rfl
  case classes =>
    intro c bits h9 h12
    have h := ieee_of_le h9 h12
    have classes := fclsBit_classifies h bits
    simp only [← fclsMask_eq_pow_iff h] at classes
    exact ⟨⟨fclsBit c bits, fclsBit_lt c bits, fclsMask_eq_pow_fclsBit h bits⟩, classes⟩

end Sys2Proof.Machine
end

section
/-!
PROOF. HAND, HAND.init and the home's step that completes HAND (R211, R212).
-/
namespace Sys2Proof.Machine

/-! ### What the search of a region may change (R202, R404) -/

/-- Nothing differs but the stations' caches and the cores' counters, which a translation miss changes. -/
structure OnlyMisses (s s' : State) : Prop where
  rest : { s' with cores := s.cores, stations := s.stations } = s
  cores : ∀ p, { s'.core p with pm := (s.core p).pm } = s.core p

theorem OnlyMisses.refl (s : State) : OnlyMisses s s := ⟨rfl, fun _ => rfl⟩

theorem onlyMisses_countMiss (s : State) (p : Nat) : OnlyMisses s (s.modCore p Core.countMiss) where
  rest := rfl
  cores q := by
    by_cases h : q = p
    · rw [h, State.core_modCore_same]; rfl
    · rw [State.core_modCore_ne _ _ h]

theorem OnlyMisses.setStation {s s' : State} (h : OnlyMisses s s') (n : Nat) (st : Station) : OnlyMisses s (s'.setStation n st) :=
  ⟨h.rest, h.cores⟩

theorem onlyMisses_touchPage (s : State) (p : Nat) (va : Word) : OnlyMisses s (s.touchPage p va) := by
  unfold State.touchPage
  dsimp only
  split
  · exact .refl s
  · split
    · exact (onlyMisses_countMiss s p).setStation _ _
    · exact onlyMisses_countMiss s p

/-- A search that finds a place has done no more than translate the address. -/
theorem capPlace_ok {s s1 : State} {t : StreamId} {a : Word} {pl : Place} (h : s.capPlace t a = .ok (pl, s1)) :
    s1 = s.touchPage t.core a := by
  unfold State.capPlace at h
  split at h
  · cases h
  · dsimp only at h
    split at h
    · split at h <;> cases h
      rfl
    · cases h

theorem State.Finds.onlyMisses {s s1 : State} {t : StreamId} {a : Word} {pl : Place} (h : s.Finds t a pl s1) : OnlyMisses s s1 := by
  rw [capPlace_ok h.place]
  exact onlyMisses_touchPage s t.core a

/-! ### What reads the same after it -/

theorem State.walkFrom_congr {s s' : State} (h : s'.mem = s.mem) (va : Word) (fetch : Bool) :
    ∀ (ls : List (Nat × Nat × Nat)) (table : Nat), s'.walkFrom va fetch ls table = s.walkFrom va fetch ls table
  | [], _ => rfl
  | (lo, n, allowed) :: ls, table => by
    simp only [State.walkFrom, State.entryAt, h, State.walkFrom_congr h va fetch ls]

namespace OnlyMisses
variable {s s' : State} (h : OnlyMisses s s')
include h

theorem mem : s'.mem = s.mem := (congrArg State.mem h.rest :)
theorem halves : s'.halves = s.halves := (congrArg State.halves h.rest :)
theorem mesh : s'.mesh = s.mesh := (congrArg State.mesh h.rest :)
theorem weltOut : s'.weltOut = s.weltOut := (congrArg State.weltOut h.rest :)
theorem region (k : Nat) : s'.region k = s.region k := (congrArg (State.region · k) h.rest :)
theorem ctx (tag c : Nat) : s'.ctx tag c = s.ctx tag c := (congrArg (State.ctx · tag c) h.rest :)
theorem isOwn (m : BitVec 13) : s'.isOwn m = s.isOwn m := (congrArg (State.isOwn · m) h.rest :)
theorem tag (p : Nat) : (s'.core p).tag = (s.core p).tag := (congrArg Core.tag (h.cores p) :)
theorem coreCtx (p : Nat) : (s'.core p).ctx = (s.core p).ctx := (congrArg Core.ctx (h.cores p) :)
theorem lcore (p : Nat) : (s'.core p).lcore = (s.core p).lcore := (congrArg Core.lcore (h.cores p) :)
theorem holds (p : Nat) (r : Region) : (s'.core p).holds r = (s.core p).holds r := (congrArg (Core.holds · r) (h.cores p) :)
theorem reqs (p : Nat) : (s'.core p).reqs = (s.core p).reqs := (congrArg Core.reqs (h.cores p) :)
theorem sbuf (p : Nat) : (s'.core p).sbuf = (s.core p).sbuf := (congrArg Core.sbuf (h.cores p) :)
theorem slot (t : StreamId) : s'.slot t = s.slot t := (congrArg (Core.slot · t.slot) (h.cores t.core) :)
theorem strm (t : StreamId) : s'.strm t = s.strm t := (congrArg (Slot.strm · t.acc) (h.slot t) :)
theorem reg (t : StreamId) (r : BitVec 6) : s'.reg t r = s.reg t r := (congrArg (Slot.reg · r) (h.slot t) :)

theorem lct (p n : Nat) : s'.lct p n = s.lct p n := by
  have base : (s'.core p).lctBase = (s.core p).lctBase := (congrArg Core.lctBase (h.cores p) :)
  have count : (s'.core p).nCores = (s.core p).nCores := (congrArg Core.nCores (h.cores p) :)
  unfold State.lct
  dsimp only
  rw [base, count, h.mem]

theorem checkTarget (t : StreamId) (w : Word) : s'.checkTarget t w = s.checkTarget t w := by
  simp only [State.checkTarget, h.strm, h.isOwn, h.lct]

theorem engineSpace (p : Nat) (a : Word) : s'.engineSpace p a = s.engineSpace p a := by
  simp only [State.engineSpace, State.space, h.isOwn]

theorem walk (tag : BitVec 6) (c : BitVec 3) (va : Word) (fetch : Bool) : s'.walk tag c va fetch = s.walk tag c va fetch := by
  simp only [State.walk, h.ctx, State.walkFrom_congr h.mem]

theorem placeOf (p : Nat) (sp : Space) : s'.placeOf p sp = s.placeOf p sp := by
  have leaf : s'.leafPlace = s.leafPlace := by
    funext va l
    simp only [State.leafPlace, h.isOwn]
  cases sp <;> simp only [State.placeOf, State.vaultPlace, State.vaultRecord, leaf, h.region, h.tag, h.coreCtx, h.walk]

theorem inRegion (p key : Nat) : s'.inRegion p key = s.inRegion p key := by
  funext a
  simp only [State.inRegion, State.isDev, State.devPlace, State.spacePlace, h.engineSpace, h.placeOf]

theorem regionDrained (p key : Nat) : s'.regionDrained p key = s.regionDrained p key := by
  have requests : s'.reqWrites p key = s.reqWrites p key := by
    funext r
    simp only [State.reqWrites, h.inRegion]
  have tasks : s'.taskWrites p key = s.taskWrites p key := by
    funext r
    simp only [State.taskWrites, h.inRegion]
  simp only [State.regionDrained, State.enginesDrained, requests, tasks, h.sbuf, h.reqs, h.halves]

end OnlyMisses

/-! ### A region at its home -/

theorem Core.inState_iff (c : Core) (r : Region) (st : RState) : c.inState r st = true ↔ r.st = st ∧ c.holds r = true := by
  simp only [Core.inState, Bool.and_eq_true, beq_iff_eq]

theorem State.notPure_of_pureOf_eq_none {s : State} {t : StreamId} (h : s.pureOf t = none) (a : Word) : s.notPure t a = .ok () := by
  simp [State.notPure, h]

theorem State.supervisor_of_user {s : State} {t : StreamId} (h : (s.strm t).pl = 0) : s.supervisor t = trap 0x0D := if_pos h
theorem State.supervisor_of_ne_user {s : State} {t : StreamId} (h : (s.strm t).pl ≠ 0) : s.supervisor t = .ok () := if_neg h

section
variable {pl : Place} (h : pl.module = 0x1FFF)
include h

theorem grantKey_own : grantKey pl = pl.rkey := if_pos h

theorem State.capAway_own (s : State) (t : StreamId) (i : Instr) (f : FmtA) (after : List Word → State → State) (here : State → Run State) :
    s.capAway t i f pl after here = here s := if_pos h

theorem State.leaves_own (s : State) (t : StreamId) (here : State → Run State) : s.leaves t pl here = here (s.ungrant t.core pl.rkey) := by
  simp [State.leaves, grantKey_own h, h]
end

/-! ### The bodies of HAND and HAND.init -/

/-- HAND's wait for the home (R211). -/
def State.handing (s : State) (t : StreamId) (f : FmtA) (key : Nat) (r : Region) : State :=
  ((s.ungrant t.core key).setRegion key { r with st := .handing }).await t .hand (.hand f) none

/-- The record of a region that HAND.init has given to the holder that `w` names (R212). -/
def State.claimed (s : State) (p : Nat) (size : BitVec 2) (w : Word) : Region :=
  Region.heldBy { Region.reset with size := size, tag := (s.core p).tag, ctx := (s.core p).ctx } s w

section
variable {s s1 : State} {t : StreamId} {g : FmtA} {pl : Place} (found : s.Finds t (s.reg t g.a) pl s1) (notPure : s.pureOf t = none)
  (target : s.checkTarget t (s.reg t g.b) = .ok ())
include found notPure target

/-- HAND at a region of this module refuses, only sends its message, or starts to wait (R211). -/
theorem handBody_of_finds : handBody t g s =
    if (s.core t.core).inState (s.region pl.rkey) .priv = false then setD s1 t g 0x04
    else if s.isOwn (tgtModule (s.reg t g.b)) = true ∧ tgtCore (s.reg t g.b) = (s.core t.core).lcore then setD (s1.handover t g pl) t g 0
    else .error (.hold (s1.handing t g pl.rkey (s.region pl.rkey))) := by
  have same := found.onlyMisses
  have inState : (s1.core t.core).inState (s.region pl.rkey) .priv = (s.core t.core).inState (s.region pl.rkey) .priv := by
    simp only [Core.inState, same.holds]
  simp only [handBody, State.notPure_of_pureOf_eq_none notPure, found.place, same.checkTarget, target, bind, Except.bind, found.own, same.region,
    inState, same.isOwn, same.lcore, State.leaves_own found.own, State.capAway_own found.own, State.handing,
    decide_true, Bool.true_and, Bool.not_eq_true', Bool.and_eq_true, beq_iff_eq]

/-- HAND.init at a region of this module refuses, or makes it Private to the holder (R212). -/
theorem handInitBody_of_finds (supervisor : (s.strm t).pl ≠ 0) : handInitBody t g s =
    if (s.region pl.rkey).st = .unclaimed then setD (s1.setRegion pl.rkey (s.claimed t.core pl.size (s.reg t g.b))) t g 0
    else setD s1 t g 0x04 := by
  have same := found.onlyMisses
  simp only [handInitBody, State.supervisor_of_ne_user supervisor, State.notPure_of_pureOf_eq_none notPure, found.place, same.checkTarget, target,
    bind, Except.bind, State.capAway_own found.own, same.region, same.tag, same.coreCtx, Region.heldBy, same.isOwn, State.claimed, ite_not]
end

/-! ### The dirty log leaves every record but for the mark (R222) -/

theorem State.setVaWord_regions (s : State) (tag : BitVec 6) (c : BitVec 3) (va x : Word) : (s.setVaWord tag c va x).regions = s.regions := by
  unfold State.setVaWord
  split
  · dsimp only
    split <;> rfl
  · rfl

theorem State.vaUsed_regions (s : State) (tag : BitVec 6) (c : BitVec 3) (va : Word) : (s.vaUsed tag c va).regions = s.regions := by
  unfold State.vaUsed
  split <;> rfl

theorem State.dirty_regions (s : State) (tag : BitVec 6) (c : BitVec 3) (key : Nat) (va : Word) :
    (s.dirty tag c key va).regions = s.regions ∨
    (s.dirty tag c key va).regions = (s.modRegion key fun r => { r with dirty := true }).regions := by
  unfold State.dirty
  dsimp only
  split
  · exact .inl rfl
  · split
    · exact .inl rfl
    · split
      · exact .inl (State.vaUsed_regions ..)
      · simp only [State.setVaWord_regions, State.modRegion, State.setRegion, State.region, State.vaUsed_regions, or_true]

theorem State.region_dirty_same (s : State) (tag : BitVec 6) (c : BitVec 3) (key : Nat) (va : Word) (b : Bool) :
    { (s.dirty tag c key va).region key with dirty := b } = { s.region key with dirty := b } := by
  obtain h | h := s.dirty_regions tag c key va
  · simp only [State.region, h]
  · rw [State.region, h]
    simp [State.modRegion, State.setRegion]

theorem State.region_dirty_ne (s : State) (tag : BitVec 6) (c : BitVec 3) {key k : Nat} (va : Word) (ne : k ≠ key) :
    (s.dirty tag c key va).region k = s.region k := by
  obtain h | h := s.dirty_regions tag c key va
  · simp only [State.region, h]
  · rw [State.region, h]
    exact s.region_setRegion_ne _ ne

/-! ### The home's step that completes HAND (R211) -/

/-- The home has made the region the new holder's and has logged the write (R211, R222). -/
def State.flipped (s : State) (t : StreamId) (pl : Place) (w : Word) : State :=
  let s' := s.modRegion pl.rkey fun r => r.heldBy s w
  s'.dirty (s'.core t.core).tag (s'.core t.core).ctx pl.rkey pl.va

theorem State.region_flipped_same (s : State) (t : StreamId) (pl : Place) (w : Word) (b : Bool) :
    { (s.flipped t pl w).region pl.rkey with dirty := b } = { (s.region pl.rkey).heldBy s w with dirty := b } := by
  rw [State.flipped, State.region_dirty_same, State.modRegion, State.region_setRegion_same]

theorem State.region_flipped_ne (s : State) (t : StreamId) (pl : Place) (w : Word) {k : Nat} (ne : k ≠ pl.rkey) :
    (s.flipped t pl w).region k = s.region k := by
  rw [State.flipped, State.region_dirty_ne _ _ _ _ ne, State.modRegion, State.region_setRegion_ne _ _ ne]

/-- HAND waits on while the holder's writes drain; then the region flips and the message leaves (R211). -/
theorem execHandFlip_of_finds {s s1 : State} {t : StreamId} {g : FmtA} {pl : Place} (found : s.Finds t (s.reg t g.a) pl s1)
    (waits : ∃ dl a l, (s.strm t).pend = some ⟨.hand, .hand g, dl, a, l⟩) : execHandFlip t s =
      if s.regionDrained t.core pl.rkey = false then .next s1
      else .next ((((s1.flipped t pl (s.reg t g.b)).handover t g pl).setReg t g.d 0).retire t) := by
  obtain ⟨dl, a, l, pend⟩ := waits
  have same := found.onlyMisses
  simp only [execHandFlip, pend, found.place, same.regionDrained, same.reg, State.flipped, Bool.not_eq_true', setD, finish_ok]

/-! ### The instructions and the step -/

theorem exec_hand_of_issues {s : State} {t : StreamId} {f g : FmtA} (issues : s.IssuesA t (entMem 0x68 usedDabc none) anyFields f g) :
    exec (.hand f) s = .next (s.finish t (handBody t g s)) := issueA_issues issues handBody

theorem exec_handInit_of_issues {s : State} {t : StreamId} {f g : FmtA} (issues : s.IssuesA t (entMem 0x68 usedDab none) anyFields f g) :
    exec (.handInit f) s = .next (s.finish t (handInitBody t g s)) := issueA_issues issues handInitBody

theorem exec_handFlip (s : State) (t : StreamId) : exec (.handFlip t) s = execHandFlip t s := rfl

/-- Settles O50: HAND and HAND.init run their bodies once at the region that the address names, whose search changes no more than
translation caches and counters; and the home's step changes no record but the region's. -/
theorem handoverMovesTheCapability : Obligations.HandoverMovesTheCapability := by
  intro s s1 t f g pl found notPure
  have same := found.onlyMisses
  refine ⟨fun issues target => ?hand, fun waits => ?flip, fun issues supervisor target => ?init, fun issues user => ?user⟩
  case hand =>
    rw [exec_hand_of_issues issues, handBody_of_finds found notPure target]
    simp only [← Core.inState_iff, Bool.not_eq_true]
    refine ⟨fun refused => ?_, fun owned own self => ?_, fun owned other => ?_⟩
    · rw [if_pos refused, setD, finish_ok]
    · rw [if_neg (by simp [owned]), if_pos ⟨own, self⟩, setD, finish_ok]
    · have notSelf : ¬(s.isOwn (tgtModule (s.reg t g.b)) = true ∧ tgtCore (s.reg t g.b) = (s.core t.core).lcore) := by
        rintro ⟨own, self⟩
        exact other.elim (by simp [own]) (· self)
      rw [if_neg (by simp [owned]), if_neg notSelf, finish_hold, State.handing]
  case flip =>
    rw [exec_handFlip, execHandFlip_of_finds found waits]
    refine ⟨fun busy => if_pos busy, fun drained => ⟨s1.flipped t pl (s.reg t g.b), if_neg (by simp [drained]), ?_, fun k ne => ?_⟩⟩
    · rw [State.region_flipped_same, same.region, Region.heldBy, same.isOwn]
    · rw [State.region_flipped_ne _ _ _ _ ne, same.region]
  case init =>
    rw [exec_handInit_of_issues issues, handInitBody_of_finds found notPure target supervisor]
    refine ⟨fun taken => by rw [if_neg taken, setD, finish_ok], fun unclaimed => ?_⟩
    refine ⟨s1.setRegion pl.rkey (s.claimed t.core pl.size (s.reg t g.b)), by rw [if_pos unclaimed, setD, finish_ok], fun a => ?_, ?_⟩
    · rw [State.setRegion_mem, same.mem]
    · rw [State.region_setRegion_same]
      refine ⟨rfl, rfl, rfl, rfl, rfl, fun k ne => ?_, same.mesh, same.weltOut⟩
      rw [State.region_setRegion_ne _ _ ne, same.region]
  case user =>
    rw [exec_handInit_of_issues issues, handInitBody, State.supervisor_of_user user]
    exact congrArg Host.Outcome.next (finish_trap s t 0x0D none)

end Sys2Proof.Machine
end

section
/-!
PROOF. Fences and their trackers, the answers of other modules and of page walks, and the block counters (R186, R200 to R204, R229 to
R233, R405, R406).
-/
namespace Sys2Proof.Machine

/-! ### Streams and their waits -/

theorem State.strm_modStrm_ne (s : State) {t u : StreamId} (f : Strm → Strm) (bound : t.slot < 5) (ne : t ≠ u) :
    (s.modStrm u f).strm t = s.strm t := by
  obtain ⟨p, k, acc⟩ := t
  obtain ⟨q, j, acc'⟩ := u
  by_cases same : p = q ∧ k = j
  · obtain ⟨rfl, rfl⟩ := same
    obtain rfl : acc = !acc' := Bool.eq_not.mpr fun same => ne (same ▸ rfl)
    have slot := s.slot_setSlot_same (t := ⟨p, k, acc'⟩) ((s.slot ⟨p, k, acc'⟩).setStrm acc' (f (s.strm ⟨p, k, acc'⟩))) bound
    exact (congrArg (Slot.strm · (!acc')) slot).trans (Slot.strm_setStrm_other ..)
  · rw [State.modStrm, State.setStrm, State.strm, State.slot_setSlot_ne _ _ (Decidable.not_and_iff_not_or_not.mp same)]
    rfl

/-- Only a stream of a slot that exists waits. -/
theorem State.slot_lt_of_pend {s : State} {t : StreamId} {w : Wait} (waits : (s.strm t).pend = some w) : t.slot < 5 := by
  refine Decidable.byContradiction fun out => ?_
  have absent : s.slot t = Slot.reset := dif_neg out
  rw [State.strm, absent] at waits
  cases acc : t.acc <;> rw [acc] at waits <;> cases waits

theorem State.reg_modStrm (s : State) {t : StreamId} (f : Strm → Strm) (r : BitVec 6) (bound : t.slot < 5) :
    (s.modStrm t f).reg t r = s.reg t r := by
  rw [State.modStrm, State.setStrm, State.reg, State.slot_setSlot_same _ _ bound, Slot.reg, Slot.setStrm_s]
  rfl

/-! ### The token (R231) -/

theorem toNat_append_eq {n m : Nat} (x : BitVec n) (y : BitVec m) : (x ++ y).toNat = x.toNat * 2 ^ m + y.toNat := by
  rw [BitVec.toNat_append, ← Nat.shiftLeft_add_eq_or_of_lt y.isLt, Nat.shiftLeft_eq]

theorem fenceToken_eq (k : Nat) (m : BitVec 7) (n : BitVec 16) :
    fenceToken k m n = BitVec.ofNat 64 (2 * 2 ^ 60 + k % 8 * 2 ^ 23 + m.toNat * 2 ^ 16 + n.toNat) := by
  have slot : k % 8 < 8 := Nat.mod_lt _ (by decide)
  have mask := m.isLt
  have number := n.isLt
  apply BitVec.eq_of_toNat_eq
  simp only [fenceToken, toNat_append_eq, BitVec.toNat_ofNat]
  omega

theorem tokenOk_iff (w : Word) : tokenOk w = true ↔ w.toNat / 2 ^ 60 = 2 ∧ w.toNat / 2 ^ 26 % 2 ^ 34 = 0 := by
  have small : w.toNat / 2 ^ 60 % 2 ^ 4 = w.toNat / 2 ^ 60 := Nat.mod_eq_of_lt (by have := w.isLt; omega)
  rw [tokenOk, Bool.and_eq_true, beq_iff_eq, beq_iff_eq, ← BitVec.toNat_inj, ← BitVec.toNat_inj, BitVec.extractLsb'_toNat,
    BitVec.extractLsb'_toNat, Nat.shiftRight_eq_div_pow, Nat.shiftRight_eq_div_pow, small]
  rfl

theorem not_tokenOk_iff (w : Word) : (!tokenOk w) = true ↔ w.toNat / 2 ^ 60 ≠ 2 ∨ w.toNat / 2 ^ 26 % 2 ^ 34 ≠ 0 := by
  rw [Bool.not_eq_true', ← Bool.not_eq_true, tokenOk_iff, Decidable.not_and_iff_not_or_not]

theorem State.fenceDone_iff (s : State) (p : Nat) (w : Word) : s.fenceDone p w = true ↔
    ¬((s.openTrackers p (w.toNat / 2 ^ 23 % 8)).any fun x => x.seq == BitVec.ofNat 16 w.toNat) = true := by
  have slot : (w.extractLsb' 23 3).toNat = w.toNat / 2 ^ 23 % 8 := by
    rw [BitVec.extractLsb'_toNat, Nat.shiftRight_eq_div_pow]
  have number : w.extractLsb' 0 16 = BitVec.ofNat 16 w.toNat := by
    rw [BitVec.extractLsb', Nat.shiftRight_zero]
  rw [State.fenceDone, slot, number, Bool.not_eq_true', ← Bool.not_eq_true]

/-! ### FENCE (R230, R232) -/

theorem Core.foldl_bbcSend_slots : ∀ (es : List (Nat × Nat)) (c : Core), (es.foldl Core.bbcSend c).slots = c.slots
  | [], _ => rfl
  | e :: es, c => Core.foldl_bbcSend_slots es (c.bbcSend e)

theorem Core.bbcFlush_slot (c : Core) (k : Nat) : c.bbcFlush.slot k = c.slot k := by
  rw [Core.slot, Core.slot, ← Core.foldl_bbcSend_slots c.bbc c]
  rfl

theorem State.trackerDone_modSlot (s : State) (t : StreamId) (f : Slot → Slot) (p : Nat) (x : Tracker) :
    (s.modSlot t f).trackerDone p x = s.trackerDone p x := by
  by_cases same : p = t.core
  · subst same
    simp only [State.trackerDone, State.modSlot, State.setSlot, State.core_setCore_same]
    rfl
  · simp only [State.trackerDone, State.modSlot, State.setSlot, State.core_setCore_ne _ _ same]
    rfl

/-- The block counters have left their cache. -/
def State.flushed (s : State) (p : Nat) : State := s.modCore p Core.bbcFlush

theorem State.slot_flushed (s : State) (t : StreamId) : (s.flushed t.core).slot t = s.slot t := by
  rw [State.slot, State.flushed, State.core_modCore_same, Core.bbcFlush_slot]
  rfl

/-- The tracker of a FENCE: the covered work that is outstanding once the block counters have left their cache. -/
def State.fenceTracker (s : State) (t : StreamId) (m : BitVec 7) : Tracker := (s.flushed t.core).cover t.core t.slot m

theorem State.fenceTracker_seq (s : State) (t : StreamId) (m : BitVec 7) : (s.fenceTracker t m).seq = (s.slot t).fenceNo := by
  rw [← s.slot_flushed t]; rfl
theorem State.fenceTracker_fseq (s : State) (t : StreamId) (m : BitVec 7) : (s.fenceTracker t m).fseq = (s.slot t).fseq := by
  rw [← s.slot_flushed t]; rfl

/-- A FENCE has taken its number, and its tracker where covered work is outstanding. -/
def State.fenced (s : State) (t : StreamId) (m : BitVec 7) : State :=
  let u := (s.flushed t.core).modSlot t fun sl => { sl with fenceNo := sl.fenceNo + 1 }
  let inUse := u.openTrackers t.core t.slot
  u.modSlot t fun sl =>
    { sl with trackers := if u.trackerDone t.core (s.fenceTracker t m) then inUse else inUse ++ [s.fenceTracker t m] }

theorem State.trackerDone_fenced (s : State) (t : StreamId) (m : BitVec 7) (p : Nat) (x : Tracker) :
    (s.fenced t m).trackerDone p x = (s.flushed t.core).trackerDone p x := by
  simp only [State.fenced, State.trackerDone_modSlot]

theorem State.core_fenced_bbc (s : State) (t : StreamId) (m : BitVec 7) : ((s.fenced t m).core t.core).bbc = [] := by
  simp only [State.fenced, State.flushed, State.modSlot, State.setSlot, State.core_setCore_same, State.core_modCore_same, Core.setSlot,
    Core.bbcFlush]

theorem State.openTrackers_eq (s : State) (t : StreamId) :
    s.openTrackers t.core t.slot = (s.slot t).trackers.filter fun y => !s.trackerDone t.core y := rfl

theorem State.slot_fenced (s : State) {t : StreamId} (m : BitVec 7) (bound : t.slot < 5) :
    let s' := s.fenced t m
    let inUse := (s.slot t).trackers.filter fun y => !s'.trackerDone t.core y
    s'.slot t = { s.slot t with
      fenceNo := (s.slot t).fenceNo + 1
      trackers := if s'.trackerDone t.core (s.fenceTracker t m) then inUse else inUse ++ [s.fenceTracker t m] } := by
  simp only [State.trackerDone_fenced]
  simp only [State.fenced, State.openTrackers_eq, State.slot_modSlot_same _ _ bound, State.trackerDone_modSlot, State.slot_flushed]

/-- FENCE waits while eight trackers are in use, and otherwise completes with its token (R231, R232). -/
theorem exec_fence_of_issues {s : State} {t : StreamId} {f g : FmtA} (issues : s.IssuesA t (entMem 0x6E usedD none) anyFields f g) :
    exec (.fence f) s = .next (if 8 ≤ (s.openTrackers t.core t.slot).length then s
      else ((s.fenced t (g.imm.extractLsb' 0 7)).setReg t g.d
        (fenceToken t.slot (g.imm.extractLsb' 0 7) (s.slot t).fenceNo)).retire t) := by
  refine (issueA_issues issues _).trans (congrArg Host.Outcome.next ?_)
  dsimp only
  split
  · rfl
  · rw [← s.fenceTracker_seq t (g.imm.extractLsb' 0 7)]
    rfl

/-! ### FTEST, and the event of a tracker (R232, R233) -/

theorem exec_ftest_of_issues {s : State} {t : StreamId} {f g : FmtA} (issues : s.IssuesA t (entMem 0x6F usedDa none) anyFields f g) :
    exec (.ftest f) s = .next ((s.setReg t g.d
      (if !tokenOk (s.reg t g.a) then 0x08 else if s.fenceDone t.core (s.reg t g.a) then 1 else 0)).retire t) := issueA_issues issues _

theorem exec_ftestAll_of_issues {s : State} {t : StreamId} {f g : FmtA} (issues : s.IssuesA t (entMem 0x6F usedD none) anyFields f g) :
    exec (.ftestAll f) s = .next ((s.setReg t g.d (if (s.openTrackers t.core t.slot).isEmpty then 1 else 0)).retire t) :=
  issueA_issues issues _

theorem State.modSlot_congr (s : State) (t : StreamId) {f f' : Slot → Slot} (h : f (s.slot t) = f' (s.slot t)) :
    s.modSlot t f = s.modSlot t f' := by
  rw [State.modSlot, State.modSlot, h]

theorem exec_fenceTrackerComplete {s : State} {p k : Nat} {x : Tracker} {xs ys : List Tracker}
    (listed : ((s.core p).slot k).trackers = xs ++ x :: ys) (first : ∀ y ∈ xs, y.seq ≠ x.seq) (last : x ∉ ys) :
    exec (.fenceTrackerComplete p k x.seq) s =
      .next (if s.trackerDone p x then s.modSlot ⟨p, k, false⟩ fun sl => { sl with trackers := xs ++ ys } else s) := by
  have here : (s.slot ⟨p, k, false⟩).trackers = xs ++ x :: ys := listed
  have found : (xs ++ x :: ys).find? (fun y => y.seq == x.seq) = some x := by
    rw [List.find?_append, List.find?_eq_none.mpr fun y hy => by simpa using first y hy]
    simp
  have rest : (xs ++ x :: ys).filter (· != x) = xs ++ ys := by
    have keepX : xs.filter (· != x) = xs := List.filter_eq_self.mpr fun y hy => by
      simpa using fun e : y = x => first y hy (congrArg Tracker.seq e)
    have keepY : ys.filter (· != x) = ys := List.filter_eq_self.mpr fun y hy => by
      simpa using fun e : y = x => last (e ▸ hy)
    simp [keepX, keepY]
  have shorter : (s.modSlot ⟨p, k, false⟩ fun sl => { sl with trackers := sl.trackers.filter (· != x) }) =
      s.modSlot ⟨p, k, false⟩ fun sl => { sl with trackers := xs ++ ys } := s.modSlot_congr _ (by rw [here, rest])
  change execFenceTrackerComplete p k x.seq s = _
  simp only [execFenceTrackerComplete, here, found, shorter]

/-! ### The answer to an LD at another core's local memory (R186, R204) -/

/-- A stream that waits has its answer. -/
def State.heard (s : State) (t : StreamId) (w : Wait) (r : RemoteReply) : State :=
  s.modStrm t fun st => { st with pend := some { w with reply := some r } }

theorem State.inTime_of_le {s : State} {dl : Option Word} (h : ∀ d, dl = some d → s.time.toNat ≤ d.toNat) : s.inTime dl = true := by
  cases dl with
  | none => rfl
  | some d => simpa [State.inTime, BitVec.ult] using h d rfl

theorem exec_remoteAnswer_ld {s : State} {t : StreamId} {g : FmtA} {dl line : Option Word} {a : Option RemoteReply} {r : RemoteReply}
    (waits : (s.strm t).pend = some ⟨.remote, .ld g, dl, a, line⟩) (inTime : s.inTime dl = true) (fits : replyFits (.ld g) r = true) :
    exec (.remoteAccessAnswer t r) s = .next ((s.heard t ⟨.remote, .ld g, dl, a, line⟩ r).finish t
      (ldBody t g (s.heard t ⟨.remote, .ld g, dl, a, line⟩ r))) := by
  change execRemoteAccessAnswer t r s = _
  simp only [execRemoteAccessAnswer, waits, inTime, fits, Bool.and_self, if_true]
  rfl

theorem exec_remoteTimeout_ld {s : State} {t : StreamId} {g : FmtA} {dl : Word} {line : Option Word} {a : Option RemoteReply}
    (waits : (s.strm t).pend = some ⟨.remote, .ld g, some dl, a, line⟩) :
    exec (.remoteAccessTimeout t) s = .next (if dl.toNat ≤ s.time.toNat then s.precise t 0x04 line else s) := by
  change execRemoteAccessTimeout t s = _
  simp only [execRemoteAccessTimeout, waits, BitVec.ule, decide_eq_true_eq]

theorem memTy_eq (g : FmtA) : memTy g = BitVec.ofNat 4 (g.fn.toNat % 16) := by
  apply BitVec.eq_of_toNat_eq
  rw [memTy, BitVec.extractLsb'_toNat, BitVec.toNat_ofNat, Nat.shiftRight_zero, Nat.mod_mod]

theorem memBytes_eq_accessBytes (g : FmtA) : memBytes g = accessBytes g := by
  rw [memBytes, memTy_eq]
  rfl

theorem snapPatch_lt : ∀ (bs : List Nat) (x : Nat), snapPatch bs x < 256 ^ bs.length
  | [], _ => Nat.one_pos
  | b :: bs, x => by
    have rest := snapPatch_lt bs (x / 256)
    have byte : (if b < 256 then b else x % 256) < 256 := by split <;> omega
    rw [snapPatch, List.length_cons, Nat.pow_succ]
    omega

/-- Sign extension as a subtraction. -/
theorem signExtend_ofNat {w x : Nat} (pos : 0 < w) (small : x < 2 ^ w) : (BitVec.ofNat w x).signExtend 64 =
    if 2 ^ (w - 1) ≤ x then BitVec.ofInt 64 ((x : Int) - 2 ^ w) else BitVec.ofNat 64 x := by
  have half : 2 ^ w = 2 * 2 ^ (w - 1) := by rw [← Nat.pow_succ', Nat.succ_eq_add_one, Nat.sub_add_cancel pos]
  rw [BitVec.signExtend, BitVec.toInt_eq_toNat_cond, BitVec.toNat_ofNat, Nat.mod_eq_of_lt small]
  by_cases high : 2 ^ (w - 1) ≤ x
  · rw [if_pos high, if_neg (by omega)]
    norm_cast
  · rw [if_neg high, if_pos (by omega)]
    rfl

theorem extend_eq_loaded {g : FmtA} {x : Nat} (small : x < 256 ^ accessBytes g) : extend (memTy g) x = loaded g x := by
  have low : g.fn.toNat % 16 < 16 := Nat.mod_lt _ (by decide)
  rw [accessBytes] at small
  rw [memTy_eq, extend, loaded, accessBytes]
  generalize g.fn.toNat % 16 = c at *
  have signed : ((1#4).ule (BitVec.ofNat 4 c) && (BitVec.ofNat 4 c).ule 4) = decide (1 ≤ c ∧ c ≤ 4) := by
    have code : (BitVec.ofNat 4 c).toNat = c := by rw [BitVec.toNat_ofNat, Nat.mod_eq_of_lt low]
    rw [BitVec.ule, BitVec.ule, code, ← Bool.decide_and]
    rfl
  rw [signed]
  by_cases h : 1 ≤ c ∧ c ≤ 4
  · have bytes : 8 * (tyW c / 8) = tyW c := by
      obtain rfl | rfl | rfl | rfl : c = 1 ∨ c = 2 ∨ c = 3 ∨ c = 4 := by omega
      all_goals rfl
    have bound : x < 2 ^ tyW c := by rw [← bytes, Nat.pow_mul]; exact small
    rw [if_pos h, bytes, signExtend_ofNat (tyW_pos c) bound]
    simp only [h, and_self, decide_true, Bool.true_and, decide_eq_true_eq]
    rfl
  · simp only [h, decide_false, Bool.false_and, Bool.false_eq_true, if_false]

theorem State.memOperand_of_tag {s : State} {t : StreamId} {g : FmtA} (tag : addrTag (s.memEa t g) = addrTag (s.reg t g.a)) :
    s.memOperand t g = .ok (s.memEa t g) := by
  have sum : memSum (s.reg t g.a) (s.reg t g.b) (g.md.extractLsb' 0 3).toNat g.imm = s.memEa t g := by
    rw [memSum, State.memEa, BitVec.extractLsb'_toNat, Nat.shiftRight_zero]
    rfl
  simp only [State.memOperand, sum, tag, bne_self_eq_false, Bool.false_eq_true, if_false]

/-- Where local memory of a core of another module passes the issue checks (R103, R187). -/
theorem State.scalarSpace_away {s : State} {t : StreamId} {ea : Word} {n y off : Nat} {m : BitVec 13} (w64 : Bool)
    (space : s.space t.core ea = some (.away m y 0 off)) (align : ea.toNat % n = 0) (bound : off + n ≤ localSize) :
    s.scalarSpace t ea n w64 false = .ok (.away m y 0 off) := by
  have inside : boundsCause (.away m y 0 off) n = none := if_pos bound
  have notCtl : (Space.away m y 0 off).isCtl = false := rfl
  rw [State.scalarSpace, space]
  simp only [inside, notCtl, align, Bool.false_and, Bool.false_eq_true, if_false, ne_eq, not_true_eq_false]
  rfl

/-- The memory operand of an LD names local memory of another module's core, and passes the issue checks. -/
structure State.LdAway (s : State) (t : StreamId) (g : FmtA) (m : BitVec 13) (y off : Nat) : Prop where
  tag : addrTag (s.memEa t g) = addrTag (s.reg t g.a)
  space : s.space t.core (s.memEa t g) = some (.away m y 0 off)
  align : (s.memEa t g).toNat % accessBytes g = 0
  bound : off + accessBytes g ≤ localSize

section
variable {s : State} {t : StreamId} {g : FmtA} {m : BitVec 13} {y off : Nat}

/-- Such an LD goes on with the answer of the other module. -/
theorem ldBody_away (away : s.LdAway t g m y off) : ldBody t g s = (do
    let ws ← s.atModule t (.ld g) m (s.memEa t g) (List.replicate (accessBytes g) 256)
    setD s t g (extend (memTy g) (snapPatch (s.strm t).snap (wordsNat ws)))) := by
  obtain ⟨tag, space, align, bound⟩ := away
  have notVault : ¬(0 : BitVec 2) = 1 := by decide
  simp only [ldBody, State.memOperand_of_tag tag, memBytes_eq_accessBytes, bind, Except.bind, State.scalarSpace_away _ space align bound,
    State.loadNat, notVault, if_false]
  cases s.atModule t (.ld g) m (s.memEa t g) (List.replicate (accessBytes g) 256) <;> rfl

theorem ldBody_of_data (away : s.LdAway t g m y off) {ws : List Word} (answer : s.answer t = some (.data ws))
    (snap : (s.strm t).snap.length = accessBytes g) :
    ldBody t g s = .ok (s.setReg t g.d (loaded g (snapPatch (s.strm t).snap (wordsNat ws)))) := by
  rw [ldBody_away away, State.atModule, answer, ← extend_eq_loaded (snap ▸ snapPatch_lt _ _)]
  rfl

theorem ldBody_of_refused (away : s.LdAway t g m y off) {cause : Byte} (answer : s.answer t = some (.refused cause)) :
    ldBody t g s = .error (.trap cause (some (s.memEa t g))) := by
  rw [ldBody_away away, State.atModule, answer]
  rfl
end

section
variable (s : State) {t : StreamId} (w : Wait) (r : RemoteReply) (bound : t.slot < 5)
include bound

theorem State.strm_heard : (s.heard t w r).strm t = { s.strm t with pend := some { w with reply := some r } } :=
  s.strm_modStrm_same _ bound

theorem State.answer_heard (remote : w.kind = .remote) : (s.heard t w r).answer t = some r := by
  rw [State.answer, s.strm_heard w r bound]
  exact if_pos remote

theorem State.memEa_heard (g : FmtA) : (s.heard t w r).memEa t g = s.memEa t g := by
  simp only [State.memEa, State.heard, s.reg_modStrm _ _ bound]

theorem State.LdAway.heard {g : FmtA} {m : BitVec 13} {y off : Nat} (away : s.LdAway t g m y off) :
    (s.heard t w r).LdAway t g m y off where
  tag := by rw [s.memEa_heard w r bound, State.heard, s.reg_modStrm _ _ bound]; exact away.tag
  space := by rw [s.memEa_heard w r bound]; exact away.space
  align := by rw [s.memEa_heard w r bound]; exact away.align
  bound := away.bound
end

section
variable {s : State} {t : StreamId} {g : FmtA} {dl line : Option Word} {a : Option RemoteReply} {m : BitVec 13} {y off : Nat}
  (waits : (s.strm t).pend = some ⟨.remote, .ld g, dl, a, line⟩) (inTime : s.inTime dl = true) (away : s.LdAway t g m y off)
include waits inTime away

theorem exec_remoteAnswer_ld_data (ws : List Word) (snap : (s.strm t).snap.length = accessBytes g) :
    exec (.remoteAccessAnswer t (.data ws)) s = .next (((s.heard t ⟨.remote, .ld g, dl, a, line⟩ (.data ws)).setReg t g.d
      (loaded g (snapPatch (s.strm t).snap (wordsNat ws)))).retire t) := by
  have slot := State.slot_lt_of_pend waits
  have stream := s.strm_heard ⟨.remote, .ld g, dl, a, line⟩ (.data ws) slot
  have body := ldBody_of_data (away.heard s ⟨.remote, .ld g, dl, a, line⟩ (.data ws) slot) (s.answer_heard _ _ slot rfl)
    (by rw [stream]; exact snap)
  rw [exec_remoteAnswer_ld waits inTime rfl, body, stream, finish_ok]

theorem exec_remoteAnswer_ld_refused {cause : Byte} (known : replyFits (.ld g) (.refused cause) = true) :
    exec (.remoteAccessAnswer t (.refused cause)) s =
      .next ((s.heard t ⟨.remote, .ld g, dl, a, line⟩ (.refused cause)).precise t cause (some (s.memEa t g))) := by
  have slot := State.slot_lt_of_pend waits
  have body := ldBody_of_refused (away.heard s ⟨.remote, .ld g, dl, a, line⟩ (.refused cause) slot) (s.answer_heard _ _ slot rfl)
  rw [exec_remoteAnswer_ld waits inTime known, body, finish_trap, s.memEa_heard _ _ slot]
end

/-! ### Page walks (R200, R202) -/

theorem leafOf_eq_some {va e : Word} {pte : Nat} {l : Leaf} (h : leafOf va pte e = some l) :
    l.size = e.extractLsb' 61 2 ∧ l.va = pageBase va l.size ∧ l.pte = pte := by
  unfold leafOf at h
  dsimp only at h
  split at h <;> split at h <;> cases h <;> exact ⟨rfl, rfl, rfl⟩

theorem State.entryAt_leaf {s : State} {va : Word} {table i allowed : Nat} {l : Leaf} (h : s.entryAt va table i allowed = .leaf l) :
    leafOf va l.pte (BitVec.ofNat 64 (s.mem.readNat (lpddrKey l.pte) 8)) = some l := by
  unfold State.entryAt at h
  dsimp only at h
  split at h
  · cases h
  · split at h
    · cases h
    · split at h
      · cases h
      · split at h
        next found =>
          cases h
          rw [(leafOf_eq_some found).2.2, found]
        · cases h

/-- A leaf that a walk finds is what the table's entry at its place says. -/
theorem State.walkFrom_leaf {s : State} {va : Word} {fetch : Bool} {l : Leaf} : ∀ (ls : List (Nat × Nat × Nat)) (table : Nat),
    s.walkFrom va fetch ls table = some l → leafOf va l.pte (BitVec.ofNat 64 (s.mem.readNat (lpddrKey l.pte) 8)) = some l
  | [], _, h => nomatch h
  | (lo, n, allowed) :: ls, table, h => by
    unfold State.walkFrom at h
    split at h
    · cases h
    · exact State.walkFrom_leaf ls _ h
    next found =>
      split at h <;> cases h
      exact State.entryAt_leaf found

theorem pageBase_pageBase (va : Word) (size : BitVec 2) : pageBase (pageBase va size) size = pageBase va size := by
  have bits : pageBits size ≤ 56 := by
    unfold pageBits
    split
    · decide
    · split <;> decide
  have divides : pageLen size ∣ 2 ^ 56 := Nat.pow_dvd_pow 2 bits
  obtain ⟨k, base⟩ : pageLen size ∣ va.toNat / pageLen size * pageLen size % 2 ^ 56 :=
    (Nat.dvd_mod_iff divides).mpr (Nat.dvd_mul_left _ _)
  have small : va.toNat / pageLen size * pageLen size % 2 ^ 56 < 2 ^ 56 := Nat.mod_lt _ (by decide)
  have fits : (pageBase va size).toNat = va.toNat / pageLen size * pageLen size % 2 ^ 56 := by
    rw [pageBase, BitVec.toNat_ofNat]
    exact Nat.mod_eq_of_lt (by omega)
  rw [pageBase, fits, Nat.div_mul_cancel ⟨k, base⟩, Nat.mod_mod]
  rfl

/-- A translation that has just entered the cache serves its page. -/
theorem Station.hit_insert (st : Station) {e : TlbEntry} {tag : BitVec 6} {c : BitVec 3} (va : Word)
    (serves : e.tag = tag ∧ e.ctx = c ∧ e.va = pageBase va (e.leaf.extractLsb' 61 2)) : (st.insert e).hit tag c va = some e := by
  obtain ⟨tagged, context, page⟩ := serves
  rw [Station.hit, Station.insert]
  exact List.find?_cons_of_pos (by simp [tagged, context, ← page])

theorem State.tlbOf_serves {s : State} {tag : BitVec 6} {c : BitVec 3} {va : Word} {l : Leaf} (found : s.walk tag c va false = some l) :
    (s.tlbOf tag c l).va = pageBase l.va ((s.tlbOf tag c l).leaf.extractLsb' 61 2) := by
  obtain ⟨size, base, -⟩ := leafOf_eq_some (State.walkFrom_leaf _ _ found)
  change l.va = pageBase l.va (BitVec.extractLsb' 61 2 (BitVec.ofNat 64 (s.mem.readNat (lpddrKey l.pte) 8)))
  rw [← size, base, pageBase_pageBase]

/-- A stream's wait is over. -/
def State.wake (s : State) (t : StreamId) : State := s.modStrm t fun x => { x with pend := none }

theorem State.foldl_wake_rest : ∀ (ts : List StreamId) (s : State), { ts.foldl State.wake s with cores := s.cores } = s
  | [], _ => rfl
  | t :: ts, s => congrArg (fun u : State => { u with cores := s.cores }) (State.foldl_wake_rest ts (s.wake t))

theorem State.foldl_wake_mem (ts : List StreamId) (s : State) : (ts.foldl State.wake s).mem = s.mem :=
  (congrArg State.mem (State.foldl_wake_rest ts s) :)
theorem State.station_foldl_wake (ts : List StreamId) (s : State) (n : Nat) : (ts.foldl State.wake s).station n = s.station n :=
  (congrArg (State.station · n) (State.foldl_wake_rest ts s) :)

theorem State.station_setStation_same (s : State) (n : Nat) (st : Station) : (s.setStation n st).station n = st := NMap.get_set_same _ _ _ _

theorem State.pend_foldl_wake {t : StreamId} (bound : t.slot < 5) : ∀ (ts : List StreamId) (s : State),
    t ∈ ts ∨ (s.strm t).pend = none → ((ts.foldl State.wake s).strm t).pend = none
  | [], s, h => h.resolve_left List.not_mem_nil
  | u :: ts, s, h => by
    refine State.pend_foldl_wake bound ts (s.wake u) ?_
    by_cases same : t = u
    · subst same
      exact .inr (by rw [State.wake, State.strm_modStrm_same _ _ bound])
    · rw [State.wake, State.strm_modStrm_ne _ _ bound same]
      exact h.imp_left fun mem => (List.mem_cons.mp mem).resolve_left same

theorem State.slot_lt_of_joined {s : State} {w : Walk} {t : StreamId} (h : s.joined w t = true) : t.slot < 5 := by
  cases pend : (s.strm t).pend with
  | none => simp [State.joined, pend] at h
  | some x => exact State.slot_lt_of_pend pend

section
variable {s : State} {n k : Nat} {w : Walk} (walks : ((s.station n).walks.take 32)[k]? = some w)
include walks

theorem exec_pageWalkComplete_leaf {l : Leaf} (found : s.walk w.tag w.ctx w.va false = some l) :
    exec (.pageWalkComplete ⟨n, k⟩) s = .next ((w.streams.filter (s.joined w)).foldl State.wake
      (s.setStation n ({ s.station n with walks := (s.station n).walks.eraseIdx k }.insert (s.tlbOf w.tag w.ctx l)))) := by
  change execPageWalkComplete ⟨n, k⟩ s = _
  simp only [execPageWalkComplete, walks, found]
  rfl

theorem exec_pageWalkComplete_none {t : StreamId} {x : Wait} {ea : Word} (fails : s.walk w.tag w.ctx w.va false = none)
    (alone : w.streams = [t]) (joins : s.joined w t = true) (pend : (s.strm t).pend = some x) (line : x.line = some ea) :
    exec (.pageWalkComplete ⟨n, k⟩) s = .next ((s.setStation n { s.station n with walks := (s.station n).walks.eraseIdx k }).trapEntry t
      0x04 ea 0 (some (granuleOf ea))) := by
  have waits (st : Station) : ((s.setStation n st).strm t).pend = some x := pend
  change execPageWalkComplete ⟨n, k⟩ s = _
  simp only [execPageWalkComplete, walks, fails, alone, List.filter_cons_of_pos joins, List.filter_nil, List.foldl_cons, List.foldl_nil,
    waits, line, Option.bind_some, Option.getD_some]
end

/-! ### Block counters (R405, R406) -/

theorem bbcN_eq (w : Word) : bbcN w = 2 ^ min 24 (w.toNat / 2 ^ 58 % 32) := by
  rw [bbcN, BitVec.extractLsb'_toNat, Nat.shiftRight_eq_div_pow]

theorem exec_bbc_of_issues {s : State} {t : StreamId} {f g : FmtA}
    (issues : s.IssuesA t (entInt 0xE8 ⟨false, false, false, false, false⟩) anyFields f g) :
    let base := (s.ctx (s.core t.core).tag.toNat (s.core t.core).ctx.toNat).bbcBase
    let n := g.imm.toNat % 2 ^ 24
    exec (.bbc f) s = .next ((if base.getLsbD 63 && decide (n < 2 ^ min 24 (base.toNat / 2 ^ 58 % 32))
      then s.setCore t.core ((s.core t.core).bbcCount n) else s).retire t) := by
  intro base n
  have block : (g.imm.extractLsb' 0 24).toNat = n := by rw [BitVec.extractLsb'_toNat, Nat.shiftRight_zero]
  refine (issueA_issues issues _).trans (congrArg Host.Outcome.next ?_)
  have outside : (!bbcEn base || decide (bbcN base ≤ n)) =
      !(base.getLsbD 63 && decide (n < 2 ^ min 24 (base.toNat / 2 ^ 58 % 32))) := by
    rw [bbcN_eq, Bool.not_and, ← decide_not, bbcEn]
    simp only [Nat.not_lt]
  dsimp only
  rw [block, outside]
  cases base.getLsbD 63 && decide (n < 2 ^ min 24 (base.toNat / 2 ^ 58 % 32)) <;> rfl

theorem State.walk_setCore (s : State) (p : Nat) (c : Core) (tag : BitVec 6) (x : BitVec 3) (va : Word) (fetch : Bool) :
    (s.setCore p c).walk tag x va fetch = s.walk tag x va fetch := State.walkFrom_congr rfl va fetch levels _

/-- The address of block `n`'s counter in the array of a core's context. -/
def State.counterVa (s : State) (p n : Nat) : Word :=
  ((s.ctx (s.core p).tag.toNat (s.core p).ctx.toNat).bbcBase &&& 0x00FFFFFFFFFFFFFF) + BitVec.ofNat 64 (8 * n)

/-- A counter's region is not Private to the context of core `p`, whose write-backs it refuses. -/
def State.refusesCounter (s : State) (p key : Nat) : Bool :=
  (s.region key).st ≠ .priv || (s.region key).tag ≠ (s.core p).tag || (s.region key).ctx ≠ (s.core p).ctx

theorem State.refusesCounter_iff (s : State) (p key : Nat) : s.refusesCounter p key = true ↔
    ¬((s.region key).st = .priv ∧ (s.region key).tag = (s.core p).tag ∧ (s.region key).ctx = (s.core p).ctx) := by
  simp only [State.refusesCounter, Bool.or_eq_true, decide_eq_true_eq, ne_eq, Decidable.not_and_iff_not_or_not, or_assoc]

/-- A write-back to a mapped counter of this module adds to it, or is reported. -/
theorem State.bbcWrite_of_walk {s : State} {p : Nat} {e : Nat × Nat × Nat} {l : Leaf}
    (found : s.walk (s.core p).tag (s.core p).ctx (s.counterVa p e.2.1) false = some l) (own : s.isOwn l.module = true) :
    let va := s.counterVa p e.2.1
    let k := l.key + va.toNat % pageLen l.size
    s.bbcWrite p e = if s.refusesCounter p l.key then (s.touchPage p va).report p 1 0 0 0x04 0 va 0 none
      else (s.touchPage p va).store k 8 (s.mem.readNat k 8 + e.2.2) := by
  have same := onlyMisses_touchPage s p (s.counterVa p e.2.1)
  unfold State.counterVa at same found
  simp only [State.bbcWrite, same.walk, found, same.isOwn, own, same.region, same.mem, Bool.not_true, Bool.false_eq_true, if_false]
  rfl

/-- A write-back has left the list of its core. -/
def State.bbcTaken (s : State) (p : Nat) (x : Nat × Nat × Nat) : State :=
  s.setCore p { s.core p with bbcOut := (s.core p).bbcOut.filter (· != x) }

theorem State.core_bbcTaken (s : State) (p : Nat) (x : Nat × Nat × Nat) :
    (s.bbcTaken p x).core p = { s.core p with bbcOut := (s.core p).bbcOut.filter (· != x) } := s.core_setCore_same p _

theorem State.counterVa_bbcTaken (s : State) (p n : Nat) (x : Nat × Nat × Nat) : (s.bbcTaken p x).counterVa p n = s.counterVa p n := by
  rw [State.counterVa, State.core_bbcTaken]; rfl

theorem State.refusesCounter_bbcTaken (s : State) (p key : Nat) (x : Nat × Nat × Nat) :
    (s.bbcTaken p x).refusesCounter p key = s.refusesCounter p key := by
  rw [State.refusesCounter, State.core_bbcTaken]; rfl

theorem exec_bbcWriteback {s : State} {p : Nat} {n : BitVec 24} {x : Nat × Nat × Nat}
    (oldest : (s.core p).bbcOut.find? (fun e => e.2.1 == n.toNat) = some x) :
    exec (.bbcWriteback p n) s = .next ((s.bbcTaken p x).bbcWrite p x) := by
  change execBbcWriteback p n s = _
  simp only [execBbcWriteback, oldest]
  rfl

theorem exec_bbcWriteback_of_walk {s : State} {p : Nat} {n : BitVec 24} {x : Nat × Nat × Nat} {l : Leaf}
    (oldest : (s.core p).bbcOut.find? (fun e => e.2.1 == n.toNat) = some x)
    (found : s.walk (s.core p).tag (s.core p).ctx (s.counterVa p x.2.1) false = some l) (own : s.isOwn l.module = true) :
    let va := s.counterVa p x.2.1
    let k := l.key + va.toNat % pageLen l.size
    exec (.bbcWriteback p n) s = .next (if s.refusesCounter p l.key then ((s.bbcTaken p x).touchPage p va).report p 1 0 0 0x04 0 va 0 none
      else ((s.bbcTaken p x).touchPage p va).store k 8 (s.mem.readNat k 8 + x.2.2)) := by
  let u := s.bbcTaken p x
  have walk : u.walk (u.core p).tag (u.core p).ctx (u.counterVa p x.2.1) false = some l := by
    rw [s.core_bbcTaken, s.counterVa_bbcTaken]
    exact (s.walk_setCore ..).trans found
  rw [exec_bbcWriteback oldest, State.bbcWrite_of_walk walk own, s.counterVa_bbcTaken, s.refusesCounter_bbcTaken]
  rfl

/-- Settles O53: each part follows from the equation that says what its instruction or unit's step does. -/
theorem fencesAndAnswers : Obligations.FencesAndAnswers := by
  refine ⟨?fence, ?ftest, ?ftestAll, ?complete, ?answer, ?timeout, ?walk, ?bbc, ?writeback⟩
  case fence =>
    intro s t f g issues
    dsimp only
    rw [exec_fence_of_issues issues]
    refine ⟨fun free bound => ⟨s.fenced t (g.imm.extractLsb' 0 7), ?_, fun a => rfl, s.core_fenced_bbc t _, ?_, ?_⟩,
      fun full => by rw [if_pos full]⟩
    · rw [if_neg (by omega), fenceToken_eq]
    · rw [s.slot_fenced _ bound]
    · rw [s.slot_fenced _ bound]
      dsimp only
      split
      next => exact .inl rfl
      next busy => exact .inr ⟨s.fenceTracker t _, rfl, s.fenceTracker_seq t _, s.fenceTracker_fseq t _, rfl, by simpa using busy⟩
  case ftest =>
    intro s t f g issues
    simp only [exec_ftest_of_issues issues, not_tokenOk_iff, State.fenceDone_iff, ite_not]
  case ftestAll =>
    intro s t f g issues
    simp only [exec_ftestAll_of_issues issues, List.isEmpty_iff]
  case complete => exact fun s p k x xs ys listed first last => exec_fenceTrackerComplete listed first last
  case answer =>
    intro s t g dl line a m y off waits inTime tag space align bound snap
    have away : s.LdAway t g m y off := ⟨tag, space, align, bound⟩
    refine ⟨fun ws => exec_remoteAnswer_ld_data waits (State.inTime_of_le inTime) away ws snap,
      fun cause fits => exec_remoteAnswer_ld_refused waits (State.inTime_of_le inTime) away ?_⟩
    obtain rfl | rfl | rfl | rfl := fits <;> rfl
  case timeout => exact fun s t g dl line a waits => exec_remoteTimeout_ld waits
  case walk =>
    intro s n k w walks
    refine ⟨fun l found => ⟨_, exec_pageWalkComplete_leaf walks found, fun b => ?_, fun t member joins => ?_, ?_, ?_⟩,
      fun fails t x ea alone joins pend line => exec_pageWalkComplete_none walks fails alone joins pend line⟩
    · rw [State.foldl_wake_mem]
      rfl
    · exact State.pend_foldl_wake (State.slot_lt_of_joined joins) _ _ (.inl (List.mem_filter.mpr ⟨member, joins⟩))
    · rw [State.station_foldl_wake, State.station_setStation_same]
      exact Option.isSome_of_eq_some (Station.hit_insert _ l.va ⟨rfl, rfl, State.tlbOf_serves found⟩)
    · rw [State.station_foldl_wake, State.station_setStation_same]
      rfl
  case bbc => exact fun s t f g issues => exec_bbc_of_issues issues
  case writeback =>
    intro s p n x l oldest
    dsimp only
    intro found own
    have refuses := s.refusesCounter_iff p l.key
    refine ⟨fun mine => ?_, fun other => ?_⟩
    · exact (exec_bbcWriteback_of_walk oldest found own).trans (by rw [if_neg fun shut => refuses.mp shut mine]; rfl)
    · exact (exec_bbcWriteback_of_walk oldest found own).trans (by rw [if_pos (refuses.mpr other)]; rfl)

end Sys2Proof.Machine
end
